-- ==== Sys2Proof/Word.lean ====
section
/-! DEFINITION. The word types, the names of cells (R20) and the plain data that commands carry as operands. -/

namespace Sys2Proof

/-- One byte. -/
abbrev Byte := BitVec 8

/-- A register, descriptor, ring-entry or flit word (R6): 32 bits. -/
abbrev W32 := BitVec 32

/-- A frame number or a timebase count (R30, R48): 64 bits. -/
abbrev W64 := BitVec 64

/-- A status code (R11). -/
abbrev Status := BitVec 16

/-- The cells of R20. A hall cell is always this panel's own (entry 505 of R23). -/
inductive CellId where
  | core (n : Nat)
  | die (n : Nat)
  | quad (n : Nat)
  | tile (n : Nat)
  | panel
  | work (n : Nat)
  | hall
  deriving DecidableEq, Repr

/-- The path a register access takes (R7, R310): a site's BAR2 or BAR0, or a MGMT message of the PMC (R211). -/
inductive Path where
  | bar2 (site : Nat)
  | bar0 (site : Nat)
  | mgmt
  deriving DecidableEq, Repr

/-- Where a DMA transfer's beats arrive (R183, R186): a core's mesh DMA port, a reservoir die, a Fabric I/O die, a
Host Gate or the management die. -/
inductive UnitId where
  | core (n : Nat)
  | res (n : Nat)
  | fio (n : Nat)
  | gate (n : Nat)
  | mgmt
  deriving DecidableEq, Repr

/-- A control-network node that fires the Shutter (R48, R209): a quadrant node, a Fabric I/O die or a Host Gate. -/
inductive Node where
  | quad (n : Nat)
  | fio (n : Nat)
  | gate (n : Nat)
  deriving DecidableEq, Repr

/-- How a fabric port ends training (R275). -/
inductive PortMode where
  | down | x8 | x4lo | x4hi | training | absent
  deriving DecidableEq, Repr

/-- How a UCIe module ends training (R308). -/
inductive ModMode where
  | down | x64 | x32 | training
  deriving DecidableEq, Repr

/-- The two supply inputs (R330). -/
inductive Supply where
  | main | backup
  deriving DecidableEq, Repr

/-- The two halves of a tile: stacks and reservoir dies A and B, converters W and E (R15, R334). -/
inductive Side where
  | w | e
  deriving DecidableEq, Repr

/-- The two reference oscillators (R355). -/
inductive Ref where
  | a | b
  deriving DecidableEq, Repr

/-- A HEAD flit with the bytes its DATA flits carry (R276, R277). `crcOk` is whether CRC-32C passes (R280). -/
structure Train where
  vl : Nat
  op : Nat
  seq : Nat
  dest : Nat
  src : Nat
  ring : Nat
  west : Bool
  addr : Nat
  xid : Nat
  status : Status
  len : Nat
  leaseEnd : W32
  pub : Bool
  /-- Poisoned sectors, by index from the first DATA sector. -/
  poison : List Nat
  data : List Byte
  crcOk : Bool
  /-- CREDIT by VL, ACK_SEQ and NAK of the HEAD flit as it arrives (R277, R281). -/
  credits : List Nat := []
  ackSeq : Nat := 65535
  nak : Bool := false
  /-- A reserved bit is set (R9). -/
  resv : Bool := false
  /-- MODEL'S OWN: of a train in an egress queue, the work cell whose plate sends it (R282). -/
  plate : Option Nat := none
  /-- MODEL'S OWN: re-pointed from the ring's other port, unacknowledged there: it goes before any new train (R293). -/
  turned : Bool := false
  deriving DecidableEq, Repr

/-- An express flit as it arrives (R283): DEST, whether CRC-32C passes, whether a reserved bit is set (R9). -/
structure Flit where
  dest : Nat
  crcOk : Bool
  resv : Bool
  deriving DecidableEq, Repr

/-- An express flit and the port at which it arrives. -/
structure Rx where
  port : Nat
  flit : Flit
  deriving DecidableEq, Repr

/-- What a message of the control network names, and whether it arrives later than 150 ns (R212). -/
structure Timed (α : Type) where
  val : α
  late : Bool
  deriving DecidableEq, Repr

/-- A write of RTR_SWAP: the router and FRAME16 (R217). -/
structure SwapWrite where
  router : Nat
  frame16 : BitVec 16
  deriving DecidableEq, Repr

/-- Of a HALL_SHUTTER, in ns (R60): the member's own Shutter time and the arrival time. -/
structure HallTimes where
  own : Int
  arrival : Int
  deriving DecidableEq, Repr

/-- Of a hall barrier (R285): the arrivals counted and the earliest arrival time. -/
structure HallArrivals where
  count : Nat
  earliest : Nat
  deriving DecidableEq, Repr

/-- Of a hall barrier's RELEASE (R285): its ID and the earliest arrival time. -/
structure HallRelease where
  id : Nat
  earliest : Nat
  deriving DecidableEq, Repr

/-- The head word of a firmware express flit (R454, R457). -/
structure FwHead where
  kind : Nat
  seq : Nat
  index : Nat
  deriving DecidableEq, Repr

/-- One sensor's sample (R371): the two elements' readings in 1/16 °C, where they gave a sample. A single sensor
(an HBM stack, a Host Site) gives its reading as `diode` and none as `ring`. -/
structure Sample where
  sensor : Nat
  diode : Option Int
  ring : Option Int
  deriving DecidableEq, Repr

/-- What IDENT carries (R289). -/
structure IdentBody where
  panel : Nat
  serial : W64
  port : Nat
  ring : Nat
  dim : Nat
  hall : Nat
  mode : PortMode
  deriving DecidableEq, Repr

/-- One stack's results of training and memory test (R425). -/
structure StackTest where
  stack : Nat
  /-- A channel failed training 3 times, or more than 64 rows of one bank are UNREPAIRABLE. -/
  failed : Bool
  /-- Rows hard-repaired. -/
  repaired : Nat
  /-- Rows that failed at 128 ms or in pass 2 with no spare left (UNREPAIRABLE). -/
  unrepairable : Nat
  /-- Rows logged weak at 256 ms. -/
  weak : Nat
  /-- Rows failing only at 512 ms. -/
  counted : Nat
  deriving DecidableEq, Repr

/-- A lane group of a direction of an inter-tile link (R199). -/
structure LaneGroup where
  tile : Nat
  link : Nat
  dir : Nat
  group : Nat
  deriving DecidableEq, Repr

/-- What the memory test and the links' first training found (R205, R425): the results of the stacks, and the lane groups that
failed. -/
structure MemoryTest where
  tests : List StackTest
  lanes : List LaneGroup
  deriving DecidableEq, Repr

/-- A number as the formats of R102 to R110 hold it: NaN, an infinity, or the exact value (−1)^neg × m × 2^e. -/
inductive Num where
  | nan
  | inf (neg : Bool)
  | fin (neg : Bool) (m : Nat) (e : Int)
  deriving DecidableEq, Repr

/-- The bits of `w` from bit `lo` on, `n` of them (R6). -/
def bits (w : Nat) (lo n : Nat) : Nat := w / 2 ^ lo % 2 ^ n

/-- One bit of `w`. -/
def bitOf (w : Nat) (i : Nat) : Bool := w / 2 ^ i % 2 == 1

/-- A flag as a number. -/
def b2n (b : Bool) : Nat := if b then 1 else 0

end Sys2Proof
end

