-- ==== Sys2Proof/Syntax.lean ====
section
/-! DEFINITION. The commands of the panel: one constructor for each row of spec/opcode_table.json, in its order. A
command is a register access, a Vilsal command of the PMC, a descriptor the sequencer issues, or an event of the
hardware. The table gives its rows no operands; each constructor carries what the rule of its row needs to say
which unit acts and what arrives from outside. -/

namespace Sys2Proof

inductive Instr where
  -- cell control words
  /-- R35: a write of `value` to CCB_TOKEN_IN of `cell`. -/
  | tokenInWrite (cell : CellId) (value : W32)
  /-- R405: CCB_RESET with KIND 0b01. -/
  | ccbResetPlanned (cell : CellId)
  /-- R406: CCB_RESET with KIND 0b10. -/
  | ccbResetFatal (cell : CellId)
  /-- R38: a write of `value` to CCB_DOORBELL. -/
  | ccbDoorbellWrite (cell : CellId) (value : W32)
  /-- R38: the PMC accepts the pending doorbell of `cell`. -/
  | doorbellAccept (cell : CellId)
  /-- R39: a write of `value` to CCB_FAULT. -/
  | ccbFaultClear (cell : CellId) (value : W32)
  /-- R8: a write of `width` bytes at `addr` (a Panel Address, or an offset of BAR0 on that path). -/
  | registerWrite (path : Path) (addr : Nat) (width : Nat) (value : W32)
  -- router tables
  | rtrTblDataWrite (router : Nat) (value : W32)
  | rtrTblDataRead (router : Nat)
  | swapArm (router : Nat) (frame16 : BitVec 16)
  | swapDisarm (w : SwapWrite)
  | bankValidationDone (router : Nat)
  -- doorbell page
  | mailboxDoorbell (site : Nat) (mb : Nat)
  | aringTailWrite (site : Nat) (value : W32)
  | cringHeadWrite (site : Nat) (value : W32)
  -- Vilsal commands: each acts on the mailbox at the head of the PMC's command queue (R314)
  | getInfo
  | ringSetup
  | eventMask
  | contactRead
  | statsRead
  | frameConfig
  | cellConfig
  | classSet
  | classGet
  | hallForm
  | hallLeave
  | plateLoad
  | plateBind
  | plateUnbind
  | plateDelete
  | keyEnrol
  | keyRevoke
  | hostwinSet
  | resSplit
  | publish
  | fabRebind
  | ringRelease
  | ringRejoin
  | hbmCopy
  | policySet
  | cellForceDark
  | cellForceRelease
  | cellForceRetire
  | spareSet
  | linkForceRetire
  | linkForceRetrain
  | linkForceReturn
  | clockSet
  | marginSet
  | powerLimit
  | fwUpdate
  | fwStatus
  | meterReadLegal
  | meterReadInformative
  | jobTag
  -- descriptors: the sequencer of `core` issues the next descriptor of its stream (R75, R77)
  | dmaGet (core : Nat)
  | dmaPut (core : Nat)
  | array (core : Nat)
  | ve (core : Nat)
  | strainerExact (core : Nat)
  | strainerPredict (core : Nat)
  | strainerKeep (core : Nat)
  | semWait (core : Nat)
  | semSignal (core : Nat)
  | slotPhase (core : Nat)
  | notice (core : Nat)
  | mark (core : Nat)
  | endDesc (core : Nat)
  | descStreamEnd (core : Nat)
  -- engine events
  | arrayIssueStart (core : Nat)
  | weightSwap (core : Nat)
  | arrayComplete (core : Nat)
  | veRowsStart (core : Nat)
  | veRelease (core : Nat)
  | veComplete (core : Nat)
  | strainerBuildStart (core : Nat)
  | strainerComplete (core : Nat)
  /-- R87: the DMA descriptor at place `slot` of the DMA queue (a GET, or a zero-count transfer) completes at core
  cycle `cycle`. -/
  | dmaComplete (core : Nat) (slot : Nat) (cycle : Nat)
  | endComplete (core : Nat)
  | semWaitPass (core : Nat)
  /-- R89: the pending signal at place `slot` is sent. -/
  | pendingSignalSend (core : Nat) (slot : Nat)
  /-- R94: the pending mark at place `slot` is written. -/
  | markEntryWrite (core : Nat) (slot : Nat)
  -- control-network messages
  | shutterArm (node : Node) (frame : W64) (count : W64)
  | heartbeat (node : Node) (frame : W32)
  | faultMessage (cell : CellId) (faults : BitVec 16)
  /-- R215: a participant (a core) arrives at barrier `id`, which `count` participants share, at timebase `time`. -/
  | barrierArrival (id : Nat) (core : Nat) (count : Nat) (time : Nat)
  | barrierRelease (id : Nat) (core : Timed Nat)
  /-- R89: semaphore `sem` of `core` receives `inc`, at core cycle `cycle`; `late` when past 150 ns (R212). -/
  | signalMessage (core : Nat) (sem : Nat) (inc : Nat) (cycle : Nat) (late : Bool)
  /-- R186: one DMA_ACK for the PUT at place `slot` of the DMA queue, at core cycle `cycle`. -/
  | dmaAck (core : Nat) (slot : Nat) (cycle : Timed Nat)
  | dmaNak (core : Nat) (slot : Nat) (status : Timed Status)
  /-- R35: a token arrives at the in-port of `cell` from the cell `sender`. -/
  | tokenMessage (cell : CellId) (token : W32) (sender : Timed CellId)
  /-- R340: a NOTICE of `core` reaches its regulator controller: DELTA and effective lead (0.1 µs). -/
  | noticeMessage (core : Nat) (delta : Int) (lead : Timed Nat)
  /-- R211: a MGMT access ordered by the PMC: a write of `value`, or a read, of the register at `addr`. -/
  | mgmtMessage (isWrite : Bool) (addr : Nat) (value : W32)
  | fwData (core : Nat) (seq : Nat) (index : Nat) (words : List W32)
  | fwEnd (core : Nat) (seq : Nat) (length : Nat)
  | fwNack (core : Nat) (indices : List Nat)
  | fwAck (core : Nat)
  /-- R213: quadrant node `q` finds a framing error on link `link` (0 N, 1 S, 2 E, 3 W). -/
  | twinSwitch (q : Nat) (link : Nat)
  -- mesh
  /-- R192: the router's outputs act in its base cycle `cycle`, counted from the Shutter. -/
  | beatForward (router : Nat) (cycle : Nat)
  | putWrite (dest : UnitId)
  | getRequest (responder : UnitId)
  | phaseSwitch (router : Nat)
  -- the frame
  | shutter
  | goSend (w : Nat)
  | developDeadline
  | extensionLimit
  | stopBath
  | drainClose
  | heartbeatCheck
  | shutterArmTimeout (node : Node)
  | quadrantMissLimit (q : Nat)
  -- hall
  /-- R60, R286: the master's frame number and timebase count, its times here, SEND_DELTA and CORR, in ns. -/
  | hallShutter (rx : Rx) (frame count : W64) (times : HallTimes) (sendDelta corr : Int)
  | hallMasterLoss
  | hallFreeRun
  -- fabric
  /-- R275: the port ends training in `mode` with a credit round trip of `rtt` ns. -/
  | portTrained (port : Nat) (mode : PortMode) (rtt : Nat)
  | portDown (port : Nat)
  | loopbackDone (port : Nat) (pass : Bool)
  | spanRetrainTimer (port : Nat)
  | portPeriodicRetrain (port : Nat)
  | trainSend (port : Nat)
  | fabPut (port : Nat) (t : Train)
  | getReq (port : Nat) (t : Train)
  | getResp (port : Nat) (t : Train)
  | fillReq (port : Nat) (t : Train)
  | fillResp (port : Nat) (t : Train)
  | nakResp (port : Nat) (t : Train)
  /-- R281: credits returned for VL0 to VL5, ACK_SEQ and NAK. -/
  | credit (rx : Rx) (credits : List Nat) (ackSeq : Nat) (nak : Bool)
  /-- R285: a BARRIER flit of panel `src`. -/
  | expressBarrier (rx : Rx) (id : Nat) (src : Nat) (arrivals : HallArrivals)
  | expressRelease (rx : Rx) (release : HallRelease)
  | ident (rx : Rx) (body : IdentBody)
  /-- R291: a LEAVE arrives: panel `panel` leaves the ring at a Shutter. -/
  | leave (rx : Rx) (panel : Nat) (frame : W64)
  /-- R290: a PROBE that has collected `ids` arrives at `port`: at the west port it was sent east. -/
  | probe (port : Nat) (ids : List Nat) (x : Flit)
  | probeTimeout (ring : Nat)
  /-- R457: a firmware express flit of a hall distribution, of panel `src`: its head word and its other words. -/
  | fwFlit (rx : Rx) (src : Nat) (head : FwHead) (words : List W32)
  | remoteFetchTimeout (xid : Nat)
  | lateTrainDiscard (port : Nat) (xid : Nat)
  -- memory
  | refreshSlot (stack : Nat)
  | hbmTempDeadline (stack : Nat)
  | maintenanceStep (stack : Nat)
  | maintenanceStepDone (stack : Nat) (pass : Bool)
  | hbmCopyDone
  /-- R307: a CXL.mem access of the site at a window offset: a write of `data`, or a read of `len` bytes. -/
  | cxlMemAccess (site : Nat) (isWrite : Bool) (offset : Nat) (len : Nat) (data : List Byte)
  -- supplies
  | inputValid (inp : Supply)
  | inputInvalid (inp : Supply)
  | inputOvercurrent (inp : Supply)
  | mainReturn
  | inputReconnect (inp : Supply)
  /-- R333: power failure; `bulk` when the bulk node fell below 36 V, else both inputs invalid for 100 µs. -/
  | powerFailure (bulk : Bool)
  | converterFail (tile : Nat) (side : Side)
  | phaseShed (q : Nat) (phase : Nat)
  | quadrantOvercurrentStop (q : Nat)
  | unannouncedStep (q : Nat)
  | vcoreDroop (q : Nat)
  | stretchWithdraw (q : Nat)
  | stretchEnd
  | stretchLimit
  | quadrantRamp (q : Nat)
  /-- R344: the bus controller's check, with P_meas and the present draws of the quadrants that run on the bus, in ascending order, in
  mW. -/
  | rampStep (q : Nat) (pMeas : Nat) (draws : List Nat)
  | efuseTrip (q : Nat)
  | efuseProbe (q : Nat) (pass : Bool)
  | hostSiteRailOff (site : Nat)
  -- clocks
  | referenceLoss (r : Ref)
  | referenceReturn (r : Ref)
  | lossOfLock (q : Nat)
  | dieClockLoss (die : Nat)
  | dieUngate (die : Nat)
  | dieSelfTestDone (die : Nat) (pass : Bool)
  -- thermal
  | sensorSample (samples : List Sample)
  | fanfailChange (fan : Nat) (asserted : Bool)
  | fanfailHoldTimer
  | inletHoldTimer
  | thermalResistanceTick
  | thermalFlashWrite
  | holdExit
  -- ageing
  /-- R412: m(RATIO), m(RATIO+1), m(RATIO+2) in mV where tested, and whether the point at zero offset failed. -/
  | bracketing (q : Nat) (m0 m1 m2 : Nat) (failed : Bool)
  /-- R413: a re-plan of quadrant `q` for `cause` (R414) with what the monitor fit alone predicts, in mV. -/
  | marginReplan (q : Nat) (cause : Nat) (monitor : Int)
  | ageingStore
  -- the PMC
  | lockstepMismatch
  | commandDeadlineExpiry
  | pmcRestartDone
  | bindInstallDeadline (w : Nat)
  | residentLoadFail (w : Nat) (position : Nat)
  | detourCompute
  | linkRetrain (tile link dir group : Nat)
  | linkRetrainDone (tile link dir : Nat) (pass : Bool)
  | moduleTrained (site module : Nat) (mode : ModMode)
  | siteRetrain (site : Nat)
  -- bring-up
  /-- R423: the cold start; `fuseBad` is the index of a fuse word with no majority (R424). -/
  | coldStart (fuseBad : Option Nat)
  | memoryTestDone (results : MemoryTest)
  | coreTestDone (failed : List Nat)
  | warmSelfTestDone (core : Nat) (pass : Bool)
  | resetReq (heldMs : Nat)
  /-- R430: the recovery service receives a bank image. -/
  | recoveryImage (bank : Nat) (image : List Byte)
  -- SPDM (R449 to R451), on the DOE mailbox of a site
  | getVersion (site : Nat)
  | getCapabilities (site : Nat)
  | negotiateAlgorithms (site : Nat) (baseAsym baseHash measHash : W32)
  | getDigests (site : Nat)
  | getCertificate (site : Nat) (slot : Nat) (offset length : Nat)
  | challenge (site : Nat) (slot : Nat) (nonce : List Byte)
  | getMeasurements (site : Nat) (index : Nat) (sign : Bool) (nonce : List Byte)
  | signTranscript (site : Nat) (word0 : W32)
  | getPublic (site : Nat) (word0 : W32)
  | spdmUnsupported (site : Nat) (code : Nat)
  -- PLDM (R416)
  | getSensorReading (id : Nat)
  | getStateSensorReadings (id : Nat)
  | getPdr (record : Nat)
  -- the metering cartridge
  | snapshot (words : List W32)
  /-- R467: an interval closes for `cause` flags at cartridge second `second`, with E_MAIN and E_BACKUP in mWh. -/
  | intervalClose (second : Nat) (eMain eBackup : Nat)
  | leverBypass (second : Nat) (eMain eBackup : Nat)
  | leverMeter (second : Nat)
  | cartridgeSwap (inserted : Option W64)
  | cartridgePowerLoss (second : Nat) (eMain eBackup : Nat)
  | statusFrame (crcOk : Bool) (state : Nat) (seconds : W32) (eTotal : W64)
  | legalFrame (crcOk : Bool) (words : List W32)
  | linesFrame (crcOk : Bool) (seq : W32) (lines : List (List W32))
  | certsFrame (crcOk : Bool) (chain : List Byte)
  | statusTimeout
  -- further events
  | sidebandVidMessage (site : Nat) (millivolt : Nat)
  /-- R371: a Host Site reports its hottest junction sensor, 1/16 °C. -/
  | junctionReport (site : Nat) (temp : Int)
  | oscillatorRelock (q : Nat)
  | cartridgePowerUp (second : Nat)
  | vfabTFeedTrip (tile : Nat) (side : Side)
  deriving DecidableEq, Repr

end Sys2Proof
end

