-- ==== Sys2Proof/Decode.lean ====
section
/-! DEFINITION. The decoder over the rows of the command table that give bits: none does. -/

namespace Sys2Proof

/-- spec/opcode_table.json gives no row a mask, a pattern or a field: no word spells a command. -/
def decodeTableWord (_nbits _w : Nat) : Option Instr := none

end Sys2Proof
end

