-- ==== Sys2Proof/Config.lean ====
section
/-! DEFINITION. What the spec leaves open: constants without a body, so that no proof can rest on a value of them.
Each is named in an entry of the assumption log. -/

namespace Sys2Proof.Config

/-- A byte of a range whose contents are undefined (R56): its epoch and its Panel Address. Log entry 5. -/
opaque freeByte : Nat → Nat → Byte

/-- A free word, by the count of free values taken so far. Log entry 6. -/
opaque freeWord : Nat → W32

/-- The results of EXP2, LOG2, RCP and RSQ before they are held to their error bounds (R134): function code and
operand. Log entry 7. -/
opaque special : Nat → W32 → W32

/-- SHA-384 of a byte string (R436, R440). Log entry 8. -/
opaque sha384 : List Byte → List Byte

/-- ECDSA P-384: public key, message, signature (R439). Log entry 8. -/
opaque ecdsaVerify : List Byte → List Byte → List Byte → Bool

/-- LMS, of the one type R439 takes: public key, message, signature. Log entry 8. -/
opaque lmsVerify : List Byte → List Byte → List Byte → Bool

/-- The device's own signature of a message: key number (0 ECDSA, 1 the panel's HSS key, 2 the cartridge's), the
count of uses, the message (R448, R451, R469). Log entry 8. -/
opaque sign : Nat → Nat → List Byte → List Byte

/-- The device's certificate chains and public keys, by number (R446, R450). Log entry 8. -/
opaque certificate : Nat → List Byte

/-- The boot ROM's contents (R450). Log entry 8. -/
opaque bootRom : List Byte

/-- The cartridge's legal software: version, and SHA-384 (R469). Log entry 8. -/
opaque cartVersion : W32
opaque cartHash : List Byte

/-- Random bytes of the device (R450): count of free values taken, length. Log entry 8. -/
opaque nonce : Nat → List Byte

/-- What a PMC policy chooses where its rule leaves the choice open: policy and count of free values. Log entry 9. -/
opaque choice : Nat → Nat → Nat

/-- The PMC's voltage for a clock ratio, mV (R337). Log entry 46. -/
opaque vbase : Nat → Nat

/-- E of R375 for a pair: the weighted mean of the HEALTHY pairs' readings, given by ID. The spec gives the sensors no
coordinates. Log entry 44. -/
opaque estimate : Nat → List (Nat × Int) → Int

end Sys2Proof.Config
end

