-- ==== Sys2Proof/Machine/State.lean ====
section
/-! DEFINITION. The state of the panel as plain data: every register, queue, buffer, mode and pin the spec names,
the waiting commands, the faults and refusals, and the state after reset. A table (`Tab`) lists only the entries
that differ from its default, in rising order of their keys. Fields marked MODEL'S OWN are no state of the spec:
each is named in an entry of the assumption log. -/

namespace Sys2Proof.Machine

/-- A table by number: key and value pairs, keys strictly rising, no value equal to the table's default. -/
abbrev Tab (α : Type) := List (Nat × α)

/-- The states of R27. -/
inductive CellState where
  | off | starting | ready | running | degraded | resetting | faulted | dark | hold | retired
  deriving DecidableEq, Repr

/-- A Cell Control Block (R23 to R34): a core's own, or what a composite holds of its own (R40, R42). -/
structure Ccb where
  /-- STATE (R27). -/
  state : CellState := .off
  /-- REASON (R28). -/
  reason : Nat := 0
  /-- The state held before a fault (R58). -/
  former : CellState := .off
  /-- CCB_FRAME_HI, CCB_FRAME_LO (R30). -/
  frame : W64 := 0
  /-- CCB_FAULT (R31). -/
  fault : BitVec 16 := 0
  /-- The fault bits whose condition still holds (R39, R58). -/
  holding : BitVec 16 := 0
  /-- CCB_FAULT_FIRST (R32). -/
  first : W32 := 0
  /-- CCB_FAULT_FRAME (R32). -/
  firstFrame : W32 := 0
  /-- The in-port queue, oldest first (R35). -/
  inport : List W32 := []
  /-- CCB_TOKEN_OUT (R33). -/
  tokenOut : W32 := 0
  /-- EMITTED and OVF of CCB_TOKEN_STAT (R33). -/
  emitted : Nat := 0
  ovf : Nat := 0
  /-- A planned reset waits for the Stop Bath (R37, R405). -/
  resetPending : Bool := false
  /-- PENDING of CCB_DB_STAT and the COOKIE handed to the PMC (R38). -/
  dbPending : Bool := false
  cookie : BitVec 24 := 0
  deriving DecidableEq, Repr

/-- The cumulative counters of a register block by offset, their values at the last Stop Bath, and their
last-frame copies (R100). -/
structure Counters where
  now : Tab W32 := []
  prev : Tab W32 := []
  last : Tab W32 := []
  deriving DecidableEq, Repr

/-- What the sequencer does (CORE_SEQ_STAT.STATE, R99). -/
inductive SeqState where
  | done | issuing | waitSem | waitQueue | waitNotice | waitPhase | inEnd | stopped
  deriving DecidableEq, Repr

/-- A SEM_SIGNAL or MARK that waits for its AFTER mask (R89, R94): the descriptor and how many descriptors each
marked engine had been issued. -/
structure PendingSig where
  desc : List W32
  /-- Descriptors issued to array, VE, Strainer and DMA when it was issued (R89). -/
  after : List Nat
  deriving DecidableEq, Repr

/-- A SEM_WAIT that holds (R175, R176). -/
structure Waiting where
  role : Bool
  sem : Nat
  count : Nat
  tag : Nat
  /-- The core cycle of its first test. -/
  since : Nat
  deriving DecidableEq, Repr

/-- The core sequencer (R74 to R78, R99). -/
structure Seq where
  /-- CORE_SEQ_BASE and CORE_SEQ_LEN as written, and as in force since the last Shutter (R99). -/
  baseReg : Nat := 0
  lenReg : Nat := 0
  base : Nat := 0
  len : Nat := 0
  state : SeqState := .done
  /-- CORE_SEQ_STAT.INDEX. -/
  index : Nat := 0
  /-- MODEL'S OWN: the core cycle since the Shutter of the last event of this core. -/
  now : Nat := 0
  /-- MODEL'S OWN: the first core cycle in which the next descriptor may issue (R75). -/
  nextIssue : Nat := 16
  /-- MODEL'S OWN: the core cycle in which what can hold the sequencer last ceased to: the full queue of the array 0, the VE
  1, the Strainer 2, the DMA engine 3; eight pending signals 4; the armed phase 5 (R75, R89, R91). -/
  freed : Tab Nat := []
  /-- The core cycle at which a NOTICE's effective lead ends, and the frame's stretched time when that was reckoned (R93). -/
  noticeUntil : Nat := 0
  noticeUsed : Nat := 0
  waiting : Option Waiting := none
  /-- SEM_SIGNALs and MARKs pending on AFTER (R89), oldest first. -/
  pend : List PendingSig := []
  /-- The END descriptor that executes (R95). -/
  endDesc : Option (List W32) := none
  /-- CORE_FAULT_INFO and CORE_FAULT_IDX (R99). -/
  faultInfo : W32 := 0
  faultIdx : W32 := 0
  /-- END's cycle in this frame, and CORE_LF_END_CYCLE (R95, R100). -/
  endCycle : Option Nat := none
  lfEndCycle : W32 := 0xFFFFFFFF
  /-- CORE_MARK_PTR and the mark log by word (R101). -/
  markPtr : Nat := 0
  markLog : Tab W32 := []
  /-- The longest wait of the frame so far (R176). -/
  slipTag : Nat := 0
  slipRole : Bool := false
  slipSem : Nat := 0
  slipCyc : Nat := 0
  deriving DecidableEq, Repr

/-- A descriptor in an engine's queue. -/
structure Queued where
  desc : List W32
  /-- VE: the infusion as fetched, and its poisoned words (R126, R136); the row pairs of the next tile that have issued. -/
  prog : List W32 := []
  bad : Nat := 0
  rows : Nat := 0
  /-- Its ordinal among the descriptors issued to its engine in the frame, from 1, and how many ARRAYs had been
  issued before it (R122). -/
  ord : Nat := 0
  arraysBefore : Nat := 0
  /-- Its stream index, and the core cycle at which it entered (R70, R126). -/
  index : Nat
  entered : Nat
  /-- Its Strainer context's column block for an ARRAY on a context (R138). -/
  colBlock : Nat := 0
  /-- The context poisoned, or a poisoned operand read (R85). -/
  poisoned : Bool := false
  /-- It has started: the window is open, the first row pair has issued, or the build runs. -/
  started : Bool := false
  /-- The core cycle of its start and of its completion, once started (R70, R126, R155). -/
  start : Nat := 0
  finish : Nat := 0
  /-- ARRAY: blocks issued; VE: tiles released; DMA: 128-byte beats moved. -/
  progress : Nat := 0
  /-- ARRAY: the block sums computed so far, block by block, each M × N of them row by row (R109). -/
  sums : List (List Num) := []
  /-- VE: output rows of the tiles released so far: tile, row, poisoned, the values of OUT_REG by column (R126). -/
  outs : List (Nat × Nat × Bool × List W32) := []
  /-- Strainer: bytes to write at completion, by Panel Address (R142). -/
  writes : List (Nat × Byte) := []
  /-- Output words to mark poisoned at completion, as word indices. -/
  badWords : List Nat := []
  /-- DMA PUT: the destinations, each a node and a place there, that have acknowledged it (R186). -/
  acks : List (Nat × Nat) := []
  /-- A remote transfer's transaction number (R277). -/
  xid : Option Nat := none
  /-- ARRAY on a context: the stream index of the build it uses (R138), its place in the make-up order (R150): 0 not
  decided, 1 compute, 2 idle, 3 no-op, 4 clip; the blocks planned; the cycles lost to holds in its block (R120). -/
  build : Nat := 0
  plan : Nat := 0
  blocks : Nat := 0
  stall : Nat := 0
  stallFrom : Option Nat := none
  deriving DecidableEq, Repr

/-- One weight buffer of the array (R67): a block is complete in it, and the codes that its 128 columns hold, one list a
K-row of the block (two K-rows a cell row where a cell holds two); every row beyond is zero. -/
structure WeightBuf where
  full : Bool := false
  rows : List (List Nat) := []
  /-- A cell row fails its parity (R97); a poisoned word went into it (R85). -/
  upset : Bool := false
  poisoned : Bool := false
  deriving DecidableEq, Repr

/-- The tensor array and its accumulators (R66 to R73). -/
structure ArrayUnit where
  queue : List Queued := []
  /-- Descriptors issued to and completed by the array in this frame (R89, R95). -/
  issued : Nat := 0
  done : Nat := 0
  /-- ACTIVE_HALF (R99): 0 where buf0 is active; and the two weight buffers. -/
  activeHalf : Bool := false
  buf0 : WeightBuf := {}
  buf1 : WeightBuf := {}
  /-- The block that loads, or has loaded, into the shadow buffer: the ordinal of its ARRAY and its number; the core cycles in which
  the load starts and ends (R67, R70). -/
  loadFor : Option (Nat × Nat) := none
  loadFrom : Nat := 0
  loadEnd : Nat := 0
  /-- The core cycle at which the last issue window ended, the shadow buffer became free, and the last
  ARRAY completed (R70, R71). -/
  windowEnd : Nat := 0
  shadowFree : Nat := 0
  lastDone : Nat := 0
  /-- The core cycle at which the last ARRAY that writes each tile completed (R122). -/
  tileDone : Tab Nat := []
  /-- The core cycle of the last release of each tile (R120), and of the last completion that waited for the
  finished-tile queue (R121). -/
  tileFree : Tab Nat := []
  resume : Nat := 0
  /-- Accumulator elements by 128 × row + column (R66). -/
  acc : Tab W32 := []
  /-- Accumulator tiles marked poisoned (R85). -/
  tilePoison : List Nat := []
  /-- Elements with a bit error (R97): whether a double-bit one, and whether a read has counted it. -/
  flips : List (Nat × Bool × Bool) := []
  /-- CORE_ACC_ECC (R99). -/
  ce : Nat := 0
  ue : Nat := 0
  ueRow : Nat := 0
  deriving DecidableEq, Repr

/-- The Vector Engine (R117 to R137). -/
structure VeUnit where
  queue : List Queued := []
  issued : Nat := 0
  done : Nat := 0
  /-- The cycle of the last row pair issued, c_eff of its descriptor, the last completion (R126). -/
  lastIssue : Nat := 0
  lastCost : Nat := 0
  lastDone : Nat := 0
  /-- V0 to V15 by lane × 16 + register (R127). -/
  regs : Tab (BitVec 64) := []
  /-- TB0 to TB2 by buffer × 16384 + row × 128 + column (R119). -/
  tb : Tab W32 := []
  tbPoison : List Nat := []
  /-- Elements of the tile buffers with a bit error (R119), as in the accumulators. -/
  flips : List (Nat × Bool × Bool) := []
  /-- The lookup table and its poison marks (R131). -/
  lut : Tab W32 := []
  lutPoison : List Nat := []
  /-- The finished-tile queue: tile, TAG and the core cycle of its push, head first (R121). -/
  ftq : List (Nat × Nat × Nat) := []
  /-- The core cycle in which the last entry left the finished-tile queue. -/
  ftqPop : Nat := 0
  /-- VE_STAT.ROW_PAIR, VE_FAULT_INFO and VE_ECC (R137). -/
  rowPair : Nat := 0
  faultInfo : W32 := 0
  ce : Nat := 0
  ue : Nat := 0
  deriving DecidableEq, Repr

/-- A Strainer context (R138). -/
structure Ctx where
  /-- The frame of the last build issued to it, its descriptor, and the ARRAYs issued on that build (R138). -/
  built : Option W64 := none
  desc : List W32 := []
  arrays : Nat := 0
  /-- The core cycle of the last completion of an ARRAY on it (R139). -/
  arrDone : Nat := 0
  /-- The build whose contents it holds: its stream index once completed, its descriptor, its completion cycle. -/
  ready : Option Nat := none
  run : List W32 := []
  readyAt : Nat := 0
  poisoned : Bool := false
  /-- Kept channels (EXACT), or computed columns (PREDICT), in ascending order. -/
  kept : List Nat := []
  /-- PREDICT: skipped, Test Strip and clipped columns (R145, R151). -/
  skipped : List Nat := []
  strip : List Nat := []
  clipped : List Nat := []
  deriving DecidableEq, Repr

/-- One Negative entry: mask and frame tag (R144). -/
structure Neg where
  mask : BitVec 128 := 0
  tag : W32 := 0
  /-- Made stale by an event of R144. -/
  valid : Bool := false
  deriving DecidableEq, Repr

/-- The Strainer (R138 to R158). -/
structure StrUnit where
  queue : List Queued := []
  issued : Nat := 0
  done : Nat := 0
  lastDone : Nat := 0
  ctx : Tab Ctx := []
  /-- The intervals of core cycles of this frame in which a gather runs (R140). -/
  gathers : List (Nat × Nat) := []
  /-- The Negative store by bank × 4096 + entry (R144). -/
  neg : Tab Neg := []
  /-- STR_MU_BUDGET as written and in force, and STR_MU_USED (R150, R156). -/
  muReg : Nat := 0
  mu : Nat := 0
  muUsed : Nat := 0
  /-- The frame has clipped, and CLIPPED_LF (R151). -/
  clipped : Bool := false
  clippedLf : Bool := false
  /-- Operation statistics by entry × 8 + word (R158). -/
  stats : Tab W32 := []
  deriving DecidableEq, Repr

/-- A Caddy entry's four words (R170). -/
structure Cad where
  w0 : W32 := 0
  w1 : W32 := 0
  w2 : W32 := 0
  w3 : W32 := 0
  deriving DecidableEq, Repr

/-- The PMC's pending copy of a core's layout and registers (R246). -/
structure PendCopy where
  frame16 : Option Nat := none
  cad : Tab Cad := []
  base : Nat := 0
  len : Nat := 0
  mu : Nat := 0
  haz : Bool := false
  deriving DecidableEq, Repr

/-- A word read or written in scratch (R162 to R165): the scratch cycle, the word's index in the panel's address space, the port, the
Caddy handle, the stream index of the descriptor, whether for another core. -/
structure Touch where
  cycle : Nat
  word : Nat
  port : Nat
  handle : Nat
  index : Nat
  remote : Bool
  deriving DecidableEq, Repr

/-- What the five ports of a scratch have served (R162, R163): by port × 128 + bank, + 64 for a write, the scratch cycles in which that
bank served the port; by cycle × 8 + port the words that the port moved. -/
structure PortLog where
  taken : Tab (List Nat) := []
  moved : Tab Nat := []
  deriving DecidableEq, Repr

/-- Scratch, Caddy and semaphores (R159 to R182). -/
structure Scr where
  /-- HAZ_EN as written and in force (R165). -/
  hazReg : Bool := false
  haz : Bool := false
  /-- SCR_ECC and SCR_ECC_ADDR. -/
  ce : Nat := 0
  ue : Nat := 0
  eccWord : Nat := 0
  /-- The layout store, and the entries established at the last Shutter (R172). -/
  cadReg : Tab Cad := []
  cad : Tab Cad := []
  valid : List Nat := []
  copy : PendCopy := {}
  /-- CAD_STAT. -/
  cause : Nat := 0
  firstBad : Nat := 0
  bad : Nat := 0
  /-- Semaphore counts (R173). -/
  sem : Tab Nat := []
  /-- SEM_SLIP_MAX, SEM_SLIP_MAX_CYC and SEM_EXPIRE. -/
  slipMax : W32 := 0
  slipMaxCyc : W32 := 0
  expire : W32 := 0
  /-- SCR_HAZ_PTR and the hazard log by word (R182). -/
  hazPtr : Nat := 0
  hazLog : Tab W32 := []
  /-- MODEL'S OWN: what the ports have served in this frame (R163). -/
  ports : PortLog := {}
  /-- MODEL'S OWN: the reads of this frame in hazard-check mode; its writes, each with the bytes that the word held before and
  whether it was poisoned (R164, R165). -/
  reads : List Touch := []
  writes : List (Touch × List Byte × Bool) := []
  /-- The words in which a read of this frame met a double-bit error, and for each 2 KiB unit of a resident entry (handle × 8192 + unit)
  with one in the last frame the consecutive frames with one (R169). -/
  badUnits : List Nat := []
  unitErrs : Tab Nat := []
  /-- MODEL'S OWN: the semaphore that last stopped at 65,535 in this frame, and its core cycle (R174). -/
  satAt : Option (Nat × Nat) := none
  deriving DecidableEq, Repr

/-- A core's firmware slots and broadcast state (R453, R454). -/
structure CoreFw where
  runSeq : W32 := 0
  /-- Packets received of the broadcast, by INDEX. -/
  packets : Tab (List W32) := []
  complete : Bool := false
  acked : Bool := false
  repairs : Nat := 0
  deriving DecidableEq, Repr

/-- A core (R17, R66 to R182). -/
structure Core where
  ccb : Ccb := {}
  exposed : Bool := false
  /-- The plate position it holds: work cell and position (R18, R242). -/
  position : Option (Nat × Nat) := none
  seq : Seq := {}
  arr : ArrayUnit := {}
  ve : VeUnit := {}
  str : StrUnit := {}
  scr : Scr := {}
  cnt : Counters := {}
  /-- The DMA engine's queue, its counts, and the multicast count of each stream (R186). -/
  dma : List Queued := []
  dmaIssued : Nat := 0
  dmaDone : Nat := 0
  /-- The core cycle of the last completion of each stream in this frame (R498); until when the mesh DMA port holds the engine (R163). -/
  dmaLast : Tab Nat := []
  dmaHeld : Nat := 0
  mcast : Tab Nat := []
  /-- Stops this frame, and is late in extension (R51, R52, R78). -/
  late : Bool := false
  fw : CoreFw := {}
  /-- Frames of uncorrectable errors within the last 1,024 (R396). -/
  ueFrames : List W64 := []
  failed : Option Nat := none
  /-- Its warm recovery has passed: it rejoins at the next Shutter (R432). -/
  rejoin : Bool := false
  /-- MODEL'S OWN: retired under MANUAL sparing while exposed: its exposure passes to the core that SPARE_SET puts in (R3, R398). -/
  owed : Bool := false
  /-- The frame of the sparing that put it into a position (R398). -/
  sparedAt : Option W64 := none
  /-- Barriers whose release it has received (R215). -/
  released : List Nat := []
  deriving DecidableEq, Repr

/-- A beat on the mesh (R184). -/
structure Beat where
  data : List Byte
  poison : BitVec 4
  head : Bool
  last : Bool
  sig : Bool
  stream : Nat
  deriving DecidableEq, Repr

/-- A beat on its way to a router input (R187, R188): router, port (1 N to 6 A as R191), arrival cycle. -/
structure Flight where
  router : Nat
  port : Nat
  cycle : Nat
  beat : Beat
  /-- The core that issued its transfer (R499), if any. -/
  issuer : Option Nat
  deriving DecidableEq, Repr

/-- A router (R190 to R196, R217). -/
structure Router where
  active : Tab W32 := []
  pending : Tab W32 := []
  /-- RTR_STAT: PHASE, ROUND; the armed phase and its AT_ROUND (R91). -/
  phase : Nat := 0
  round : Nat := 0
  armed : Option (Nat × Nat) := none
  /-- MODEL'S OWN: the first round whose phase-schedule entry has not acted yet (R194). -/
  sched : Nat := 0
  /-- It marks every beat poisoned until its next switch (R91). -/
  poisoning : Bool := false
  /-- RTR_TBL_ADDR. -/
  bankSel : Bool := false
  index : Nat := 0
  /-- RTR_SWAP. -/
  frame16 : BitVec 16 := 0
  status : Nat := 0
  validating : Bool := false
  arm : Bool := false
  /-- RTR_TBL_ERR. -/
  tblErr : W32 := 0
  /-- Its outputs are idle until its quadrant next fires (R367). -/
  idle : Bool := false
  deriving DecidableEq, Repr

/-- A transfer's header as its receiver holds it (R185), with how much of it has been written or served. -/
structure Xfer where
  src : Nat
  stream : Nat
  rstream : Nat
  addr : Nat
  rowBytes : Nat
  rows : Nat
  addrStride : Nat
  hall : Bool
  cache : Bool
  signal : W32
  moved : Nat
  refused : Option Status
  /-- The port of the die at which its header arrived; 5 at a core. -/
  port : Nat := 0
  /-- Bytes received and not yet sent on as a train, each with its poison (R278). -/
  buf : List (Byte × Bool) := []
  deriving DecidableEq, Repr

/-- A die or core port of the mesh: beats delivered to it, transfers in progress, beats it will inject (R186). -/
structure MeshPort where
  /-- Beats delivered, in order of arrival (R255): cycle, port of the die (5 at a core), beat. -/
  rx : List (Nat × Nat × Beat) := []
  xfers : List Xfer := []
  /-- Response beats: the cycle from which each is ready (R186, R254), the attachment port that sends it, the beat. -/
  tx : List (Nat × Nat × Beat) := []
  /-- MODEL'S OWN: when a core's crossing FIFO has emptied, in sixteenths of its core cycles since the Shutter (R358). -/
  busyTo : Nat := 0
  deriving DecidableEq, Repr

/-- A quadrant: its controller, node, regulator and oscillator. -/
structure Quad where
  /-- Fired the last Shutter; the armed frame and count (R48); expects the next SHUTTER_ARM (R367). -/
  armFrame : Option (W64 × W64) := none
  fired : Bool := false
  missed : Nat := 0
  heard : Bool := false
  /-- QD_SB_STAT (R65). -/
  drainFail : Bool := false
  drainTime : Nat := 0
  /-- MODEL'S OWN: the base-branch cycle in which an item last left its units in the drain (R65). -/
  lastItem : Nat := 0
  /-- QD_CTL_STAT (R219). -/
  ctlLate : Nat := 0
  twin : BitVec 4 := 0
  /-- Links both of whose wire sets have failed, until the PMC has re-routed around them (R213). -/
  cut : BitVec 4 := 0
  /-- PWR_QD_STAT (R350). -/
  rail : Nat := 0
  good : Nat := 0
  limit : Nat := 0
  defers : Nat := 0
  vclamp : Bool := false
  step : Nat := 0
  /-- PWR_QD_VSET: MARGIN (mV) in force, VSET (mV). -/
  margin : Int := 0
  vset : Nat := 750
  /-- PWR_QD_IMEAS and PWR_QD_PHASE. -/
  peakLf : Nat := 0
  iNow : Nat := 0
  failedPh : BitVec 8 := 0
  activePh : BitVec 8 := 0
  sramGood : BitVec 2 := 3
  /-- Load notices pending at the regulator controller: DELTA and, as the base-branch cycle of the frame, the step time (R340). -/
  notices : List (Int × Nat) := []
  /-- Ramp: the frame of ramp start, F1, pause in µs, paused (R344, R345). -/
  rampF1 : Option W64 := none
  pause : Nat := 0
  /-- A ramp is to start; dies that passed the self-test since the last power-up (R344, R345). -/
  rampDue : Bool := false
  tested : BitVec 3 := 0
  /-- eFuse: it has tripped, the frame of the last passed probe, a probe is due (R346, R347). -/
  tripped : Bool := false
  probedAt : Option W64 := none
  probeDue : Bool := false
  /-- Requests a stretch (R361). -/
  stretching : Bool := false
  /-- CLK_QD_STAT (R368). -/
  source : Nat := 5
  standby : Nat := 5
  locked : Bool := false
  gated : BitVec 3 := 7
  dieFwd : BitVec 3 := 0
  attempts : Nat := 0
  phase : Int := 0
  /-- When it relocked, for the base branch's return, in cycles of 0.4 ns; dies whose self-test has passed, which rejoin at the next Shutter;
  dies whose reset was planned, marked expected-absent (R365, R366). -/
  relocked : Option Nat := none
  passed : BitVec 3 := 0
  absent : BitVec 3 := 0
  /-- CLK_QD_RATIO (R368): the limits of the policies that set RATIO (R359). -/
  ratio : Nat := 16
  ratioNext : Option (Nat × W64) := none
  ratioChanged : Nat := 0
  powerRatio : Nat := 16
  /-- The limit while a ramp deferred 8 times goes on beside it (R345). -/
  rampRatio : Nat := 16
  marginRatio : Nat := 16
  /-- The RATIO last set by CLOCK_SET, a limit while the four policies are MANUAL (R359). -/
  manualRatio : Nat := 16
  /-- THM_QD_CAP (R389), and the frames for which a higher cap or limit has held (R376, R381). -/
  tbase : Int := 0
  /-- The highest Base reading of the frame so far. -/
  baseMax : Option Int := none
  /-- MODEL'S OWN: a pair of the quadrant is ESTIMATED with no candidate HEALTHY, so that the cap is 8 (R375). -/
  blind : Bool := false
  capGated : Bool := false
  tlimit : Nat := 16
  cap : Nat := 16
  capFrames : Nat := 0
  capRise : Nat := 16
  tlFrames : Nat := 0
  thFrames : Nat := 0
  /-- QD_AGE and QD_BRK (R417). -/
  slack : Nat := 0
  roCount : Nat := 0
  brk : W32 := 0
  /-- Sums of the samples since the last hour, with their count (R411); kept in configuration flash: the hour's means, 90
  daily Bracketing results, newest first (R413). -/
  slackSum : Nat := 0
  roSum : Nat := 0
  ageN : Nat := 0
  slackMean : Nat := 0
  roMean : Nat := 0
  brkDays : List W32 := []
  /-- The monitors' mean slack at the last Bracketing and at the last re-plan (R413). -/
  brkSlack : Nat := 0
  planSlack : Nat := 0
  /-- A planned reset of the whole quadrant waits for the Stop Bath (R405, R431). -/
  resetPending : Bool := false
  cnt : Counters := {}
  deriving DecidableEq, Repr

/-- A direction of an inter-tile link (R199 to R205, R220). -/
structure Link where
  mode : Nat := 0
  retraining : Bool := false
  skipped : Bool := false
  group : Nat := 0
  good : BitVec 11 := 0
  changed : Nat := 0
  /-- Lanes whose next word fails its parity (R200). -/
  upset : List Nat := []
  /-- Parity errors per lane of the current frame, and of the last frames (R203). -/
  laneErrs : Tab Nat := []
  laneHist : List (Tab Nat) := []
  /-- Its groups have trained in the cold start (R205). -/
  trained : Bool := false
  /-- The group that has passed a retraining and is the spare from the next Stop Bath on; the groups with 1 to 3 errors in a frame;
  the frame of each group's last training (R204). -/
  passed : Option Nat := none
  due : List Nat := []
  trainedAt : Tab W64 := []
  /-- Retirement waits for its detours (R203), and the frame whose Shutter swaps them in. -/
  retiring : Bool := false
  retireAt : Option W64 := none
  /-- Groups retired while fewer than 8 others worked: they go on carrying data (R203). -/
  kept : List Nat := []
  deriving DecidableEq, Repr

/-- A tile: its buses, thermal registers and links. -/
structure Tile where
  /-- PWR_TILE_BUS (R351). -/
  convW : Nat := 2
  convE : Nat := 2
  tied : Bool := false
  feedW : Bool := false
  feedE : Bool := false
  pW : Nat := 0
  pE : Nat := 0
  /-- THM_TILE_ (R389). -/
  rth : Nat := 0
  base : Nat := 0
  cyc : Tab W32 := []
  tmax : Int := 0
  /-- Daily means, seconds learned, the 10-minute window, and the rainflow residue (R379, R386). -/
  daily : List Nat := []
  learned : Nat := 0
  window : List Nat := []
  residue : List Int := []
  /-- Sums of the second's Base readings, of the baseline's R_t and of the day's R_t, with their counts (R379). -/
  tSum : Int := 0
  tN : Nat := 0
  baseSum : Nat := 0
  daySum : Nat := 0
  dayN : Nat := 0
  /-- The bins and TMAX last written to configuration flash (R386). -/
  flashCyc : Tab W32 := []
  flashTmax : Int := 0
  /-- Link records by 2 × n + d (R220). -/
  links : Tab Link := []
  cnt : Counters := {}
  deriving DecidableEq, Repr

/-- A cache line of published hall data (R299): its 60-bit Hall line address, contents and lease. -/
structure Line where
  tag : Nat
  data : List Byte
  poison : List Nat
  leaseEnd : W32
  deriving DecidableEq, Repr

/-- An HBM stack and its reservoir die (R251 to R271, R435). -/
structure Stack where
  /-- HBM_STAT. -/
  state : Nat := 0
  hot : Bool := true
  tempStale : Bool := false
  quiet : Bool := false
  repairs : List Nat := []
  lastStep : Nat := 0
  /-- HBM_TEMP. -/
  temp : Nat := 0
  tempFrame : Nat := 0
  tempRead : Bool := false
  /-- HBM_ECC, HBM_ECC_SECTOR. -/
  ce : Nat := 0
  ue : Nat := 0
  sector : Nat := 0
  /-- RES_SPLIT: WIN in force; NEXT_WIN and its frame. -/
  win : Nat := 8
  winNext : Option (Nat × W64) := none
  /-- RES_ECC. -/
  resCe : Nat := 0
  resUe : Nat := 0
  resWord : Nat := 0
  /-- Consecutive cold readings, stale frames, maintenance (R259, R260, R263). -/
  coldReads : Nat := 0
  staleFrames : Nat := 0
  stepBusy : Bool := false
  /-- Steps started in this frame; work that failed in it waits for the next quiet frame (R261 to R263): 16 for a repair, else the
  channel. -/
  steps : Nat := 0
  failedNow : List Nat := []
  /-- Steps failed in a row by channel (R263). -/
  stepFails : Tab Nat := []
  /-- MODEL'S OWN: the base-branch cycle up to which holds of a refresh slot have counted (R258), and when each pseudo-channel is
  free, in twelfths of a cycle (R253, R254). -/
  heldTo : Nat := 0
  pcFree : Tab Nat := []
  nextChannel : Nat := 0
  /-- The work of the step that runs (R262): 16 a repair, a channel, 17 the margin checks. -/
  stepWork : Nat := 17
  /-- Microseconds until a stack in a host window may have its next step (R264). -/
  hostWait : Nat := 0
  /-- The frame in which the running pass of full retraining began (R262). -/
  passFrame : W64 := 0
  /-- Corrected errors of this frame by channel, and the channels with more than 64 in one frame (R262). -/
  ceFrame : Tab Nat := []
  hotChannels : List Nat := []
  /-- Frames in which a sector gave a double-bit error: sector and frame (R257). -/
  dberr : List (Nat × W64) := []
  /-- Sectors to write back corrected (R256); alternate slots scrub in cold mode (R259). -/
  writeBack : List Nat := []
  scrubSlot : Bool := false
  /-- MODEL'S OWN: the sector at which the patrol scrub goes on (R259). -/
  scrubAt : Nat := 0
  /-- Cache lines, most recently used first (R299). -/
  cache : List Line := []
  /-- MODEL'S OWN: in the quiet frame of a repair without a window, the key of which cache lines lie in the repair buffer (R267; log
  entry 32). -/
  buffer : Option Nat := none
  /-- HBM_BOOT. -/
  bootResult : Nat := 0
  bootRepaired : Nat := 0
  bootWeak : Nat := 0
  bootCounted : Nat := 0
  /-- The repair log in the state journal: the pages repaired since manufacture (R257, R419). -/
  repairLog : List Nat := []
  /-- The retention profile in the state journal: the last memory test's repaired, weak and counted rows (R419, R425). -/
  profile : List Nat := []
  /-- HBM_CNT (R271). -/
  cnt : Counters := {}
  deriving DecidableEq, Repr

/-- What a flit position of a port carries (R276): a HEAD or a DATA flit of a train, an express flit or an idle one. -/
inductive Place where
  | head (seq : Nat)
  | data (seq k : Nat)
  | express (kind : Nat)
  | idle
  deriving DecidableEq, Repr

/-- A fabric port (R274 to R282, R303). -/
structure Port where
  mode : PortMode := .down
  localFault : Bool := false
  spanFault : Bool := false
  rttLong : Bool := false
  miswired : Bool := false
  changed : Nat := 0
  /-- FAB_PORT_NBR and FAB_PORT_RTT. -/
  nbrPanel : Nat := 0
  nbrPort : Nat := 0
  nbrValid : Bool := false
  nbrHall : Nat := 0x3FF
  nbrSerial : W64 := 0
  rtt : Nat := 0
  /-- Sending: the egress queue, the next SEQ, the trains not acknowledged, flits in flight per VL (R279). -/
  egress : List Train := []
  seqOut : Nat := 0
  replay : List Train := []
  inFlight : Tab Nat := []
  /-- Trains to be resent, from the failed one on (R280). -/
  again : List Train := []
  /-- The next flit position, counted from the end of training; MODEL'S OWN: what the positions from the last train's HEAD on carried, and
  how many of the port's express flits wait for a slot (R276, R284). -/
  pos : Nat := 0
  line : List (Nat × Place) := []
  waiting : Nat := 0
  /-- Deficit round robin: the deficit of each plate, by work cell + 1, 0 the trains of no plate; whose turn it is (R282). -/
  deficit : Tab Nat := []
  turn : Nat := 0
  /-- Receiving: the next SEQ expected, ACK_SEQ, NAK, and the credits to return per VL (R280, R281). -/
  seqIn : Nat := 0
  ackSeq : Nat := 0
  nak : Bool := false
  owed : Tab Nat := []
  /-- The express flit sent twice whose first copy came good and whose second is awaited: its EKIND, DEST and body (R283). -/
  first : List W32 := []
  /-- The port has trained, or tried to, since the cold start (R275, R427). -/
  tried : Bool := false
  /-- The times of the NAKs received in the last ms, in cycles of 0.4 ns (R280). -/
  nakTimes : List Nat := []
  /-- Loopback (R275). -/
  loopback : Bool := false
  replays : Nat := 0
  /-- Trains and express flits of the frame that failed CRC (R392). -/
  errs : Nat := 0
  cnt : Counters := {}
  deriving DecidableEq, Repr

/-- A ring (R288 to R291, R303). -/
structure Ring where
  dim : Nat := 0
  dimNext : Option Nat := none
  released : Bool := false
  /-- FAB_RING_STAT. -/
  state : Nat := 0
  bypass : Bool := true
  members : Nat := 0
  /-- The ring map in force, the map being formed, members that leave at a frame. -/
  map : List Nat := []
  forming : Option (List Nat) := none
  leaving : List (Nat × W64) := []
  /-- A PROBE is out: 1 east, 2 west (R290). -/
  probing : Nat := 0
  /-- The longest lists that PROBEs have brought from the west and from the east, nearest member last (R290). -/
  fromWest : List Nat := []
  fromEast : List Nat := []
  deriving DecidableEq, Repr

/-- A remote transfer outstanding at this panel (R293, R295). -/
structure Remote where
  xid : Nat
  core : Nat
  /-- PUT 1, GET 2, FILL 4 as R278; 0 for a part served from the cache. -/
  op : Nat
  dest : Nat
  addr : Nat
  len : Nat
  frame : W64
  retried : Bool
  /-- A fetch sent before a RES_SPLIT of its die was accepted (R268). -/
  early : Bool := false
  /-- Of a PUT, the first word and the index of the descriptor that sends it (R272). -/
  desc : Nat := 0
  index : Nat := 0
  /-- The transaction number of its transfer's first part, the port that returns its data and the stream. -/
  group : Nat := 0
  unit : UnitId := .fio 0
  port : Nat := 0
  rstream : Nat := 0
  /-- The part of the line or train that the transfer wants: first byte and length. -/
  skip : Nat := 0
  want : Nat := 0
  /-- Data received, each byte with its poison. -/
  data : Option (List (Byte × Bool)) := none
  deriving DecidableEq, Repr

/-- An express flit that the panel sends at a port (R283, R284): EKIND, DEST and the words of its body. -/
structure Express where
  port : Nat
  kind : Nat
  dest : Nat
  body : List W32
  deriving DecidableEq, Repr

/-- A hall barrier or panel barrier in progress (R215, R285). -/
structure Barrier where
  id : Nat
  count : Nat
  arrived : List (Nat × Nat)
  /-- Panels arrived, at the hall master. -/
  panels : List Nat
  earliest : Nat
  released : Bool
  hall : Bool
  deriving DecidableEq, Repr

/-- A publish table entry (R297, R304). -/
structure Pub where
  base : Nat
  len : Nat
  start : W64
  stop : W64
  deriving DecidableEq, Repr

/-- What another member panel of the hall cell last told of its panel cell (R40, R42). -/
structure Peer where
  state : CellState := .off
  reason : Nat := 0
  exposed : Nat := 0
  fault : BitVec 16 := 0
  /-- Its hall frame number (R62). -/
  frame : W64 := 0
  tokenOut : W32 := 0
  tokenStat : W32 := 0
  deriving DecidableEq, Repr

/-- The fabric block's own registers and tables (R273, R303), and the hall cell (R59 to R62). -/
structure Fabric where
  /-- FAB_PANEL_ID. -/
  id : Nat := 0
  idNext : Option (Nat × W64) := none
  /-- FAB_PUT_NAK and FAB_PUT_NAK_FRAME. -/
  putNak : W32 := 0
  putNakFrame : W32 := 0
  /-- Lateness entries: LAST, SUM and this frame's largest (R301, R304). -/
  lateLast : Tab Nat := []
  /-- In ns. -/
  lateSum : Tab Nat := []
  lateNow : Tab Nat := []
  pub : Tab Pub := []
  remotes : List Remote := []
  xidNext : Nat := 0
  /-- Flits each plate's work cell has placed on each port this frame, by port × 96 + w (R282). -/
  placed : Tab Nat := []
  barriers : List Barrier := []
  /-- The hall cell: index, member panels, pending membership (R316). -/
  hallIndex : Option Nat := none
  hallMembers : List Nat := []
  hallNext : Option (Option Nat × List Nat × W64) := none
  /-- The other member panels by panel ID, as this panel's hall entry mirrors them (R42). -/
  peers : Tab Peer := []
  /-- PMC_HALL_OFFSET, tau, PMC_HALL_FOFS, frames close to lock and without HALL_SHUTTER (R60 to R62). -/
  offset : Int := 0
  tau : Int := 0
  /-- τ for the next frame, from the HALL_SHUTTER heard in this one (R60). -/
  tauNext : Int := 0
  fofs : W64 := 0
  closeFrames : Nat := 0
  silentFrames : Nat := 0
  heardMaster : Bool := false
  /-- Frames since an election in which no master was heard (R287). -/
  elected : Option Nat := none
  /-- MODEL'S OWN: the express flits that the ports have sent since the Shutter or hold ready, in the order in which the slots of each
  port take them. -/
  express : List Express := []
  /-- Known serials and their panel IDs (R294). -/
  known : List (W64 × Nat) := []
  deriving DecidableEq, Repr

/-- A mailbox (R312): OWNER, and its 16 header words and 1,008 payload words as last written. -/
structure Mailbox where
  owner : Nat := 0
  words : Tab W32 := []
  deriving DecidableEq, Repr

/-- A request: an Admission Ring entry and what admission adds (R321 to R326). -/
structure Req where
  site : Nat
  aindex : Nat
  words : List W32
  cost : Nat
  /-- The frame of its first answer's E, its admission frame, its record index. -/
  earliest : W64
  admitF : W64
  record : Nat
  retried : Bool
  /-- Some frame from admission on was extended, or clipped (R54, R151). -/
  late : Bool
  clip : Bool
  deriving DecidableEq, Repr

/-- A Host Site and its Host Gate (R305 to R329). -/
structure Site where
  /-- HG_STAT, HG_MOD_STAT. -/
  state : Nat := 0
  ringsSet : Bool := false
  changed : Nat := 0
  modules : Tab ModMode := []
  /-- RING_SETUP: offsets and log₂ entries; heads and tails; PHASE of the current pass (R320). -/
  aOff : Nat := 0
  aLog : Nat := 0
  cOff : Nat := 0
  cLog : Nat := 0
  aHead : Nat := 0
  aTail : Nat := 0
  cTail : Nat := 0
  cHead : Nat := 0
  cPhase : Bool := true
  /-- HG_DROP. -/
  dropWr : Nat := 0
  dropDb : Nat := 0
  dropEvt : Nat := 0
  mbox : Tab Mailbox := []
  /-- MSI-X vectors raised since the last command (R311). -/
  msix : List Nat := []
  /-- MODEL'S OWN: when vector 1 last fired, in cycles of 0.4 ns, and whether it is due again (R311). -/
  msixAt : Option Nat := none
  msixDue : Bool := false
  /-- Final answers held until the site returns (R323), as completion entries. -/
  held : List (List W32) := []
  /-- Rails off until released (R306); VHS_CORE set-point in mV, and its last junction report (R305). -/
  railOff : Bool := false
  vid : Nat := 650
  junction : Int := 0
  /-- Sensor samples since that report (R371). -/
  junctionAge : Nat := 101
  /-- SPDM connection (R449): stage reached, algorithms agreed, and the transcript hash last signed. -/
  spdmVersion : Bool := false
  spdmCaps : Bool := false
  spdmAlgs : Bool := false
  transcript : List Byte := []
  signed : Option (List Byte) := none
  deriving DecidableEq, Repr

/-- A class of a work cell (R324). -/
structure Cls where
  quota : Nat := 0
  /-- The quota in force where the PMC has lowered it. -/
  reduced : Option Nat := none
  depth : Nat := 0
  queue : List Req := []
  next : List (Nat × Nat × W64) := []
  deriving DecidableEq, Repr

/-- How far a bind has come (R246, R247); one for a frame that FRAME16 cannot name yet waits with its installation (R196). -/
inductive BindStage where
  | waiting | accepted | installed | setup | running
  deriving DecidableEq, Repr

/-- A plate bound, or accepted, for a work cell (R245 to R249). -/
structure Binding where
  slot : Nat
  frame : W64
  /-- Setup frames n, those left, and failed retries (R247, R248). -/
  n : Nat
  left : Nat
  fails : Nat
  stage : BindStage
  /-- The core at each position (R242). -/
  place : List Nat
  /-- The variant in force, from 1 (R238). -/
  variant : Nat
  /-- The quadrants that it is placed on. -/
  quads : List Nat := []
  deriving DecidableEq, Repr

/-- A work cell (R21, R245, R324, R401). -/
structure Work where
  quads : List Nat := []
  /-- CELL_CONFIGs accepted: mask and frame. -/
  config : List (List Nat × W64) := []
  cls : Tab Cls := []
  bound : Option Binding := none
  next : Option Binding := none
  unbindAt : Option W64 := none
  /-- Admission to the current plate is closed (R245). -/
  closed : Bool := false
  /-- Entries admitted and not finally answered, oldest first. -/
  out : List Req := []
  /-- Capacities left by losses, by cause: 0 a lower variant, 1 slices (R244), 2 detours (R207), 3 power staging. -/
  losses : Tab Nat := []
  /-- The frames void and their recovery: frame f, and frames left (R401). -/
  void : Option W64 := none
  recover : Nat := 0
  replay : Bool := false
  /-- This frame: 0 as usual, 1 a recovery frame, 2 the replay (R401). -/
  mode : Nat := 0
  /-- The last inbox count for GO, and GO due (R326). -/
  goCount : Option Nat := none
  /-- The entries of the last inbox, in record order (R326), staged again for a replay (R401). -/
  staged : List Req := []
  /-- The quotas in force are 0: recovery or the thermal cap (R324, R377, R401). -/
  zeroed : Bool := false
  /-- TAG in force and pending (R466). -/
  tag : W32 := 0
  tagNext : List (W32 × W64) := []
  ccb : Ccb := {}
  deriving DecidableEq, Repr

/-- A stored plate (R241). -/
structure Stored where
  image : List Byte
  keySlot : Nat
  /-- Its key slot was replaced or revoked while it was bound: it goes when it is unbound (R317, R443). -/
  doomed : Bool := false
  deriving DecidableEq, Repr

/-- An HBM_COPY in progress (R318). -/
structure Copy where
  site : Nat
  mb : Nat
  src : Nat
  dst : Nat
  len : Nat
  deriving DecidableEq, Repr

/-- An override accepted for a target frame (R316). -/
inductive Override where
  | dark (cell : CellId)
  | siteDark (site : Nat)
  | release (cell : CellId)
  | siteRelease (site : Nat)
  | retire (core : Nat)
  | spare (out into : Nat)
  | linkRetire (tile link dir group : Nat)
  | linkRetrain (tile link dir group : Nat)
  | linkReturn (tile link dir group : Nat)
  | clock (q ratio : Nat)
  /-- `log`: by MARGIN_SET, which is logged when it takes effect (R414). -/
  | margin (q : Nat) (mv : Int) (log : Bool)
  | ring (r : Nat) (release : Bool)
  /-- The frame's parameters; the quadrants, classes and tag of a work cell; the hall cell; the panel ID and the rings; a reservoir's split;
  a work cell's plate: what takes effect stands in the fields of the cell itself, and this is its place in the order of acceptance. -/
  | params
  | cell (w : Nat)
  | hall
  | ids
  | split (stack : Nat)
  | plate (w : Nat)
  deriving DecidableEq, Repr

/-- What composite CCBs are made of, as a PMC restart began (R410). -/
structure HeldCcbs where
  core : Tab Core
  comp : Tab Ccb
  work : Tab Work
  peers : Tab Peer
  frame : W64
  deriving DecidableEq, Repr

/-- The PMC: frame parameters (R45, R64), commands, policies, work cells, plates. -/
structure Pmc where
  /-- PMC_FRM_COUNT, PMC_FRM_PARAM (µs), PMC_FRM_NEXT with PMC_FRM_APPLY. -/
  frame : W64 := 0
  t : Nat := 1000
  s : Nat := 8
  a : Nat := 20
  next : Option (Nat × Nat × Nat × W64) := none
  /-- PMC_FRM_STAT: PHASE, EXTENDED, HALL_LOCK, DRAIN_FAIL. -/
  phase : Nat := 0
  /-- MODEL'S OWN: how far the frame has come: 0 before the heartbeat check, 1 Develop, 2 its deadline has passed, 3 the
  extension limit too, 4 drain is open, 5 it is closed. -/
  point : Nat := 0
  extended : Bool := false
  hallLock : Bool := false
  drainFail : Bool := false
  /-- PMC_FRM_OVR. -/
  ovrCount : Nat := 0
  lastExt : Nat := 0
  /-- The panel timebase (R48). -/
  timebase : W64 := 0
  /-- Mailboxes RUNNING, in doorbell order: site and mailbox (R314). -/
  cmds : List (Nat × Nat) := []
  /-- ARING_TAIL writes not yet cut, in order: the site and the tail (R321, R325). -/
  posted : List (Nat × Nat) := []
  /-- EVENT_MASK (R328) and the six policies, listed where MANUAL (R317). -/
  mask : W32 := 0x0FFE
  manual : List Nat := []
  work : Tab Work := []
  /-- Composite CCBs by window entry (R23). -/
  comp : Tab Ccb := []
  store : Tab Stored := []
  copy : Option Copy := none
  /-- What has been accepted for target frames, in the order of acceptance (R314). -/
  overrides : List (Override × W64) := []
  /-- DECISION events that stand: policy, cell and action. Each is written once and waits for its override (R317). -/
  asked : List (Nat × W32 × Nat) := []
  /-- PMC_HOSTWIN (R270), and the stacks each site took (R426). -/
  westNext : Nat := 2
  eastNext : Nat := 2
  west : Nat := 2
  east : Nat := 2
  westTaken : List Nat := [12, 24]
  eastTaken : List Nat := [23, 35]
  /-- Retired outputs whose streams wait for detours (R206): router and port, 5 its core port. -/
  detours : List (Nat × Nat) := []
  /-- Routers armed together, that swap all or none (R196); work cells whose quota a failed detour cuts at the next Shutter, and the
  rows of the links that it retires (R207). -/
  together : List (List Nat) := []
  unrouted : List Nat := []
  unroutedRows : List Nat := []
  /-- The panel's own corridors by number (R265, R282, R318): by router, the entries that they take in every phase. -/
  corridors : Tab (Tab (Tab W32)) := []
  /-- The PMC restarts; what composite CCBs showed as it began, which they show until it ends (R410). -/
  restarting : Bool := false
  held : Option HeldCcbs := none
  cnt : Counters := {}
  deriving DecidableEq, Repr

/-- Panel power (R330 to R349). -/
structure Power where
  source : Nat := 1
  mainOk : Bool := false
  backupOk : Bool := false
  /-- MAIN's 10 s return hold; overcurrent exclusions (R330, R331). -/
  mainHold : Bool := false
  mainOc : Bool := false
  backupOc : Bool := false
  overLimit : Bool := false
  overFrames : Nat := 0
  staged : Bool := false
  stageFrames : Nat := 0
  changed : Nat := 0
  limit : Nat := 10800
  inMain : W32 := 0
  inBackup : W32 := 0
  pLf : Nat := 0
  switch : W32 := 0
  /-- Power failure has been declared (R333). -/
  failed : Bool := false
  deriving DecidableEq, Repr

/-- Panel clocks (R355 to R362, R368). -/
structure Clock where
  sel : Nat := 0
  refA : Bool := false
  refB : Bool := false
  changed : Nat := 0
  active : Bool := false
  firstQd : Nat := 0x7F
  used : Nat := 0
  /-- The stretch in force ran across the last Shutter: it counts from there (R362). -/
  crossed : Bool := false
  deriving DecidableEq, Repr

/-- A sensor pair (R370 to R375). -/
structure Pair where
  state : Nat := 0
  trip : Bool := false
  overT : Bool := false
  diff : Int := 0
  temp : Int := 0
  /-- Samples of the frame: taken, disagreeing, an element invalid, both invalid (R373). -/
  samples : Nat := 0
  disagree : Nat := 0
  oneBad : Bool := false
  bothBad : Bool := false
  /-- The last frame's verdict, and frames in a row with one element invalid. -/
  verdict : Bool := false
  invalidRun : Nat := 0
  agreeRun : Nat := 0
  disagreeRun : Nat := 0
  tripRun : Nat := 0
  /-- The last 200 governing readings, newest first (R382); offsets of the last HEALTHY frames (R375). -/
  recent : List Int := []
  offsets : List Int := []
  deriving DecidableEq, Repr

/-- Panel thermal state (R378 to R388). -/
structure Thermal where
  state : Nat := 0
  cause : Nat := 0
  fan0 : Bool := false
  fan1 : Bool := false
  inlet0Bad : Bool := false
  inlet1Bad : Bool := false
  changed : Nat := 0
  inlet0 : Int := 0
  inlet1 : Int := 0
  pairs : Tab Pair := []
  /-- An R_t condition stands, and the seconds since it last held (R380). -/
  rthWarn : Bool := false
  rthClear : Nat := 0
  inputWarn : Bool := false
  /-- Seconds counted for the day (R379). -/
  seconds : Nat := 0
  /-- Resume: the Shutter Z, and the quadrants to ramp (R433). -/
  resumeAt : Option W64 := none
  darkAtEntry : List Nat := []
  deriving DecidableEq, Repr

/-- A Contact Sheet row (R392); a row of a fitted item that no rule has changed reads GOOD. -/
structure Row where
  state : Nat := 1
  reason : Nat := 0
  changed : W32 := 0
  data : W32 := 0
  changes : Nat := 0
  attempts : Nat := 0
  deriving DecidableEq, Repr

/-- Health registers (R417) and scores (R415). -/
structure Health where
  derated : Bool := false
  pmcAlt : Bool := false
  spareLast : W32 := 0xFFFFF000
  mlogPtr : Nat := 0
  mlog : Tab W32 := []
  rank : Tab W32 := []
  /-- The frames within the last 16,384 in which each core was a last core. -/
  score : Tab (List W64) := []
  /-- The last cores of this frame's hall barriers (R415). -/
  lastCores : List Nat := []
  /-- The frames of the PMC's restarts (R410). -/
  restarts : List W64 := []
  /-- The panel's LAST lateness of recent frames (R415). -/
  panelLate : List Nat := []
  /-- Contact Sheet rows as committed at the last Stop Bath, and as they stand (R395). -/
  sheet : Tab Row := []
  live : Tab Row := []
  deriving DecidableEq, Repr

/-- A bank's boot record (R421). -/
structure BootRec where
  valid : Bool := false
  seq : W32 := 0
  state : Nat := 0
  tries : Nat := 0
  manOff : Nat := 0
  manLen : Nat := 0
  arb : Nat := 0
  deriving DecidableEq, Repr

/-- Cold start (R419 to R434). -/
structure Boot where
  /-- PMC_BOOT_STAT, PMC_BOOT_ERR, SEQA, SEQB, PWRLOSS. -/
  step : Nat := 0
  bank : Bool := false
  alt : Bool := false
  tries : Nat := 0
  elapsed : Nat := 0
  err : W32 := 0
  seqA : W32 := 0
  seqB : W32 := 0
  lossFrame : W64 := 0
  lossCause : W32 := 0
  /-- The boot records, and each bank's image area. -/
  recA : BootRec := {}
  recB : BootRec := {}
  imageA : List Byte := []
  imageB : List Byte := []
  /-- The power-loss record in flash (R333), if one was written. -/
  lossRec : Option (W64 × W32) := none
  deriving DecidableEq, Repr

/-- A plate-signing slot (R443). -/
structure KeySlot where
  filled : Bool := false
  ec : List Byte := []
  lms : List Byte := []
  number : W32 := 0
  revoked : Bool := false
  deriving DecidableEq, Repr

/-- Progress of a firmware target (R456). -/
structure FwTarget where
  phase : Nat := 0
  status : Status := 0
  runSeq : W32 := 0
  units : Nat := 0
  done : Nat := 0
  rollAt : Option W64 := none
  deriving DecidableEq, Repr

/-- Security (R436 to R460): fuses, slots, device HSS state, firmware. -/
structure Security where
  /-- Grade (0 A, 1 B, 2 C), F32, H2 (R2, R4, R424). -/
  grade : Nat := 0
  f32 : Bool := true
  h2 : Bool := true
  /-- The cores fused exposed and fused reserve of each quadrant (R18), bit 2 × die position + side; by default the first
  five and the sixth (log entry 70). -/
  fuseExposed : Tab (BitVec 6) := []
  fuseReserve : Tab (BitVec 6) := []
  rootEc : List Byte := []
  rootLms : List Byte := []
  revEc : BitVec 4 := 0
  revLms : BitVec 4 := 0
  arb : Nat := 0
  serial : W64 := 0
  slots : Tab KeySlot := []
  lmsOff : Bool := false
  use : Nat := 0
  next : Nat := 0
  /-- Highest NEXT in each bank's journal (R448). -/
  journalA : Option Nat := none
  journalB : Option Nat := none
  /-- VERSION of the running management-die image (R440). -/
  version : W32 := 0
  stagedVersion : W32 := 0
  /-- The image set staged, and its manifest's fields. -/
  staged : W32 := 0
  stagedArb : Nat := 0
  stagedBurn : Bool := false
  stagedRevEc : BitVec 4 := 0
  stagedRevLms : BitVec 4 := 0
  stagedHall : Bool := false
  stagedHashes : List (List Byte) := []
  runHashes : List (List Byte) := []
  fw : Tab FwTarget := []
  /-- Packets of a hall distribution by INDEX (R457). -/
  hallPackets : Tab (List W32) := []
  /-- A member's repair attempts in it; the package that a hall master distributes. -/
  hallRepairs : Nat := 0
  hallOut : List Byte := []
  deriving DecidableEq, Repr

/-- An informative line being weighed (R468, R470): work cell, tag, weight, frames, MULTI. -/
structure MLine where
  wcell : Nat
  tag : W32
  weight : Nat
  frames : Nat
  multi : Bool
  deriving DecidableEq, Repr

/-- What a metering cartridge holds by itself (R461, R473): its registers, its clock, its signing state and its records. -/
structure Cartridge where
  eMain : W64 := 0
  eBackup : W64 := 0
  seconds : Nat := 0
  seq : Nat := 0
  next : Nat := 0
  noLms : Bool := false
  records : Tab (List W32) := []
  recLines : Tab (List (List W32)) := []
  deriving DecidableEq, Repr

/-- The metering cartridge (R461 to R473) and the PMC's copy (R471, R476). -/
structure Meter where
  /-- The cartridges that have been withdrawn from the bay, by serial, as they left (R464). -/
  away : List (W64 × Cartridge) := []
  /-- Fitted, with the lever at METER, and not yet powered (log entry 71); the serials that have been in the bay. -/
  present : Bool := true
  metering : Bool := true
  powered : Bool := false
  bay : List W64 := []
  cartSerial : W64 := 0
  eMain : W64 := 0
  eBackup : W64 := 0
  seconds : Nat := 0
  seq : Nat := 0
  use : Nat := 0
  next : Nat := 0
  noLms : Bool := false
  /-- The open interval: start second, E_TOTAL at its start, flags, snapshots, gaps, frames, lines. -/
  intOpen : Bool := false
  start : Nat := 0
  startE : W64 := 0
  flags : Nat := 0
  snaps : Nat := 0
  gaps : Nat := 0
  firstFrame : W64 := 0
  lastFrame : W64 := 0
  lines : List MLine := []
  unassigned : Nat := 0
  unassignedFrames : Nat := 0
  /-- Records sealed, as 992 words by SEQ; lines by SEQ (cartridge side). -/
  records : Tab (List W32) := []
  recLines : Tab (List (List W32)) := []
  /-- The PMC's copy. -/
  copyRecs : Tab (List W32) := []
  copyLines : Tab (List (List W32)) := []
  copyCerts : List Byte := []
  /-- CERTS frames received since the cold start. -/
  certsSeen : Nat := 0
  /-- MTR_STAT, MTR_SEQ, MTR_TOTAL, MTR_BYPASS_E. -/
  state : Nat := 0
  linkOk : Bool := false
  copyFull : Bool := false
  changed : Nat := 0
  copySeq : W32 := 0
  total : W64 := 0
  bypassE : W32 := 0
  /-- The last snapshot the PMC sent, as 224 words (R466). -/
  sent : List W32 := []
  deriving DecidableEq, Repr

/-- A message under way on the control network (R210, R211): TYPE, DEST, SRC and the payload. -/
structure Msg where
  type : Nat
  dest : Nat
  src : Nat
  body : List W32
  deriving DecidableEq, Repr

/-- The mesh's own state: beats in flight and the ports of cores and dies; the control network's messages. -/
structure Mesh where
  flights : List Flight := []
  core : Tab MeshPort := []
  res : Tab MeshPort := []
  fio : Tab MeshPort := []
  gate : Tab MeshPort := []
  mgmt : MeshPort := {}
  /-- MODEL'S OWN: the latest base-branch cycle since the Shutter of any event of the cores and routers (log entry 12). -/
  cycle : Nat := 0
  /-- Messages sent and not yet received (R211). -/
  net : List Msg := []
  /-- Nodes fired and heard in the frame: fabric dies and gates by Contact Sheet row (R214). -/
  fired : List Nat := []
  heard : List Nat := []
  /-- Perimeter dies armed: row, frame and count (R48); those that inject nothing until they fire (R367). -/
  armed : List (Nat × W64 × W64) := []
  stopped : List Nat := []
  deriving DecidableEq, Repr

/-- The pins of the management connector (R486 to R489) but for those held elsewhere. -/
structure Pins where
  panelOk : Bool := false
  alertN : Bool := true
  pulses : Nat := 0
  /-- MODEL'S OWN: the platform event messages sent (R416), oldest first. -/
  pldm : List (List W32) := []
  deriving DecidableEq, Repr

/-- The completion of the last access on its path (R7, R36, R38): status, and data read or returned. -/
structure Resp where
  status : Status := 0
  data : List W32 := []
  /-- The data came with CXL.mem poison (R307). -/
  poison : Bool := false
  deriving DecidableEq, Repr

/-- The panel. -/
structure State where
  pmc : Pmc := {}
  core : Tab Core := []
  rtr : Tab Router := []
  quad : Tab Quad := []
  tile : Tab Tile := []
  stack : Tab Stack := []
  port : Tab Port := []
  ring : Tab Ring := []
  fab : Fabric := {}
  site : Tab Site := []
  mesh : Mesh := {}
  pwr : Power := {}
  clk : Clock := {}
  thm : Thermal := {}
  hlt : Health := {}
  boot : Boot := {}
  sec : Security := {}
  mtr : Meter := {}
  pins : Pins := {}
  /-- Memory by Panel Address (R493): HBM, reservoir windows and core scratch. -/
  mem : List Host.Cell := []
  /-- Poisoned 32-byte words, by Panel Address div 32 (R160, R256). -/
  poison : List Nat := []
  /-- Words that hold a bit error no read has met: Panel Address div 32, and whether it is a double-bit error (R160, R256). -/
  flips : List (Nat × Bool) := []
  /-- MODEL'S OWN: ranges whose contents are undefined (R56): first byte, end, epoch. -/
  undef : List (Nat × Nat × Nat) := []
  /-- The completion of the last access. -/
  resp : Resp := {}
  /-- MODEL'S OWN: how many free values have been taken. -/
  fresh : Nat := 0
  /-- The commands that wait, first in, first out. -/
  pending : List Instr := []
  deriving DecidableEq, Repr

/-- Why a command stops the machine. -/
inductive Fault where
  /-- Raised by an access to an address outside the units the spec gives the panel. Safe: the spec gives such a
  command no effect. -/
  | noUnit (what : String)
  deriving DecidableEq, Repr

/-- Why a command has no meaning here. -/
inductive Refusal where
  /-- Raised by an arm of exec whose command has no meaning yet. Safe: nothing is claimed of it. -/
  | notModelled (mnemonic : String)
  deriving DecidableEq, Repr

/-- A step's outcome. -/
abbrev Out := Host.Outcome State Fault Refusal

/-- The panel before its cold start: every register at its Reset column. -/
def State.reset : State := {}

end Sys2Proof.Machine
end

