-- ==== Sys2Proof/Machine/Ops.lean ====
section
/-! DEFINITION. The named operations over tables, memory, units, counters and the Contact Sheet. -/

namespace Sys2Proof.Machine

/-! ### Tables -/

/-- The entry of `t` at `k`, or the default. -/
def tget {α : Type} (t : Tab α) (k : Nat) (d : α) : α :=
  match t with
  | [] => d
  | (k', v) :: r => if k' = k then v else tget r k d

/-- `t` without its entry at `k`. -/
def tdel {α : Type} (t : Tab α) (k : Nat) : Tab α := t.filter fun e => e.1 != k

/-- `t` with the entry `v` at `k`, keys rising. -/
def tput {α : Type} (t : Tab α) (k : Nat) (v : α) : Tab α :=
  match t with
  | [] => [(k, v)]
  | (k', v') :: r => if k < k' then (k, v) :: (k', v') :: r else if k = k' then (k, v) :: r else (k', v') :: tput r k v

/-- `t` with `v` at `k`, in the canonical form: keys rising, no value equal to the default `d`. -/
def tset {α : Type} [DecidableEq α] (t : Tab α) (k : Nat) (v d : α) : Tab α := if v = d then tdel t k else tput t k v

/-- Insertion into a rising list without repeats. -/
def nadd (l : List Nat) (k : Nat) : List Nat :=
  match l with
  | [] => [k]
  | x :: r => if k < x then k :: x :: r else if k = x then x :: r else x :: nadd r k

/-- Removal from a list. -/
def ndel (l : List Nat) (k : Nat) : List Nat := l.filter (· != k)

/-- The first `n` naturals from `a`. -/
def upTo (a n : Nat) : List Nat := (List.range n).map (a + ·)

/-- `min` with a register field's largest value. -/
def sat (top n : Nat) : Nat := min n top

/-- A register word from fields: value, lowest bit, width, added (fields do not overlap). -/
def word (fields : List (Nat × Nat × Nat)) : W32 :=
  BitVec.ofNat 32 (fields.foldl (fun a f => a + f.1 % 2 ^ f.2.2 * 2 ^ f.2.1) 0)

/-- A signed field of `n` bits as a natural. -/
def ofSigned (n : Nat) (i : Int) : Nat := (i % (2 ^ n : Nat)).toNat

/-- A field of `n` bits read as two's complement. -/
def toSigned (n w : Nat) : Int := if w % 2 ^ n < 2 ^ (n - 1) then (w % 2 ^ n : Nat) else (w % 2 ^ n : Nat) - (2 ^ n : Nat)

/-- ⌈a / b⌉. -/
def cdiv (a b : Nat) : Nat := (a + b - 1) / b

/-! ### Places (R13 to R19) -/

/-- The core at coordinates (x, y) (R17). -/
def coreAt (x y : Nat) : Nat := y * 24 + x
def coreX (n : Nat) : Nat := n % 24
def coreY (n : Nat) : Nat := n / 24
/-- The tile of a core (R17). -/
def coreTile (n : Nat) : Nat := coreY n / 6 * 6 + coreX n / 4
/-- The quadrant ID of a core (R17). -/
def coreQuad (n : Nat) : Nat := coreTile n * 4 + (coreY n % 6 / 3 * 2 + coreX n % 4 / 2)
/-- The compute die ID of a core (R17). -/
def coreDie (n : Nat) : Nat := coreQuad n * 3 + coreY n % 6 % 3
/-- The core of quadrant `q`, die position `d`, side `c` (R17). -/
def coreOf (q d c : Nat) : Nat :=
  coreAt (q / 4 % 6 * 4 + q % 4 % 2 * 2 + c) (q / 4 / 6 * 6 + q % 4 / 2 * 3 + d)
/-- The cores of a die, a quadrant and a tile, in rising order of ID. -/
def dieCores (d : Nat) : List Nat := [coreOf (d / 3) (d % 3) 0, coreOf (d / 3) (d % 3) 1]
def quadCores (q : Nat) : List Nat := dieCores (q * 3) ++ dieCores (q * 3 + 1) ++ dieCores (q * 3 + 2)
def tileQuads (t : Nat) : List Nat := upTo (t * 4) 4
/-- The place of a core among the six of its quadrant: die position × 2 + side. -/
def coreSlot (n : Nat) : Nat := coreY n % 6 % 3 * 2 + coreX n % 2
/-- Whether core `n` is one of the 576. -/
def coreOk (n : Nat) : Bool := n < 576

/-- The composite cell of a CCB window entry (R23). -/
def entryCell (e : Nat) : CellId :=
  if e < 288 then .die e else if e < 384 then .quad (e - 288) else if e < 408 then .tile (e - 384) else if e = 408 then .panel
  else if e < 505 then .work (e - 409) else .hall

/-- The CCB window entry of a composite cell (R23). -/
def compEntry : CellId → Nat
  | .core n => 1000 + n
  | .die n => n
  | .quad n => 288 + n
  | .tile n => 384 + n
  | .panel => 408
  | .work n => 409 + n
  | .hall => 505

/-- Whether the cell is one of R20's. -/
def cellOk : CellId → Bool
  | .core n => n < 576
  | .die n => n < 288
  | .quad n => n < 96
  | .tile n => n < 24
  | .panel => true
  | .work n => n < 96
  | .hall => true

/-! ### Units -/

def State.getCore (s : State) (n : Nat) : Core := tget s.core n {}
def State.setCore (s : State) (n : Nat) (c : Core) : State := { s with core := tset s.core n c {} }
def State.modCore (s : State) (n : Nat) (f : Core → Core) : State := s.setCore n (f (s.getCore n))
def State.getRtr (s : State) (n : Nat) : Router := tget s.rtr n {}
def State.setRtr (s : State) (n : Nat) (r : Router) : State := { s with rtr := tset s.rtr n r {} }
def State.modRtr (s : State) (n : Nat) (f : Router → Router) : State := s.setRtr n (f (s.getRtr n))
def State.getQuad (s : State) (n : Nat) : Quad := tget s.quad n {}
def State.setQuad (s : State) (n : Nat) (q : Quad) : State := { s with quad := tset s.quad n q {} }
def State.modQuad (s : State) (n : Nat) (f : Quad → Quad) : State := s.setQuad n (f (s.getQuad n))
def State.getTile (s : State) (n : Nat) : Tile := tget s.tile n {}
def State.setTile (s : State) (n : Nat) (t : Tile) : State := { s with tile := tset s.tile n t {} }
def State.modTile (s : State) (n : Nat) (f : Tile → Tile) : State := s.setTile n (f (s.getTile n))
def State.getStack (s : State) (n : Nat) : Stack := tget s.stack n {}
def State.setStack (s : State) (n : Nat) (t : Stack) : State := { s with stack := tset s.stack n t {} }
def State.modStack (s : State) (n : Nat) (f : Stack → Stack) : State := s.setStack n (f (s.getStack n))
def State.getPort (s : State) (n : Nat) : Port := tget s.port n {}
def State.setPort (s : State) (n : Nat) (p : Port) : State := { s with port := tset s.port n p {} }
def State.modPort (s : State) (n : Nat) (f : Port → Port) : State := s.setPort n (f (s.getPort n))
def State.getRing (s : State) (n : Nat) : Ring := tget s.ring n {}
def State.setRing (s : State) (n : Nat) (r : Ring) : State := { s with ring := tset s.ring n r {} }
def State.modRing (s : State) (n : Nat) (f : Ring → Ring) : State := s.setRing n (f (s.getRing n))
def State.getSite (s : State) (n : Nat) : Site := tget s.site n {}
def State.setSite (s : State) (n : Nat) (g : Site) : State := { s with site := tset s.site n g {} }
def State.modSite (s : State) (n : Nat) (f : Site → Site) : State := s.setSite n (f (s.getSite n))
def State.getWork (s : State) (w : Nat) : Work := tget s.pmc.work w {}
def State.setWork (s : State) (w : Nat) (c : Work) : State :=
  { s with pmc := { s.pmc with work := tset s.pmc.work w c {} } }
def State.modWork (s : State) (w : Nat) (f : Work → Work) : State := s.setWork w (f (s.getWork w))
def State.getComp (s : State) (e : Nat) : Ccb := tget s.pmc.comp e {}
def State.setComp (s : State) (e : Nat) (c : Ccb) : State :=
  { s with pmc := { s.pmc with comp := tset s.pmc.comp e c {} } }
def State.modComp (s : State) (e : Nat) (f : Ccb → Ccb) : State := s.setComp e (f (s.getComp e))

def State.modPmc (s : State) (f : Pmc → Pmc) : State := { s with pmc := f s.pmc }
def State.modFab (s : State) (f : Fabric → Fabric) : State := { s with fab := f s.fab }
def State.modMesh (s : State) (f : Mesh → Mesh) : State := { s with mesh := f s.mesh }
def State.modPwr (s : State) (f : Power → Power) : State := { s with pwr := f s.pwr }
def State.modClk (s : State) (f : Clock → Clock) : State := { s with clk := f s.clk }
def State.modThm (s : State) (f : Thermal → Thermal) : State := { s with thm := f s.thm }
def State.modHlt (s : State) (f : Health → Health) : State := { s with hlt := f s.hlt }
def State.modBoot (s : State) (f : Boot → Boot) : State := { s with boot := f s.boot }
def State.modSec (s : State) (f : Security → Security) : State := { s with sec := f s.sec }
def State.modMtr (s : State) (f : Meter → Meter) : State := { s with mtr := f s.mtr }

/-- `f` over numbers in order. -/
def State.each (s : State) (l : List Nat) (f : State → Nat → State) : State := l.foldl f s

/-- The completion of the access. -/
def State.answer (s : State) (st : Status) (data : List W32 := []) : State :=
  { s with resp := { status := st, data := data } }

/-- The frame number's low bits. -/
def State.frame16 (s : State) : Nat := s.pmc.frame.toNat % 65536
def State.frame32 (s : State) : W32 := s.pmc.frame.setWidth 32

/-- The panel's own ID (R294). -/
def State.panelId (s : State) : Nat := s.fab.id

/-! ### Memory (R493) -/

/-- What a byte reads as that nothing has written. DESIGN CHOICE, log entry 4. -/
def memDefault : Byte := 0

/-- One byte of a list of cells. -/
def memGet (m : List Host.Cell) (a : Nat) : Byte := tget m a memDefault
/-- `m` with byte `b` at `a`. -/
def memSet (m : List Host.Cell) (a : Nat) (b : Byte) : List Host.Cell := tset m a b memDefault

/-- Bytes written from `a` up. -/
def memWrite (m : List Host.Cell) (a : Nat) (bs : List Byte) : List Host.Cell :=
  match bs with
  | [] => m
  | b :: r => memWrite (memSet m a b) (a + 1) r

/-- Rising from above `lo`, and no entry equal to the default. -/
def memOk : Nat → List Host.Cell → Bool
  | _, [] => true
  | lo, (a, b) :: r => decide (lo ≤ a) && decide (b ≠ memDefault) && memOk (a + 1) r

/-- The canonical form of memory: addresses strictly rising, no entry equal to what an unlisted address reads as. -/
def Memory.wf (m : List Host.Cell) : Bool := memOk 0 m

/-- The ranges `u` without the bytes of [lo, hi). -/
def undefCut (u : List (Nat × Nat × Nat)) (lo hi : Nat) : List (Nat × Nat × Nat) :=
  u.flatMap fun r =>
    if r.2.1 ≤ lo || hi ≤ r.1 then [r]
    else (if r.1 < lo then [(r.1, lo, r.2.2)] else []) ++ (if hi < r.2.1 then [(hi, r.2.1, r.2.2)] else [])

/-- One byte as a reader sees it: a free byte inside a range whose contents are undefined (R56). -/
def State.byte (s : State) (a : Nat) : Byte :=
  match s.undef.find? (fun r => r.1 ≤ a && a < r.2.1) with
  | some r => Config.freeByte r.2.2 a
  | none => memGet s.mem a

def State.bytes (s : State) (a n : Nat) : List Byte := (upTo a n).map s.byte

/-- Bytes as a little-endian number (R6). -/
def leNat (bs : List Byte) : Nat :=
  match bs with
  | [] => 0
  | b :: r => b.toNat + 256 * leNat r

/-- A number as `n` little-endian bytes (R6). -/
def natLe (n v : Nat) : List Byte := (List.range n).map fun i => BitVec.ofNat 8 (v / 256 ^ i)

def State.word32 (s : State) (a : Nat) : W32 := BitVec.ofNat 32 (leNat (s.bytes a 4))
def State.words (s : State) (a n : Nat) : List W32 := (List.range n).map fun i => s.word32 (a + 4 * i)
def wordBytes (ws : List W32) : List Byte := ws.flatMap fun w => natLe 4 w.toNat
/-- Bytes in fours as words, zero filled. -/
def bytesWords (bs : List Byte) : List W32 :=
  (List.range (cdiv bs.length 4)).map fun i => BitVec.ofNat 32 (leNat ((bs.drop (4 * i)).take 4))

/-- The 32-byte words a range touches. -/
def wordsOf (a n : Nat) : List Nat := if n = 0 then [] else upTo (a / 32) ((a + n - 1) / 32 - a / 32 + 1)

/-- A word lies wholly in the `n` bytes from `a`. -/
def wholeIn (a n w : Nat) : Bool := a ≤ 32 * w && 32 * w + 32 ≤ a + n

/-- A word has a byte in common with the `n` bytes from `a`. -/
def touches (a n w : Nat) : Bool := a < 32 * w + 32 && 32 * w < a + n

/-- A write of bytes: clean words written whole lose their poison mark and their errors (R160, R256). -/
def State.write (s : State) (a : Nat) (bs : List Byte) : State :=
  { s with
    mem := memWrite s.mem a bs
    undef := undefCut s.undef a (a + bs.length)
    poison := s.poison.filter fun w => !wholeIn a bs.length w
    flips := s.flips.filter fun e => !wholeIn a bs.length e.1 }

/-- The words of a range are marked poisoned. -/
def State.mark (s : State) (a n : Nat) : State :=
  { s with poison := (wordsOf a n).foldl nadd s.poison }

/-- Poison marks and errors of a range are cleared. -/
def State.unmark (s : State) (a n : Nat) : State :=
  { s with
    poison := s.poison.filter fun w => !touches a n w
    flips := s.flips.filter fun e => !touches a n e.1 }

/-- A read of the word is poisoned: it is marked, or holds a double-bit error (R160, R256). -/
def State.wordBad (s : State) (w : Nat) : Bool := s.poison.contains w || s.flips.contains (w, true)

/-- A read of some word of the range is poisoned. -/
def State.poisoned (s : State) (a n : Nat) : Bool := (wordsOf a n).any s.wordBad

/-- The contents of a range become undefined (R56), in an epoch of their own. -/
def State.forget (s : State) (a n : Nat) : State :=
  if n = 0 then s else
  { s with undef := undefCut s.undef a (a + n) ++ [(a, a + n, s.fresh)], fresh := s.fresh + 1 }

/-- A free value of 32 bits. -/
def State.free (s : State) : W32 × State := (Config.freeWord s.fresh, { s with fresh := s.fresh + 1 })

/-- A free choice below `n` of a policy (R317). -/
def State.choose (s : State) (policy n : Nat) : Nat × State :=
  (if n = 0 then 0 else Config.choice policy s.fresh % n, { s with fresh := s.fresh + 1 })

/-- Panel Address of byte `a` of the scratch of core `n` (R159). -/
def scratchAddr (n a : Nat) : Nat := 0x200000000000 + n * 0x1000000 + a
def stackSize : Nat := 0xC00000000
def stackAddr (h o : Nat) : Nat := h * stackSize + o
def winBase (r : Nat) : Nat := 0x100000000000 + r * 0x8000000
def regBase : Nat := 0x300000000000

/-! ### Counters (R100) -/

/-- The counter at `off` counts `n`. -/
def Counters.add (c : Counters) (off n : Nat) : Counters :=
  { c with now := tset c.now off (tget c.now off 0 + BitVec.ofNat 32 n) 0 }

/-- Stop Bath step 4: each last-frame register takes the change since the last Stop Bath. -/
def Counters.close (c : Counters) : Counters :=
  { c with
    prev := c.now
    last := (c.now ++ c.prev).foldl (fun t e => tset t e.1 (tget c.now e.1 0 - tget c.prev e.1 0) 0) [] }

def State.countCore (s : State) (n off k : Nat) : State :=
  s.modCore n fun c => { c with cnt := c.cnt.add off k }
def State.countPmc (s : State) (off k : Nat) : State :=
  s.modPmc fun p => { p with cnt := p.cnt.add off k }
def State.countQuad (s : State) (n off k : Nat) : State :=
  s.modQuad n fun q => { q with cnt := q.cnt.add off k }
def State.countTile (s : State) (n off k : Nat) : State :=
  s.modTile n fun q => { q with cnt := q.cnt.add off k }
def State.countStack (s : State) (n off k : Nat) : State :=
  s.modStack n fun q => { q with cnt := q.cnt.add off k }
def State.countPort (s : State) (n off k : Nat) : State :=
  s.modPort n fun q => { q with cnt := q.cnt.add off k }

/-! ### Host window (R265, R315) -/

/-- The stacks of a site's window in order. -/
def State.winStacks (s : State) (site : Nat) : List Nat :=
  if site = 0 then s.pmc.westTaken else s.pmc.eastTaken

/-- Bytes of a site's window. -/
def State.winSize (s : State) (site : Nat) : Nat := (s.winStacks site).length * stackSize

/-- The Panel Address of a window offset. -/
def State.winAddr (s : State) (site off : Nat) : Nat :=
  stackAddr ((s.winStacks site).getD (off / stackSize) 0) (off % stackSize)

/-- One run of a write to a window, with its sectors counted (R271): a FAILED stack discards it (R263). -/
def State.winPut (s : State) (site off : Nat) (bs : List Byte) : State :=
  let h := (s.winStacks site).getD (off / stackSize) 0
  if bs = [] || (s.getStack h).state = 4 then s
  else (s.write (s.winAddr site off) bs).countStack h 0x24 (wordsOf off bs.length).length

/-- A write at a window offset, one run for each stack it touches. -/
def State.winWrite (s : State) (site off : Nat) (bs : List Byte) : State :=
  let room := stackSize - off % stackSize
  let s := s.winPut site off (bs.take room)
  if bs.length ≤ room then s else s.winPut site (off + room) (bs.drop room)

def State.winBytes (s : State) (site off n : Nat) : List Byte :=
  let room := stackSize - off % stackSize
  s.bytes (s.winAddr site off) (min n room) ++
    (if n ≤ room then [] else s.bytes (s.winAddr site (off + room)) (n - room))

/-! ### The Contact Sheet (R391 to R395) -/

/-- Row numbers (R391). -/
def rowDie (d : Nat) : Nat := 576 + d
def rowTile (t : Nat) : Nat := 864 + t
def rowRes (r : Nat) : Nat := 888 + r
def rowStack (h : Nat) : Nat := 936 + h
def rowFio (n : Nat) : Nat := 984 + n
def rowGate (g : Nat) : Nat := 992 + g
def rowSite (g : Nat) : Nat := 994 + g
def rowPmc : Nat := 996
def rowPort (p : Nat) : Nat := 1000 + p
def rowRing (r : Nat) : Nat := 1032 + r
def rowLink (tile n d : Nat) : Nat := 1048 + (tile * 10 + n) * 2 + d
def rowLane (tile n d g : Nat) : Nat := 1528 + ((tile * 10 + n) * 2 + d) * 11 + g
def rowModule (site m : Nat) : Nat := 6980 + site * 8 + m
def rowPhase (q p : Nat) : Nat := 6996 + q * 10 + p
def rowConv (tile side : Nat) : Nat := 7956 + tile * 2 + side
def rowFeed (tile side : Nat) : Nat := 8004 + tile * 2 + side
def rowInput (i : Nat) : Nat := 8052 + i
def rowRef (r : Nat) : Nat := 8054 + r
def rowPair (p : Nat) : Nat := 8056 + p
def rowInlet (i : Nat) : Nat := 8499 + i
def rowFan (i : Nat) : Nat := 8501 + i
def rowCart : Nat := 8503
def rowFlash (b : Nat) : Nat := 8504 + b

def State.row (s : State) (r : Nat) : Row := tget s.hlt.live r {}
def State.setRow (s : State) (r : Nat) (v : Row) : State :=
  s.modHlt fun h => { h with live := tset h.live r v {} }

/-- A row takes a STATE and a REASON (R392): CHANGED and CHANGES follow. -/
def State.rowState (s : State) (r st why : Nat) : State :=
  let v := s.row r
  if v.state = st ∧ v.reason = why then s else
  s.setRow r { v with
    state := st, reason := why, changed := s.frame32
    changes := if v.state = st then v.changes else sat 0xFFFF (v.changes + 1) }

/-- A row's DATA. -/
def State.rowData (s : State) (r : Nat) (d : W32) : State := s.setRow r { s.row r with data := d }
/-- One more attempt of the current outage (R392). -/
def State.rowAttempt (s : State) (r : Nat) : State :=
  s.setRow r { s.row r with attempts := sat 0xFFFF ((s.row r).attempts + 1) }

/-- The rule of the row acts at once (R395): CONTACT_READ sees it before the Stop Bath. -/
def State.rowNow (s : State) (r : Nat) : State :=
  s.modHlt fun h => { h with sheet := tset h.sheet r (tget h.live r {}) {} }

/-- Whether the item of a row is fitted on the order code (R391). -/
def State.rowFitted (s : State) (r : Nat) : Bool :=
  if 8506 ≤ r then false
  else if 997 ≤ r && r < 1000 then false
  else if !s.sec.f32 && ((988 ≤ r && r < 992) || (1016 ≤ r && r < 1032) || (1040 ≤ r && r < 1048)) then false
  else if !s.sec.h2 && (r = 995 || (6988 ≤ r && r < 6996)) then false
  else true

/-! ### Due events -/

/-- The event's meaning where its precondition holds; else the event does not arise, and nothing happens: log entry 99. -/
def due (s : State) (c : Bool) (k : Out) : Out := if c then k else .next s

/-- The meaning where the unit exists. -/
def unit (c : Bool) (what : String) (k : Out) : Out := if c then k else .fault (.noUnit what)

end Sys2Proof.Machine
end

