-- ==== Sys2Proof/Machine/Formats.lean ====
section
/-! DEFINITION. The number formats (R102 to R110) and narrowing (R114, R115): exact values, one rounding. -/

namespace Sys2Proof

open Machine

/-! ### Exact arithmetic -/

def Num.zero : Num := .fin false 0 0

/-- The signed integer of a finite value at exponent `e0`, at or below its own. -/
def finAt (neg : Bool) (m : Nat) (e e0 : Int) : Int :=
  let v : Int := (m * 2 ^ (e - e0).toNat : Nat)
  if neg then -v else v

/-- Exact sum (R109, R110): NaN where an operand is NaN or infinities of both signs meet; −0 only from −0 + −0. -/
def Num.add : Num → Num → Num
  | .nan, _ => .nan
  | _, .nan => .nan
  | .inf a, .inf b => if a = b then .inf a else .nan
  | .inf a, _ => .inf a
  | _, .inf b => .inf b
  | .fin na ma ea, .fin nb mb eb =>
    let e0 := min ea eb
    let v := finAt na ma ea e0 + finAt nb mb eb e0
    if v = 0 then .fin (na && nb && ma = 0 && mb = 0) 0 0
    else .fin (decide (v < 0)) v.natAbs e0

def Num.neg : Num → Num
  | .nan => .nan
  | .inf a => .inf !a
  | .fin n m e => .fin (!n) m e

def Num.abs : Num → Num
  | .nan => .nan
  | .inf _ => .inf false
  | .fin _ m e => .fin false m e

/-- Exact product (R108): NaN where an infinity meets zero. -/
def Num.mul : Num → Num → Num
  | .nan, _ => .nan
  | _, .nan => .nan
  | .inf a, .inf b => .inf (a != b)
  | .inf a, .fin n m _ => if m = 0 then .nan else .inf (a != n)
  | .fin n m _, .inf b => if m = 0 then .nan else .inf (n != b)
  | .fin na ma ea, .fin nb mb eb => .fin (na != nb) (ma * mb) (ea + eb)

/-- Whether `a < b` as values; false with a NaN. -/
def Num.lt : Num → Num → Bool
  | .nan, _ => false
  | _, .nan => false
  | .inf a, .inf b => a && !b
  | .inf a, _ => a
  | _, .inf b => !b
  | .fin na ma ea, .fin nb mb eb => finAt na ma ea (min ea eb) < finAt nb mb eb (min ea eb)

/-- Whether `a = b` as values; +0 equals −0; false with a NaN. -/
def Num.eq : Num → Num → Bool
  | .inf a, .inf b => a = b
  | .fin na ma ea, .fin nb mb eb => finAt na ma ea (min ea eb) = finAt nb mb eb (min ea eb)
  | _, _ => false

def Num.isNan : Num → Bool
  | .nan => true
  | _ => false
def Num.isInf : Num → Bool
  | .inf _ => true
  | _ => false
def Num.isZero : Num → Bool
  | .fin _ 0 _ => true
  | _ => false
def Num.isNeg : Num → Bool
  | .nan => false
  | .inf a => a
  | .fin n _ _ => n

/-! ### Rounding -/

/-- `m` divided by 2^`k`, to nearest, ties to even. -/
def shiftRne (m k : Nat) : Nat :=
  let q := m / 2 ^ k
  let r := m % 2 ^ k
  if k = 0 then m
  else if 2 * r < 2 ^ k then q
  else if 2 ^ k < 2 * r then q + 1
  else q + q % 2

/-- ⌊log₂ m⌋, 0 for 0. -/
def ilog (m : Nat) : Nat := Nat.log2 m

/-- `m` × 2^`e` rounded to nearest even with at most `p` significand bits and no bit below 2^`emin`. -/
def roundTo (p : Nat) (emin : Int) (m : Nat) (e : Int) : Nat × Int :=
  if m = 0 then (0, emin)
  else
    let k := max (((ilog m : Nat) : Int) + 1 - (p : Nat)) (emin - e)
    if k ≤ 0 then (m, e) else (shiftRne m k.toNat, e + k)

/-- The partial-sum format PS (R109): 31 significand bits; its exponent range never binds. -/
def Num.roundPs : Num → Num
  | .fin n m e => let r := roundTo 31 (-540) m e; .fin n r.1 r.2
  | x => x

/-! ### Encodings (R102) -/

/-- A binary format: exponent bits, mantissa bits, bias. -/
structure Fmt where
  eb : Nat
  mb : Nat
  bias : Int
  deriving DecidableEq, Repr

def fE4M3 : Fmt := ⟨4, 3, 7⟩
def fE5M2 : Fmt := ⟨5, 2, 15⟩
def fE3M2 : Fmt := ⟨3, 2, 3⟩
def fE2M3 : Fmt := ⟨2, 3, 1⟩
def fE2M1 : Fmt := ⟨2, 1, 1⟩
def fBf16 : Fmt := ⟨8, 7, 127⟩
def fF32 : Fmt := ⟨8, 23, 127⟩

/-- The finite value of a code. -/
def Fmt.fin (f : Fmt) (c : Nat) : Num :=
  let m := c % 2 ^ f.mb
  let e := c / 2 ^ f.mb % 2 ^ f.eb
  let s := c / 2 ^ (f.mb + f.eb) % 2 = 1
  if e = 0 then .fin s m (1 - f.bias - (f.mb : Nat))
  else .fin s (2 ^ f.mb + m) ((e : Nat) - f.bias - (f.mb : Nat))

/-- A code of a format with IEEE infinities and NaNs: E5M2, BF16, FP32. -/
def Fmt.ieee (f : Fmt) (c : Nat) : Num :=
  let m := c % 2 ^ f.mb
  let e := c / 2 ^ f.mb % 2 ^ f.eb
  if e = 2 ^ f.eb - 1 then (if m = 0 then .inf (c / 2 ^ (f.mb + f.eb) % 2 = 1) else .nan) else f.fin c

/-- E4M3: S.1111.111 is NaN, no infinity. -/
def ofE4M3 (c : Nat) : Num := if c % 128 = 127 then .nan else fE4M3.fin c
/-- MX INT8 (R102): two's complement × 2⁻⁶. -/
def ofInt8 (c : Nat) : Num := .fin (decide (128 ≤ c % 256)) (toSigned 8 c).natAbs (-6)
def ofF32 (w : W32) : Num := fF32.ieee w.toNat
def ofBf16 (c : Nat) : Num := fBf16.ieee c
/-- E8M0 (R105). -/
def ofE8M0 (c : Nat) : Num := if c % 256 = 255 then .nan else .fin false 1 ((c % 256 : Nat) - 127)

/-- The code of a magnitude `m` × 2^`e` already rounded to the format, below overflow; sign apart. -/
def Fmt.pack (f : Fmt) (m : Nat) (e : Int) : Nat :=
  if m = 0 then 0
  else
    let lg : Int := (ilog m : Nat) + e
    if lg < 1 - f.bias then (m * 2 ^ (e - (1 - f.bias - (f.mb : Nat))).toNat)
    else ((lg + f.bias).toNat) * 2 ^ f.mb +
      ((if e ≤ lg - (f.mb : Nat) then m / 2 ^ (lg - (f.mb : Nat) - e).toNat
        else m * 2 ^ (e - (lg - (f.mb : Nat))).toNat) - 2 ^ f.mb)

/-- A magnitude rounded to the format: the code, which passes the largest finite code on overflow. -/
def Fmt.code (f : Fmt) (m : Nat) (e : Int) : Nat :=
  let r := roundTo (f.mb + 1) (1 - f.bias - (f.mb : Nat)) m e
  f.pack r.1 r.2

def signed (neg : Bool) (w c : Nat) : Nat := b2n neg * 2 ^ w + c

/-- FP32 with one rounding to nearest even (R109, R110): overflow to infinity, NaN as 0x7FC0_0000. -/
def toF32 : Num → W32
  | .nan => 0x7FC00000
  | .inf n => BitVec.ofNat 32 (signed n 31 0x7F800000)
  | .fin n m e => BitVec.ofNat 32 (signed n 31 (min 0x7F800000 (fF32.code m e)))

/-! ### Narrowing (R114) -/

/-- Whether `a` ≤ `b` as magnitudes m × 2^e. -/
def magLe (a b : Nat × Int) : Bool :=
  a.1 * 2 ^ (a.2 - min a.2 b.2).toNat ≤ b.1 * 2 ^ (b.2 - min a.2 b.2).toNat

/-- FP32 to E4M3, mode OVF or SAT: a magnitude from the midpoint 464 on rounds above 448. -/
def toE4M3 (ovf : Bool) : Num → Nat
  | .nan => 0x7F
  | .inf n => signed n 7 (if ovf then 0x7F else 0x7E)
  | .fin n m e => let c := fE4M3.code m e; signed n 7 (if !magLe (464, 0) (m, e) then c else if ovf then 0x7F else 0x7E)

/-- FP32 to E5M2. -/
def toE5M2 (ovf : Bool) : Num → Nat
  | .nan => 0x7F
  | .inf n => signed n 7 0x7C
  | .fin n m e => let c := fE5M2.code m e; signed n 7 (if c ≤ 0x7B then c else if ovf then 0x7C else 0x7B)

/-- FP32 to BF16. -/
def toBf16 (ovf : Bool) : Num → Nat
  | .nan => 0x7FC0
  | .inf n => signed n 15 0x7F80
  | .fin n m e => let c := fBf16.code m e; signed n 15 (if c ≤ 0x7F7F then c else if ovf then 0x7F80 else 0x7F7F)

/-! ### MX blocks (R115) -/

/-- The element types of MX formats by the format code of R82. -/
def mxFmt (code : Nat) : Fmt :=
  match code with
  | 2 => fE4M3
  | 3 => fE5M2
  | 4 => fE3M2
  | 5 => fE2M3
  | _ => fE2M1

/-- emax of R115. -/
def mxEmax (code : Nat) : Int :=
  match code with
  | 2 => 8
  | 3 => 15
  | 4 => 4
  | 5 => 2
  | 6 => 2
  | _ => 0

/-- Vmax of R115 as an integer and an exponent: 448, 57,344, 28, 7.5, 6, 1.984375. -/
def mxVmax (code : Nat) : Nat × Int :=
  match code with
  | 2 => (448, 0)
  | 3 => (57344, 0)
  | 4 => (28, 0)
  | 5 => (15, -1)
  | 6 => (6, 0)
  | _ => (127, -6)

/-- The largest code of a magnitude of the element type. -/
def mxTop (code : Nat) : Nat :=
  match code with
  | 2 => 0x7E
  | 3 => 0x7B
  | 4 => 0x1F
  | 5 => 0x1F
  | 6 => 0x7
  | _ => 127

/-- Sign position of the element's code. -/
def mxWidth (code : Nat) : Nat :=
  match code with
  | 4 => 5
  | 5 => 5
  | 6 => 3
  | _ => 7

/-- The magnitude of a finite value. -/
def Num.mag : Num → Nat × Int
  | .fin _ m e => (m, e)
  | _ => (0, 0)

/-- The shared exponent of R115 before its clamp: FLOOR or NOCLIP. -/
def mxExp (noclip : Bool) (code : Nat) (x : Nat × Int) : Int :=
  let fl : Int := (ilog x.1 : Nat) + x.2
  if noclip then
    let v := mxVmax code
    let e := fl - ((ilog v.1 : Nat) + v.2)
    if magLe x (v.1, v.2 + e) then e else e + 1
  else fl - mxEmax code

/-- One element of an MX block under exponent `e` (R115 steps 5 and 6). -/
def mxElem (code : Nat) (e : Int) : Num → Nat
  | .fin n m k =>
    if code = 7 then
      let r := roundTo 64 (-6) m (k - e)
      let v := min 127 (r.1 * 2 ^ (r.2 + 6).toNat)
      if n then (256 - v) % 256 else v
    else signed n (mxWidth code) (min (mxTop code) ((mxFmt code).code m (k - e)))
  | _ => 0

/-- R115: scale code and element codes of a block. -/
def mxBlock (noclip : Bool) (code : Nat) (xs : List Num) : Nat × List Nat :=
  if xs.any (fun x => x.isNan || x.isInf) then (0xFF, xs.map fun _ => 0)
  else
    let x := xs.foldl (fun a v => if magLe v.mag a then a else v.mag) (0, 0)
    if x.1 = 0 then
      (0, xs.map fun v => if code = 7 then 0 else signed v.isNeg (mxWidth code) 0)
    else
      let e := max (-127) (min 127 (mxExp noclip code x))
      ((e + 127).toNat, xs.map (mxElem code e))

/-! ### Reading operands (R82, R104) -/

/-- An element of a format code from its bits. -/
def elemOf (code bitsv : Nat) : Num :=
  match code with
  | 0 => ofE4M3 bitsv
  | 1 => fE5M2.ieee bitsv
  | 2 => ofE4M3 bitsv
  | 3 => fE5M2.ieee bitsv
  | 4 => fE3M2.fin bitsv
  | 5 => fE2M3.fin bitsv
  | 6 => fE2M1.fin bitsv
  | 7 => ofInt8 bitsv
  | _ => ofBf16 bitsv

/-- Bits of an element of a format code. -/
def elemBits (code : Nat) : Nat :=
  match code with
  | 4 => 6
  | 5 => 6
  | 6 => 4
  | 8 => 16
  | _ => 8

/-- Element `i` of a packed row (R104): element i occupies bits from i × width up, little-endian. -/
def elemAt (code : Nat) (row : List Byte) (i : Nat) : Num :=
  let b := elemBits code * i
  elemOf code (bits (leNat ((row.drop (b / 8)).take 3)) (b % 8) (elemBits code))

/-- Elements packed into bytes (R104). -/
def packElems (code : Nat) (cs : List Nat) : List Byte :=
  let w := elemBits code
  natLe (cdiv (cs.length * w) 8) ((cs.reverse.foldl (fun a c => a * 2 ^ w + c) 0))

def isMx (code : Nat) : Bool := 2 ≤ code && code ≤ 7

end Sys2Proof
end

