-- ==== Sys2Proof/Machine/Special.lean ====
section
/-! DEFINITION. EXP2, LOG2, RCP and RSQ (R130): the special values, and a free result held to the error bound. The
exact value is bounded by a fixed-point value of 120 fraction bits; the free result of Config stands where it lies
within the bound of it, else the nearest FP32 value does. -/

namespace Sys2Proof

open Machine

/-- Fraction bits of the fixed-point values. -/
def fxBits : Nat := 120

/-- Integer square root, bit by bit. -/
def isqrtFrom (v : Nat) : Nat → Nat → Nat
  | 0, r => r
  | k + 1, r => let r' := r + 2 ^ k; isqrtFrom v k (if r' * r' ≤ v then r' else r)
def isqrt (v : Nat) : Nat := isqrtFrom v (Nat.log2 v / 2 + 2) 0

/-- 2^f for a fraction `f` (fxBits bits): the product of the square roots of 2 whose bits are set; `c` is 2^(2^−i). -/
def exp2Frac (f : Nat) : Nat → Nat → Nat → Nat
  | 0, _, acc => acc
  | k + 1, c, acc =>
    let c := isqrt (c * 2 ^ fxBits)
    exp2Frac f k c (if f / 2 ^ (fxBits - 80 + k) % 2 = 1 then acc * c / 2 ^ fxBits else acc)

/-- 2^x for a finite x, as m × 2^e. -/
def exp2Ref (n : Bool) (m : Nat) (e : Int) : Nat × Int :=
  let fx : Int := if 0 ≤ e then ((m * 2 ^ (e + fxBits).toNat : Nat) : Int)
    else if -fxBits ≤ e then ((m * 2 ^ (fxBits + e).toNat : Nat) : Int) else ((m / 2 ^ (-e - fxBits).toNat : Nat) : Int)
  let v := if n then -fx else fx
  let i := v / (2 ^ fxBits : Nat)
  let f := (v % (2 ^ fxBits : Nat)).toNat
  (exp2Frac f 80 (2 * 2 ^ fxBits) (2 ^ fxBits), i - fxBits)

/-- The fraction bits of log₂ of `y` in [1, 2) (fxBits bits) by repeated squaring. -/
def log2Frac : Nat → Nat → Nat → Nat
  | 0, _, acc => acc
  | k + 1, y, acc =>
    let y := y * y / 2 ^ fxBits
    if 2 * 2 ^ fxBits ≤ y then log2Frac k (y / 2) (2 * acc + 1) else log2Frac k y (2 * acc)

/-- log₂ of m × 2^e, m not 0: sign and magnitude × 2^−64. -/
def log2Ref (m : Nat) (e : Int) : Bool × Nat × Int :=
  let l := ilog m
  let y := if l ≤ fxBits then m * 2 ^ (fxBits - l) else m / 2 ^ (l - fxBits)
  let v : Int := ((l : Int) + e) * (2 ^ 64 : Nat) + (log2Frac 64 y 0 : Nat)
  (decide (v < 0), v.natAbs, -64)

/-- 1/x and 1/√x for x = m × 2^e, m not 0. -/
def rcpRef (m : Nat) (e : Int) : Nat × Int :=
  (2 ^ (ilog m + 80) / m, -e - (ilog m + 80 : Nat))
def rsqRef (m : Nat) (e : Int) : Nat × Int :=
  let m2 := if e % 2 = 0 then m else 2 * m
  let e2 := if e % 2 = 0 then e else e - 1
  (isqrt (2 ^ (2 * (ilog m2 + 80)) / m2), -(e2 / 2) - (ilog m2 + 80 : Nat))

/-- The FP32 value nearest the reference, and whether a word lies within `ulps` units in the last place of it, the
unit of the reference's own binade. -/
def f32Near (n : Bool) (r : Nat × Int) : W32 := toF32 (.fin n r.1 r.2)
def ulpExp (r : Nat × Int) : Int := max (-149) ((ilog r.1 : Nat) + r.2 - 23)
def withinUlp (ulps : Nat) (n : Bool) (r : Nat × Int) (w : W32) : Bool :=
  match ofF32 w with
  | .fin n' m e =>
    let u := ulpExp r
    let e0 := min (min e r.2) u
    decide ((finAt n' m e e0 - finAt n r.1 r.2 e0).natAbs ≤ ulps * 2 ^ (u - e0).toNat)
  | _ => false

/-- The free result of a function where it keeps to its bound, else the nearest value. -/
def bounded (fn ulps : Nat) (n : Bool) (r : Nat × Int) (x : W32) : W32 :=
  let c := Config.special fn x
  if withinUlp ulps n r c then c else f32Near n r

/-- EXP2: ±∞, overflow to +∞, else within 2 ulp. -/
def fExp2 (x : W32) : W32 :=
  match ofF32 x with
  | .nan => 0x7FC00000
  | .inf n => if n then 0 else 0x7F800000
  | .fin n m e =>
    if magLe (256, 0) (m, e) then (if n then 0 else 0x7F800000)
    else
      let r := exp2Ref n m e
      if f32Near false r = 0x7F800000 then 0x7F800000 else bounded 0 2 false r x

/-- LOG2: ±0 gives −∞, a negative input NaN, else within 2 ulp. -/
def fLog2 (x : W32) : W32 :=
  match ofF32 x with
  | .nan => 0x7FC00000
  | .inf n => if n then 0x7FC00000 else 0x7F800000
  | .fin n m e =>
    if m = 0 then 0xFF800000
    else if n then 0x7FC00000
    else
      let r := log2Ref m e
      if r.2.1 = 0 then 0 else bounded 1 2 r.1 r.2 x

/-- RCP: ±0 gives ±∞, ±∞ gives ±0, else within 1 ulp. -/
def fRcp (x : W32) : W32 :=
  match ofF32 x with
  | .nan => 0x7FC00000
  | .inf n => if n then 0x80000000 else 0
  | .fin n m e => if m = 0 then (if n then 0xFF800000 else 0x7F800000) else
    let r := rcpRef m e
    if f32Near false r = 0x7F800000 then f32Near n r else bounded 2 1 n r x

/-- RSQ: ±0 gives ±∞, +∞ gives +0, a negative input NaN, else within 1 ulp. -/
def fRsq (x : W32) : W32 :=
  match ofF32 x with
  | .nan => 0x7FC00000
  | .inf n => if n then 0x7FC00000 else 0
  | .fin n m e =>
    if m = 0 then (if n then 0xFF800000 else 0x7F800000)
    else if n then 0x7FC00000
    else bounded 3 1 false (rsqRef m e) x

end Sys2Proof
end

