-- ==== Sys2Proof/Machine/Infusion.lean ====
section
/-! DEFINITION. The infusion: its check (R128, R129, R133, R136) and what each instruction does to the 128 lanes
(R127 to R134). -/

namespace Sys2Proof.Machine

/-! ### Fields and check -/

def iOp (w : W32) : Nat := bits w.toNat 26 6
def iD (w : W32) : Nat := bits w.toNat 22 4
def iA (w : W32) : Nat := bits w.toNat 18 4
def iB (w : W32) : Nat := bits w.toNat 14 4
def iC (w : W32) : Nat := bits w.toNat 10 4
def iAmod (w : W32) : Nat := bits w.toNat 8 2
def iBmod (w : W32) : Nat := bits w.toNat 6 2
def iFn (w : W32) : Nat := bits w.toNat 0 6

/-- The bits of an instruction that its opcode does not use must be 0: masks of unused fields of the register format,
A 18, B 14, C 10, AMOD 8, BMOD 6, FN 0. -/
def unusedOf (op : Nat) : List (Nat × Nat) :=
  let d := (22, 4); let a := (18, 4); let b := (14, 4); let c := (10, 4); let am := (8, 2); let bm := (6, 2)
  let fn := (0, 6)
  match op with
  | 0x00 => [d, a, b, c, am, bm, fn]
  | 0x01 => [b, c, bm, fn]
  | 0x02 | 0x03 | 0x04 | 0x06 | 0x07 => [c, fn]
  | 0x05 | 0x09 => [fn]
  | 0x08 => [c, (3, 3)]
  | 0x0A | 0x0B | 0x0C | 0x0D => [b, c, bm, fn]
  | 0x0E => [b, c, bm]
  | 0x0F => [b, c, bm]
  | 0x10 => [b, c, am, bm, (0, 2)]
  | 0x11 | 0x12 => [b, c, bm, (2, 4)]
  | 0x13 => [a, b, c, am, bm, (2, 4)]
  | 0x14 => [(16, 4)]
  | _ => [a, b, c, am, bm, fn]

/-- Whether an instruction is valid (R136). -/
def instOk (pack : Bool) (w : W32) : Bool :=
  let op := iOp w
  let f := iFn w
  op ≤ 0x15 &&
  (unusedOf op).all (fun u => bits w.toNat u.1 u.2 = 0) &&
  (match op with
   | 0x0E => if bitOf f 5 then bits f 0 5 = 0 else bits f 0 5 ≤ 24
   | 0x0F => bits f 2 4 ≤ 8 && (isMx (bits f 2 4) || !bitOf f 0)
   | 0x10 => bits f 2 4 ≤ 8
   | 0x11 | 0x12 | 0x13 => bits f 0 2 ≤ 2
   | 0x14 => bits w.toNat 20 2 ≠ 3
   | _ => true) &&
  (!pack || op ≤ 0x09 || op = 0x14 || op = 0x15)

/-- The cost of an instruction in cycles for a row pair (R129). -/
def instCost (w : W32) : Nat :=
  match iOp w with
  | 0x0A | 0x0B | 0x0C | 0x0D => 2
  | 0x0F => if isMx (bits (iFn w) 2 4) then 2 else 1
  | _ => 1

/-! ### Arithmetic on one FP32 value -/

/-- AMOD and BMOD (R128): on the sign bit. -/
def modOf (m : Nat) (x : W32) : W32 :=
  match m with
  | 0 => x
  | 1 => x ^^^ 0x80000000
  | 2 => x &&& 0x7FFFFFFF
  | _ => x ||| 0x80000000

/-- A NaN result is written as 0x7FC0_0000 (R130). -/
def canonF32 (x : W32) : W32 := if (ofF32 x).isNan then 0x7FC00000 else x

def fAdd (a b : W32) : W32 := toF32 ((ofF32 a).add (ofF32 b))
def fMul (a b : W32) : W32 := toF32 ((ofF32 a).mul (ofF32 b))
def fFma (a b c : W32) : W32 := toF32 (((ofF32 a).mul (ofF32 b)).add (ofF32 c))

/-- MAX and MIN (R130): NaN if either is; +0 above −0. -/
def fMax (a b : W32) : W32 :=
  let x := ofF32 a
  let y := ofF32 b
  if x.isNan || y.isNan then 0x7FC00000
  else if x.lt y then b
  else if y.lt x then a
  else if x.isNeg then b else a
def fMin (a b : W32) : W32 :=
  let x := ofF32 a
  let y := ofF32 b
  if x.isNan || y.isNan then 0x7FC00000
  else if x.lt y then a
  else if y.lt x then b
  else if x.isNeg then a else b

/-- CMP's conditions (R129, R130). -/
def fCond (c : Nat) (a b : W32) : Bool :=
  let x := ofF32 a
  let y := ofF32 b
  match c with
  | 0 => x.eq y
  | 1 => !x.eq y
  | 2 => x.lt y
  | 3 => x.lt y || x.eq y
  | 4 => y.lt x
  | 5 => y.lt x || x.eq y
  | 6 => !(x.isNan || y.isNan)
  | _ => x.isNan || y.isNan

/-- The instructions that act on one value alone, PACK or not. -/
def aluOp (op : Nat) (fn : Nat) (a b c : W32) : W32 :=
  match op with
  | 0x01 => canonF32 a
  | 0x02 => fAdd a b
  | 0x03 => fAdd a (b ^^^ 0x80000000)
  | 0x04 => fMul a b
  | 0x05 => fFma a b c
  | 0x06 => fMax a b
  | 0x07 => fMin a b
  | 0x08 => if fCond (fn % 8) a b then 0x3F800000 else 0
  | 0x09 => canonF32 (if (ofF32 c).isZero then b else a)
  | 0x0A => fExp2 a
  | 0x0B => fLog2 a
  | 0x0C => fRcp a
  | _ => fRsq a

/-- RRED's and CRED's operation. -/
def redOp (f : Nat) (a b : W32) : W32 :=
  match f with
  | 0 => fAdd a b
  | 1 => fMax a b
  | _ => fMin a b

/-! ### Lanes -/

/-- The registers of the lanes, and whether a marked table entry was read. -/
structure Lanes where
  regs : List (List (BitVec 64))
  bad : Bool
  deriving DecidableEq, Repr

def Lanes.mapRegs (s : Lanes) (f : List (BitVec 64) → List (BitVec 64)) : Lanes := { s with regs := s.regs.map f }

/-- What an instruction sees of its row pair. -/
structure RowCtx where
  cols : Nat
  /-- Rows per tile, the first row of the pair (or quad), its j, the tile's ordinal k. -/
  rows : Nat
  row : Nat
  j : Nat
  k : Nat
  c0 : W32
  lut : Tab W32
  lutBad : List Nat
  deriving DecidableEq, Repr

def lo32 (v : BitVec 64) : W32 := v.setWidth 32
def hi32 (v : BitVec 64) : W32 := (v >>> 32).setWidth 32
def join32 (lo hi : W32) : BitVec 64 := (hi.setWidth 64 <<< 32) ||| lo.setWidth 64

/-- The odd row of the pair exists. -/
def RowCtx.odd (x : RowCtx) : Bool := x.row + 1 < x.rows

def regOf (r : List (BitVec 64)) (i : Nat) : BitVec 64 := r.getD i 0

/-- Both halves of D from a function of the half and its row; pipe 1 idles where the odd row is missing. -/
def setHalves (x : RowCtx) (r : List (BitVec 64)) (d : Nat) (f : (BitVec 64 → W32) → Nat → W32) : List (BitVec 64) :=
  let lo := f lo32 0
  let hi := if x.odd then f hi32 1 else hi32 (regOf r d)
  r.set d (join32 lo hi)

/-- A level of RRED's tree (R132): adjacent results combine; a missing one passes the other up. -/
def treeLevel (f : Nat) : List (Option W32) → List (Option W32)
  | a :: b :: r =>
    (match a, b with
     | some x, some y => some (redOp f x y)
     | some x, none => some x
     | none, y => y) :: treeLevel f r
  | l => l
def treeUp (f : Nat) : Nat → List (Option W32) → List (Option W32)
  | 0, l => l
  | k + 1, l => treeUp f k (treeLevel f l)

/-- RRED over lanes 0 to COLS − 1 of one half. -/
def rred (x : RowCtx) (f amod a : Nat) (half : BitVec 64 → W32) (ls : List (List (BitVec 64))) : W32 :=
  let l := (List.range 128).map fun i =>
    if i < x.cols then some (modOf amod (half (regOf (ls.getD i []) a))) else none
  canonF32 (((treeUp f 7 l).headD none).getD 0)

/-- A CVT of one group of one row: codes with the scale in bits [15:8] (R134). -/
def cvtGroup (code : Nat) (noclip : Bool) (xs : List W32) : List W32 :=
  let r := mxBlock noclip code (xs.map ofF32)
  r.2.map fun c => BitVec.ofNat 32 (c + 256 * r.1)

/-- CVT of one row to a format that is not MX. -/
def cvtPlain (code : Nat) (ovf : Bool) (x : W32) : W32 :=
  BitVec.ofNat 32 (match code with
    | 0 => toE4M3 ovf (ofF32 x)
    | 1 => toE5M2 ovf (ofF32 x)
    | _ => toBf16 ovf (ofF32 x))

/-- CVT of one row: groups of 32 lanes; the group that COLS cuts is two blocks, the lanes below COLS and those from it
on (the second is no result of the spec: log entry 13). -/
def cvtRow (x : RowCtx) (fn : Nat) (xs : List W32) : List W32 :=
  let code := bits fn 2 4
  if isMx code then
    (List.range 4).flatMap fun g =>
      let grp := (xs.drop (32 * g)).take 32
      let n := min 32 (x.cols - 32 * g)
      cvtGroup code (bitOf fn 0) (grp.take n) ++ cvtGroup code (bitOf fn 0) (grp.drop n)
  else xs.map (cvtPlain code (bitOf fn 1))

/-- DCV of one value (R134). -/
def dcv (fn : Nat) (a : W32) : W32 :=
  let code := bits fn 2 4
  let e := elemOf code (bits a.toNat 0 (elemBits code))
  if isMx code then toF32 (e.mul (ofE8M0 (bits a.toNat 8 8))) else toF32 e

/-- The table index of LUT (R131). -/
def lutIndex (fn : Nat) (a : W32) : Nat :=
  if bitOf fn 5 then
    match ofF32 a with
    | .nan => 0
    | .inf n => if n then 0 else 255
    | .fin n m e =>
      if n then 0
      else min 255 (if 0 ≤ e then m * 2 ^ (min e 300).toNat else m / 2 ^ (-e).toNat)
  else bits a.toNat (bits fn 0 5) 8

/-- Whether the opcode acts on a value alone. -/
def isAlu (op : Nat) : Bool := 1 ≤ op && op ≤ 0x0D

/-- One instruction on one row pair (R129, R132, R134). -/
def runInst (x : RowCtx) (s : Lanes) (w : W32) : Lanes :=
  let op := iOp w
  let d := iD w
  let a (half : BitVec 64 → W32) (r : List (BitVec 64)) : W32 := modOf (iAmod w) (half (regOf r (iA w)))
  let b (half : BitVec 64 → W32) (r : List (BitVec 64)) : W32 := modOf (iBmod w) (half (regOf r (iB w)))
  let c (half : BitVec 64 → W32) (r : List (BitVec 64)) : W32 := half (regOf r (iC w))
  let each (f : List (BitVec 64) → (BitVec 64 → W32) → Nat → Nat → W32) : Lanes :=
    { s with regs := s.regs.mapIdx fun l r => setHalves x r d fun h p => f r h p l }
  if op = 0 then s
  else if isAlu op then each fun r h _ _ => aluOp op (iFn w) (a h r) (b h r) (c h r)
  else match op with
    | 0x0E =>
      let idx (r : List (BitVec 64)) (h : BitVec 64 → W32) : Nat := lutIndex (iFn w) (a h r)
      let out := each fun r h _ _ => canonF32 (tget x.lut (idx r h) 0)
      { out with
        bad := s.bad || s.regs.any fun r =>
          x.lutBad.contains (idx r lo32) || (x.odd && x.lutBad.contains (idx r hi32)) }
    | 0x0F =>
      let lo := cvtRow x (iFn w) (s.regs.map (a lo32))
      let hi := cvtRow x (iFn w) (s.regs.map (a hi32))
      each fun _ _ p l => if p = 0 then lo.getD l 0 else hi.getD l 0
    | 0x10 => each fun r h _ _ => dcv (iFn w) (h (regOf r (iA w)))
    | 0x11 =>
      let lo := rred x (iFn w % 4) (iAmod w) (iA w) lo32 s.regs
      let hi := rred x (iFn w % 4) (iAmod w) (iA w) hi32 s.regs
      each fun _ _ p _ => if p = 0 then lo else hi
    | 0x12 =>
      s.mapRegs fun r =>
        let f := iFn w % 4
        let v := if x.odd then redOp f (a lo32 r) (a hi32 r) else a lo32 r
        let n := canonF32 (redOp f (lo32 (regOf r d)) v)
        r.set d (join32 n n)
    | 0x13 =>
      each fun _ _ p l => toF32 (.fin false (match iFn w % 4 with
        | 0 => x.j + p
        | 1 => l
        | _ => x.k) 0)
    | 0x14 =>
      let v : W32 := canonF32 (BitVec.ofNat 32 (bits w.toNat 0 16 * 65536))
      let hf := bits w.toNat 20 2
      s.mapRegs fun r =>
        r.set d (join32 (if hf = 2 then lo32 (regOf r d) else v)
          (if hf = 1 || !x.odd then hi32 (regOf r d) else v))
    | _ => each fun _ _ _ _ => canonF32 x.c0

/-! ### Packed BF16 (R133) -/

def slot16 (v : BitVec 64) (i : Nat) : Nat := bits v.toNat (16 * i) 16
def packSlots (l : List Nat) : BitVec 64 := BitVec.ofNat 64 (l.reverse.foldl (fun a c => a * 65536 + c) 0)
/-- A BF16 code as FP32. -/
def wide16 (c : Nat) : W32 := BitVec.ofNat 32 (c * 65536)
/-- FP32 rounded to BF16, overflow to infinity. -/
def narrow16 (x : W32) : Nat := toBf16 true (ofF32 x)

/-- One instruction on one row quad. -/
def runPacked (x : RowCtx) (s : Lanes) (w : W32) : Lanes :=
  let op := iOp w
  let n := min 4 (x.rows - x.row)
  s.mapRegs fun r =>
    let old := regOf r (iD w)
    let v (i : Nat) : Nat :=
      if n ≤ i then slot16 old i
      else if op = 0x14 then narrow16 (wide16 (bits w.toNat 0 16))
      else if op = 0x15 then narrow16 x.c0
      else narrow16 (aluOp op (iFn w) (modOf (iAmod w) (wide16 (slot16 (regOf r (iA w)) i)))
        (modOf (iBmod w) (wide16 (slot16 (regOf r (iB w)) i))) (wide16 (slot16 (regOf r (iC w)) i)))
    if op = 0 then r else r.set (iD w) (packSlots ((List.range 4).map v))

/-- A whole infusion on one row pair or quad. -/
def runInfusion (pack : Bool) (x : RowCtx) (prog : List W32) (s : Lanes) : Lanes :=
  prog.foldl (if pack then runPacked x else runInst x) s

end Sys2Proof.Machine
end

