-- ==== Sys2Proof/Machine/Flags.lean ====
section
/-! DEFINITION. What a Cell Control Block reads as (R23 to R43): its own bits for a core, what R40 and R41 derive for
a composite. -/

namespace Sys2Proof.Machine

/-- The fault bits of R31. -/
def fReset : Nat := 0
def fMesh : Nat := 1
def fUnderrun : Nat := 2
def fOverrun : Nat := 3
def fLate : Nat := 4
def fDescriptor : Nat := 5
def fEcc : Nat := 6
def fPoisonIn : Nat := 7
def fHeartbeat : Nat := 8
def fClock : Nat := 9
def fPower : Nat := 10
def fThermal : Nat := 11
def fSelfTest : Nat := 12
def fFwRepair : Nat := 13
def fTokenOvf : Nat := 14
def fComponent : Nat := 15

/-- A fault word with one bit. -/
def faultBit (b : Nat) : BitVec 16 := BitVec.ofNat 16 (2 ^ b)

/-- The reasons of R28. -/
def whyNone : Nat := 0
def whyPowerDeferred : Nat := 1
def whyDarkShort : Nat := 2
def whyNoReserve : Nat := 3
def whyClockForwarded : Nat := 4
def whyHeartbeat : Nat := 5
def whyThermalCap : Nat := 6
def whyDerated : Nat := 7
def whyCoolingLoss : Nat := 8
def whyOperator : Nat := 9
def whySelfTest : Nat := 10
def whySpared : Nat := 11

/-- The codes of R27. -/
def CellState.code : CellState → Nat
  | .off => 0
  | .starting => 1
  | .ready => 2
  | .running => 3
  | .degraded => 4
  | .resetting => 5
  | .faulted => 6
  | .dark => 7
  | .hold => 8
  | .retired => 9

/-- The tiles a work cell's quadrants fill wholly, and the other quadrants (R21). -/
def wholeTiles (quads : List Nat) : List Nat :=
  (List.range 24).filter fun t => (tileQuads t).all fun q => quads.contains q
def looseQuads (quads : List Nat) : List Nat :=
  quads.filter fun q => !(tileQuads (q / 4)).all fun p => quads.contains p

/-- The direct members of a cell on this panel, in rising order of CCB_ID (R20, R21). -/
def State.members (s : State) : CellId → List CellId
  | .core _ => []
  | .die d => (dieCores d).map .core
  | .quad q => (upTo (q * 3) 3).map .die
  | .tile t => (tileQuads t).map .quad
  | .panel => (List.range 24).map .tile
  | .work w =>
    (looseQuads (s.getWork w).quads).map .quad ++ (wholeTiles (s.getWork w).quads).map .tile
  | .hall => if s.fab.hallIndex.isSome then [.panel] else []

/-- Whether core `n` lies in the cell, at any depth. -/
def State.holds (s : State) (cell : CellId) (n : Nat) : Bool :=
  match cell with
  | .core m => m = n
  | .die d => coreDie n = d
  | .quad q => coreQuad n = q
  | .tile t => coreTile n = t
  | .panel => n < 576
  | .work w => (s.getWork w).quads.contains (coreQuad n)
  | .hall => s.fab.hallIndex.isSome && n < 576

/-- The cores of a cell in rising order of ID. -/
def State.coresOf (s : State) (cell : CellId) : List Nat :=
  match cell with
  | .core n => [n]
  | c => (List.range 576).filter (s.holds c)

/-- An exposed core (R22, R29). -/
def State.exposedCore (s : State) (n : Nat) : Bool := (s.getCore n).exposed

/-- A cell with an exposed core (R22). -/
def State.active (s : State) (cell : CellId) : Bool := s.core.any fun e => e.2.exposed && s.holds cell e.1

/-- The member panels of the hall cell, in rising order of ID, and those but this one with what they last told. -/
def State.hallPanels (s : State) : List Nat := s.fab.hallMembers.foldl nadd []
def State.peers (s : State) : List (Nat × Peer) :=
  (s.hallPanels.filter (· ≠ s.panelId)).map fun p => (p, tget s.fab.peers p {})

/-- Direct members of a cell (R29). -/
def State.memberCount (s : State) : CellId → Nat
  | .hall => s.fab.hallMembers.length
  | c => (s.members c).length

/-- A core counts in the EXPOSED of a cell: it is exposed, or, in a composite, its replacement is owed (R3: log entry 127). -/
def counted (cell : CellId) (c : Core) : Bool :=
  c.exposed || match cell with
    | .core _ => false
    | _ => c.owed

/-- Exposed cores of a cell (R29); of a hall cell, those of every member panel (R40). -/
def State.exposedIn (s : State) (cell : CellId) : Nat :=
  (s.core.filter fun e => counted cell e.2 && s.holds cell e.1).length +
    match cell with
    | .hall => s.peers.foldl (fun a e => a + e.2.exposed) 0
    | _ => 0

/-- The composites whose own bits, COMPONENT among them, a cell's CCB_FAULT takes in: itself, its active tiles, the panel for a hall
cell (R40). -/
def State.componentOf (s : State) (cell : CellId) : List Nat :=
  let tiles (l : List Nat) : List Nat := (l.filter fun t => s.active (.tile t)).map (384 + ·)
  match cell with
  | .tile t => [384 + t]
  | .panel => 408 :: tiles (List.range 24)
  | .work w => tiles (wholeTiles (s.getWork w).quads)
  | .hall => if s.fab.hallIndex.isSome && s.active .panel then 408 :: tiles (List.range 24) else []
  | _ => []

/-- CCB_FAULT (R31, R40): a core's own; for a composite the OR over its active cores, with the COMPONENT bits of
its active members and of itself. -/
def State.faultOf (s : State) (cell : CellId) : BitVec 16 :=
  match cell with
  | .core n => (s.getCore n).ccb.fault
  | c =>
    s.core.foldl (fun a e => if e.2.exposed && s.holds c e.1 then a ||| e.2.ccb.fault else a) 0 |||
      (s.componentOf c).foldl (fun a e => a ||| (s.getComp e).fault) 0 |||
      match c with
      | .hall => s.peers.foldl (fun a e => if e.2.exposed = 0 then a else a ||| e.2.fault) 0
      | _ => 0

/-- A cell as its composite sees it (R41). -/
structure View where
  active : Bool
  state : CellState
  reason : Nat
  frame : W64
  deriving DecidableEq, Repr

/-- R41: the state of a composite from its members'. -/
def composeState (ms : List View) : CellState :=
  let act := ms.filter (·.active)
  if act.isEmpty then
    if ms.all (·.state = .off) then .off
    else if ms.all (·.state = .retired) then .retired
    else .ready
  else if act.any (·.state = .hold) then .hold
  else if act.any (·.state = .resetting) then .resetting
  else if act.any (·.state = .faulted) then .faulted
  else if act.any (·.state = .starting) then .starting
  else match act with
    | [] => .ready
    | v :: r => if r.all (·.state = v.state) then v.state else .degraded

/-- R40: the reason of a composite. -/
def composeReason (st : CellState) (ms : List View) : Nat :=
  let act := ms.filter (·.active)
  if st = .degraded then
    ((act.find? fun v => v.state ≠ .running && v.state ≠ .ready).map (·.reason)).getD whyNone
  else ((act.find? fun v => v.state = st && v.reason ≠ whyNone).map (·.reason)).getD whyNone

/-- A composite's view: R40 and R41. The reason that the PMC holds for the composite itself (R399, R402) shows where R40 derives none:
DESIGN CHOICE, log entry 128. -/
def compose (own : Nat) (panelFrame : W64) (ms : List View) : View :=
  let act := ms.filter (·.active)
  let st := composeState ms
  { active := !act.isEmpty
    state := st
    reason := if composeReason st ms ≠ whyNone then composeReason st ms else own
    frame := match act with
      | [] => panelFrame
      | v :: r => r.foldl (fun a x => if x.frame < a then x.frame else a) v.frame }

def State.viewCore (s : State) (n : Nat) : View :=
  let c := s.getCore n
  { active := c.exposed, state := c.ccb.state, reason := c.ccb.reason, frame := c.ccb.frame }
def State.viewDie (s : State) (d : Nat) : View :=
  compose (s.getComp d).reason s.pmc.frame ((dieCores d).map s.viewCore)
def State.viewQuad (s : State) (q : Nat) : View :=
  compose (s.getComp (288 + q)).reason s.pmc.frame ((upTo (q * 3) 3).map s.viewDie)
def State.viewTile (s : State) (t : Nat) : View :=
  compose (s.getComp (384 + t)).reason s.pmc.frame ((tileQuads t).map s.viewQuad)
def State.viewPanel (s : State) : View :=
  compose (s.getComp 408).reason s.pmc.frame ((List.range 24).map s.viewTile)
def State.viewWork (s : State) (w : Nat) : View :=
  compose (s.getComp (409 + w)).reason s.pmc.frame
    ((looseQuads (s.getWork w).quads).map s.viewQuad ++ (wholeTiles (s.getWork w).quads).map s.viewTile)

/-- A member panel of the hall cell, its frame as the hall counts frames (R40, R62). -/
def State.viewMember (s : State) (p : Nat) : View :=
  if p = s.panelId then { s.viewPanel with frame := s.viewPanel.frame + s.fab.fofs }
  else
    let x := tget s.fab.peers p {}
    { active := x.exposed ≠ 0, state := x.state, reason := x.reason, frame := x.frame }

/-- The view of any cell. -/
def State.view (s : State) : CellId → View
  | .core n => s.viewCore n
  | .die d => s.viewDie d
  | .quad q => s.viewQuad q
  | .tile t => s.viewTile t
  | .panel => s.viewPanel
  | .work w => s.viewWork w
  | .hall => compose (s.getComp 505).reason (s.pmc.frame + s.fab.fofs) (s.hallPanels.map s.viewMember)

/-- The level code of R20. -/
def levelOf : CellId → Nat
  | .core _ => 0
  | .die _ => 1
  | .quad _ => 2
  | .tile _ => 3
  | .panel => 4
  | .work _ => 5
  | .hall => 6

/-- The index of R20; for the hall cell, the index it was formed with, 0x3FF in none. -/
def State.indexOf (s : State) : CellId → Nat
  | .core n => n
  | .die n => n
  | .quad n => n
  | .tile n => n
  | .panel => 0
  | .work n => n
  | .hall => s.fab.hallIndex.getD 0x3FF

/-- CCB_ID (R25, R40). -/
def State.ccbId (s : State) (cell : CellId) : W32 :=
  word [(levelOf cell, 28, 4),
    (match cell with
     | .hall => s.fab.hallMembers.foldl min s.panelId
     | _ => s.panelId, 16, 12), (s.indexOf cell, 0, 16)]

/-- CCB_ID of the panel cell of member panel `p` (R25). -/
def panelCellId (p : Nat) : W32 := word [(4, 28, 4), (p, 16, 12)]

/-- The CCB_ID form of a component: LEVEL 0x7 and its Contact Sheet row (R25). -/
def State.componentId (s : State) (row : Nat) : W32 := word [(7, 28, 4), (s.panelId, 16, 12), (row, 0, 16)]

/-- The cell that a CCB_ID of this panel names (R25); the hall cell by its own index. -/
def State.cellOfId (s : State) (w : W32) : Option CellId :=
  let n := w.toNat
  let i := bits n 0 16
  let c : Option CellId :=
    match bits n 28 4 with
    | 0 => some (.core i)
    | 1 => some (.die i)
    | 2 => some (.quad i)
    | 3 => some (.tile i)
    | 4 => if i = 0 then some .panel else none
    | 5 => some (.work i)
    | 6 => if s.fab.hallIndex = some i then some .hall else none
    | _ => none
  match c with
  | some c => if cellOk c && (bits n 16 12 = s.panelId || c = .hall) then some c else none
  | none => none

/-- A work or hall cell is configured (R43); every other cell is. -/
def State.configured (s : State) : CellId → Bool
  | .work w => !(s.getWork w).quads.isEmpty
  | .hall => s.fab.hallIndex.isSome
  | c => cellOk c

/-- The work cell that contains the whole of the quadrant, if any (R34). -/
def State.workOfQuad (s : State) (q : Nat) : Option Nat :=
  (s.pmc.work.find? fun e => e.2.quads.contains q).map (·.1)

/-- The work cell of which a tile is a member as a whole tile (R34). -/
def State.workOfTile (s : State) (t : Nat) : Option Nat :=
  (s.pmc.work.find? fun e => (tileQuads t).all fun q => e.2.quads.contains q).map (·.1)

/-- CCB_WORK_CELL (R34). -/
def State.workWord (s : State) (cell : CellId) : W32 :=
  let f (o : Option Nat) : W32 := match o with
    | some w => s.ccbId (.work w)
    | none => 0xFFFFFFFF
  match cell with
  | .core n => f (s.workOfQuad (coreQuad n))
  | .die d => f (s.workOfQuad (d / 3))
  | .quad q => f (s.workOfQuad q)
  | .tile t => f (s.workOfTile t)
  | .work w => if s.configured (.work w) && s.fab.hallIndex.isSome then s.ccbId .hall else 0xFFFFFFFF
  | _ => 0xFFFFFFFF

/-- The first core of a list, or the first active one (R40's head of built-in composites). -/
def State.pick (s : State) (l : List CellId) : Option CellId :=
  match l.find? s.active with
  | some c => some c
  | none => l.head?
def State.pickLast (s : State) (l : List CellId) : Option CellId := s.pick l.reverse

/-- The core a token to the cell reaches (R40): the head, level by level; of a bound work cell, the core at HEAD_POS or
TAIL_POS, which `byPlate` gives; the head of a work cell without a plate is its lowest-ID member, active or not. -/
def State.descend (s : State) (last : Bool) (byPlate : Nat → Option Nat) : Nat → CellId → Option Nat
  | 0, .core n => some n
  | 0, _ => none
  | k + 1, cell =>
    match cell with
    | .core n => some n
    | .work w =>
      match byPlate w with
      | some n => some n
      | none => (if last then s.pickLast (s.members cell) else (s.members cell).head?).bind (s.descend last byPlate k)
    | c => ((if last then s.pickLast else s.pick) (s.members c)).bind (s.descend last byPlate k)

end Sys2Proof.Machine
end

