-- ==== Sys2Proof/Machine/Plate.lean ====
section
/-! DEFINITION. The plate file: its words, sections and records (R221 to R237), and CRC-32C (R222). A plate stays
bytes in the store; every field is read from them. -/

namespace Sys2Proof.Machine

/-! ### CRC-32C (R222) -/

def crcBit (c : BitVec 32) : BitVec 32 := if c.getLsbD 0 then (c >>> 1) ^^^ 0x82F63B78 else c >>> 1
def crcBits (n : Nat) (c : BitVec 32) : BitVec 32 :=
  match n with
  | 0 => c
  | k + 1 => crcBits k (crcBit c)
def crcByte (c : BitVec 32) (b : Byte) : BitVec 32 := crcBits 8 (c ^^^ b.setWidth 32)
/-- CRC-32C of a byte string. -/
def crc32c (bs : List Byte) : W32 := ~~~ (bs.foldl crcByte 0xFFFFFFFF)

/-! ### Words and sections -/

/-- Word `i` of a byte string. -/
def plWord (img : List Byte) (i : Nat) : Nat := leNat ((img.drop (4 * i)).take 4)

/-- A section-table entry (R223). -/
structure Sec where
  type : Nat
  var : Nat
  reserved : Nat
  off : Nat
  len : Nat
  crc : Nat
  deriving DecidableEq, Repr

def plSec (img : List Byte) (i : Nat) : Sec :=
  let w := plWord img (16 + 4 * i)
  { type := bits w 24 8, var := bits w 16 8, reserved := bits w 0 16
    off := 64 * plWord img (17 + 4 * i), len := plWord img (18 + 4 * i), crc := plWord img (19 + 4 * i) }

def plNsec (img : List Byte) : Nat := bits (plWord img 2) 0 16
def plSecs (img : List Byte) : List Sec := (List.range (plNsec img)).map (plSec img)
def plTotal (img : List Byte) : Nat := plWord img 3 + 2 ^ 32 * bits (plWord img 4) 0 6

/-- The bytes of a section. -/
def secBytes (img : List Byte) (x : Sec) : List Byte := (img.drop x.off).take x.len

/-- The section of a type that serves a variant: its own, else that of VAR 0 (R224). -/
def plFind (img : List Byte) (type var : Nat) : Option Sec :=
  match (plSecs img).find? (fun x => x.type = type && x.var = var) with
  | some x => some x
  | none => (plSecs img).find? (fun x => x.type = type && x.var = 0)

/-- Word `w` of record `r` of a section whose records are `size` bytes. -/
def recWord (img : List Byte) (x : Sec) (size r w : Nat) : Nat := plWord img (x.off / 4 + r * (size / 4) + w)

/-- Word `w` of record `r` of the section of a type, 0 where there is none. -/
def plRec (img : List Byte) (type size r w : Nat) : Nat :=
  match plFind img type 0 with
  | some x => if (r + 1) * size ≤ x.len then recWord img x size r w else 0
  | none => 0

/-- How many records of `size` bytes the section of a type holds. -/
def plCount (img : List Byte) (type size : Nat) : Nat :=
  match plFind img type 0 with
  | some x => x.len / size
  | none => 0

/-! ### The header (R222) -/

def plId (img : List Byte) : Nat × Nat := (plWord img 5, plWord img 6)
def plS (img : List Byte) : Nat := bits (plWord img 8) 16 8
def plT (img : List Byte) : Nat := bits (plWord img 8) 0 15
def plW (img : List Byte) : Nat := bits (plWord img 9) 24 4
def plH (img : List Byte) : Nat := bits (plWord img 9) 20 4
def plCpq (img : List Byte) : Nat := bits (plWord img 9) 16 4
def plD (img : List Byte) : Nat := bits (plWord img 9) 8 8
def plNvar (img : List Byte) : Nat := bits (plWord img 9) 0 8
def plDrain (img : List Byte) : Nat := plWord img 10
def plHead (img : List Byte) : Nat := bits (plWord img 11) 16 16
def plTail (img : List Byte) : Nat := bits (plWord img 11) 0 16
/-- Positions: FP_W × FP_H × CPQ (R224). -/
def plPos (img : List Byte) : Nat := plW img * plH img * plCpq img

/-! ### POSITION and CADDY records (R225, R170) -/

def posWord (img : List Byte) (p w : Nat) : Nat := plRec img 0x01 32 p w
def posRouter (img : List Byte) (p : Nat) : Nat := bits (posWord img p 0) 0 3
def posBase (img : List Byte) (p : Nat) : Nat := bits (posWord img p 1) 0 18
def posLen (img : List Byte) (p : Nat) : Nat := bits (posWord img p 2) 0 15
def posMu (img : List Byte) (p : Nat) : Nat := bits (posWord img p 3) 0 20
def posHaz (img : List Byte) (p : Nat) : Bool := bitOf (posWord img p 4) 0
def posRate (img : List Byte) (p : Nat) : Nat := bits (posWord img p 5) 0 5
/-- Word `w` of Caddy entry `h` of position `p`. -/
def cadWord (img : List Byte) (p h w : Nat) : Nat := plRec img 0x02 4096 p (4 * h + w)
def cadOfPlate (img : List Byte) (p h : Nat) : Cad :=
  { w0 := BitVec.ofNat 32 (cadWord img p h 0), w1 := BitVec.ofNat 32 (cadWord img p h 1)
    w2 := BitVec.ofNat 32 (cadWord img p h 2), w3 := BitVec.ofNat 32 (cadWord img p h 3) }

/-! ### COST and VARIANT records (R237, R238) -/

def costWord (img : List Byte) (w : Nat) : Nat := plRec img 0x0C 64 0 w
def costCap (img : List Byte) : Nat := costWord img 1
def costNparam (img : List Byte) : Nat := bits (costWord img 0) 0 3

/-- The cost of a request with parameters P0 to P3 (R237). -/
def costOf (img : List Byte) (p : List Nat) : Nat :=
  let n := costNparam img
  let q (i : Nat) : Nat := if i < n then p.getD i 0 else 0
  max 1 (cdiv (costWord img 2 + costWord img 3 * q 0 + costWord img 4 * q 1 + costWord img 5 * q 2 +
    costWord img 6 * q 3 + costWord img 7 * (q 0 * q 1)) 65536)

/-- Whether a request keeps to R237: parameters within PMAX, unused ones 0, cost within CAP. -/
def costOk (img : List Byte) (p : List Nat) : Bool :=
  (List.range 4).all (fun i =>
    if i < costNparam img then p.getD i 0 ≤ costWord img (8 + i) else p.getD i 0 = 0) &&
  costOf img p ≤ costCap img

/-- RATIO, END_CYCLE and GUARD_NS of variant `v`, from 1 (R238). -/
def varRatio (img : List Byte) (v : Nat) : Nat := bits (plRec img 0x0D 32 (v - 1) 0) 0 5
def varEnd (img : List Byte) (v : Nat) : Nat := plRec img 0x0D 32 (v - 1) 1
def varGuard (img : List Byte) (v : Nat) : Nat := plRec img 0x0D 32 (v - 1) 2

/-- R239 with the Develop length `g` in ns: END_CYCLE × 16 / (RATIO × 2.5 GHz) + GUARD_NS ≤ G. -/
def varFits (img : List Byte) (g v : Nat) : Bool :=
  varEnd img v * 16 * 2 + varGuard img v * (varRatio img v * 5) ≤ g * (varRatio img v * 5)

/-! ### Records of varying length: SLOTS (R230), IMAGE (R228), CURRENT (R232) -/

/-- The offsets of the records of a section, each found from the length of the one before; `size` gives a record's
length with its padding from its first two words. -/
def recOffsets (img : List Byte) (size : Nat → Nat → Nat) (stop : Nat) : Nat → Nat → List Nat
  | 0, _ => []
  | k + 1, o =>
    if o + 8 ≤ stop then
      o :: recOffsets img size stop k (o + size (plWord img (o / 4)) (plWord img (o / 4 + 1)))
    else []

def pad64 (n : Nat) : Nat := cdiv n 64 * 64

/-- Offsets of the SLOTS records that serve variant `v`. -/
def slotsRecs (img : List Byte) (v : Nat) : List Nat :=
  match plFind img 0x06 v with
  | some x => recOffsets img (fun _ n => pad64 (8 + 4 * n)) (x.off + x.len) 1024 x.off
  | none => []

/-- Offsets of the IMAGE records of every IMAGE section. -/
def imageRecs (img : List Byte) : List Nat :=
  ((plSecs img).filter (·.type = 0x03)).flatMap fun x =>
    recOffsets img (fun n _ => pad64 (32 + n)) (x.off + x.len) (x.len / 64 + 1) x.off

/-- Offsets of the CURRENT records that serve variant `v`; a record is 8 bytes and 8 for each step. -/
def currentRecs (img : List Byte) (v : Nat) : List Nat :=
  match plFind img 0x08 v with
  | some x => recOffsets img (fun w _ => 8 + 8 * bits w 0 16) (x.off + x.len) 128 x.off
  | none => []

/-- PEAK of plate quadrant (qx, qy) in variant `v`, in 5 A units (R232). -/
def curPeak (img : List Byte) (v qx qy : Nat) : Nat :=
  match (currentRecs img v).find? fun o =>
      bits (plWord img (o / 4)) 24 4 = qx && bits (plWord img (o / 4)) 20 4 = qy with
  | some o => bits (plWord img (o / 4 + 1)) 16 16
  | none => 0

/-- The steps of a CURRENT record: CYCLE and DELTA. -/
def curSteps (img : List Byte) (o : Nat) : List (Nat × Int) :=
  (List.range (bits (plWord img (o / 4)) 0 16)).map fun i =>
    (plWord img (o / 4 + 2 + 2 * i), toSigned 8 (bits (plWord img (o / 4 + 3 + 2 * i)) 0 8))

/-- The largest current, in 5 A units, that the profile of plate quadrant (qx, qy) still reaches from cycle `now` to `stop` (R232, R344). -/
def curReach (img : List Byte) (v qx qy now stop : Nat) : Nat :=
  match (currentRecs img v).find? fun o =>
      bits (plWord img (o / 4)) 24 4 = qx && bits (plWord img (o / 4)) 20 4 = qy with
  | some o =>
    let base : Int := (bits (plWord img (o / 4 + 1)) 0 16 : Nat)
    let r := (curSteps img o).foldl (fun (r : Int × Int) e =>
      if stop ≤ e.1 then r
      else
        let cur := r.1 + e.2
        (cur, if e.1 ≤ now then cur else max r.2 cur)) (base, base)
    r.2.toNat
  | none => 0

/-- MEMTIME records (R233): unit reference, RFR_TAX, QUIET_EVERY, QUIET_PHASE. -/
def memtimes (img : List Byte) : List (Nat × Nat × Nat × Nat) :=
  (List.range (plCount img 0x09 16)).map fun i =>
    (bits (plRec img 0x09 16 i 0) 16 16, bits (plRec img 0x09 16 i 1) 0 16, bits (plRec img 0x09 16 i 2) 16 16,
      bits (plRec img 0x09 16 i 2) 0 16)

/-- SLICE records (R235): KIND, INDEX, IN_UNITS, OUT_UNITS. -/
def slices (img : List Byte) : List (Nat × Nat × Nat × Nat) :=
  (List.range (plCount img 0x0A 16)).map fun i =>
    (bits (plRec img 0x0A 16 i 0) 28 4, bits (plRec img 0x0A 16 i 0) 0 5, plRec img 0x0A 16 i 1, plRec img 0x0A 16 i 2)

/-- REGION records (R227): unit reference, SHARED, WRITES, OFFSET, LENGTH. -/
def regions (img : List Byte) : List (Nat × Bool × Bool × Nat × Nat) :=
  (List.range (plCount img 0x04 32)).map fun i =>
    let w (j : Nat) : Nat := plRec img 0x04 32 i j
    (bits (w 0) 16 16, bitOf (w 0) 1, bitOf (w 0) 0, w 2 + 2 ^ 32 * w 3, w 4 + 2 ^ 32 * w 5)

/-! ### The plate a work cell holds -/

/-- The image of a store slot. -/
def State.plate (s : State) (slot : Nat) : List Byte := (tget s.pmc.store slot { image := [], keySlot := 0 }).image

/-- The plate bound to a work cell. -/
def State.boundPlate (s : State) (w : Nat) : Option (List Byte) := (s.getWork w).bound.map fun b => s.plate b.slot

/-- The core at a position of the plate bound to a work cell. -/
def State.coreAtPos (s : State) (w p : Nat) : Option Nat := (s.getWork w).bound.bind fun b => b.place[p]?

/-- The core at HEAD_POS, and at TAIL_POS, of the plate bound to a work cell (R222). -/
def State.headCore (s : State) (w : Nat) : Option Nat :=
  (s.boundPlate w).bind fun img => s.coreAtPos w (plHead img)
def State.tailCore (s : State) (w : Nat) : Option Nat :=
  (s.boundPlate w).bind fun img => s.coreAtPos w (plTail img)

/-- The head and the tail member of the hall cell (R40): its lowest-ID panel, and its highest-ID active one. -/
def State.hallHead (s : State) : Option Nat := s.hallPanels.head?
def State.hallTail (s : State) : Option Nat :=
  let l := s.hallPanels.reverse
  (l.find? fun p => (s.viewMember p).active).or l.head?

/-- The core of this panel that a token written to a cell reaches (R40). -/
def State.head (s : State) (cell : CellId) : Option Nat :=
  if cell = .hall && s.hallHead ≠ some s.panelId then none else s.descend false s.headCore 6 cell
/-- The core of this panel whose TOKEN_OUT a cell shows (R40). -/
def State.tail (s : State) (cell : CellId) : Option Nat :=
  if cell = .hall && s.hallTail ≠ some s.panelId then none else s.descend true s.tailCore 6 cell

/-- Coordinates of a quadrant on the 12 × 8 grid: the work cell's south-west quadrant at (OX, OY) of the 12 × 8 grid (R242). -/
def quadXY (q : Nat) : Nat × Nat := (q / 4 % 6 * 2 + q % 2, q / 4 / 6 * 2 + q % 4 / 2)
def quadAt (x y : Nat) : Nat := (y / 2 * 6 + x / 2) * 4 + (y % 2 * 2 + x % 2)

/-- The south-west corner of a work cell's quadrants (R242). -/
def swCorner (quads : List Nat) : Nat × Nat :=
  ((quads.map fun q => (quadXY q).1).foldl min 12, (quads.map fun q => (quadXY q).2).foldl min 8)

/-- The panel quadrant of plate quadrant (qx, qy) in a work cell of these quadrants. -/
def placeQuad (quads : List Nat) (qx qy : Nat) : Nat :=
  let o := swCorner quads
  quadAt (o.1 + qx) (o.2 + qy)

/-- The stack, or reservoir die, that a unit reference of UTYPE 0x1 or 0x2 names (R226). -/
def refDie (quads : List Nat) (ref : Nat) : Nat :=
  placeQuad quads (bits ref 8 4) (bits ref 4 4) / 4 * 2 + ref % 2

/-- The base of the unit that a reference names (R226): stack, window, or the scratch of a position. -/
def refBase (quads : List Nat) (place : List Nat) (ref : Nat) : Nat :=
  match bits ref 12 4 with
  | 1 => stackAddr (refDie quads ref) 0
  | 2 => winBase (refDie quads ref)
  | _ => scratchAddr (place.getD (bits ref 0 12) 0) 0

/-- The plates bound, with their work cells. -/
def State.bounds (s : State) : List (Nat × List Byte) :=
  s.pmc.work.filterMap fun e => e.2.bound.map fun b => (e.1, s.plate b.slot)

/-- The MEMTIME records of the bound plates that name a stack (R261): QUIET_EVERY and QUIET_PHASE. -/
def State.declared (s : State) (h : Nat) : List (Nat × Nat) :=
  s.bounds.flatMap fun e => ((memtimes e.2).filter fun m => refDie (s.getWork e.1).quads m.1 = h).map fun m => (m.2.2.1, m.2.2.2)

/-- The frame is quiet for a stack (R233, R261). -/
def State.quietFrame (s : State) (h : Nat) (f : W64) : Bool :=
  (s.declared h).any fun m => m.1 ≠ 0 && f.toNat % m.1 = m.2

end Sys2Proof.Machine
end

