-- ==== Sys2Proof/Machine/Events.lean ====
section
/-! DEFINITION. What the panel writes to the host: Completion Ring entries (R320, R322), events (R328) and answers
(R323). -/

namespace Sys2Proof.Machine

/-- The base-branch cycle in which core cycle `x` of core `n` falls. -/
def State.baseCycle (s : State) (n x : Nat) : Nat := 16 * x / max 1 (s.getQuad (coreQuad n)).ratio

/-- The base-branch cycle that the frame's events have reached (log entry 12). -/
def State.nowBase (s : State) : Nat := s.core.foldl (fun a e => max a (s.baseCycle e.1 e.2.seq.now)) s.mesh.cycle

/-- The panel's time in cycles of 0.4 ns: the timebase, and how far the frame's events have come (R48; log entry 12). -/
def State.nowCycles (s : State) : Nat := 2 * s.pmc.timebase.toNat + s.nowBase

/-- Entries a ring holds, and its free entries: a ring holds SIZE − 1 (R311). -/
def Site.cSize (g : Site) : Nat := 2 ^ g.cLog
def Site.cUsed (g : Site) : Nat := (g.cTail + g.cSize - g.cHead) % g.cSize
def Site.cFree (g : Site) : Nat := if g.ringsSet then g.cSize - 1 - g.cUsed else 0

/-- A Completion Ring entry's 16 words, PHASE left at 0 (R322). -/
def ringEntry (kind answer reason wcell cls w1 w2 : Nat) (frame : W64) (flags w6 w7 aindex : Nat) (admitted : W64)
    (status : Nat) : List W32 :=
  [word [(kind, 28, 3), (answer, 24, 4), (reason, 16, 8), (wcell, 8, 7), (cls, 0, 3)],
    BitVec.ofNat 32 w1, BitVec.ofNat 32 w2, frame.setWidth 32, (frame >>> 32).setWidth 32, word [(flags, 0, 3)],
    BitVec.ofNat 32 w6, BitVec.ofNat 32 w7, word [(aindex, 0, 16)], admitted.setWidth 32,
    (admitted >>> 32).setWidth 32, word [(status, 0, 16)], 0, 0, 0, 0]

/-- MSI-X vector 1 of a site is due: it fires unless it has fired within the last 1 µs, else it stays due (R311). -/
def Site.fireVector (now : Nat) (g : Site) : Site :=
  let soon : Bool := match g.msixAt with
    | some t => t ≤ now && now < t + 2500
    | none => false
  if soon then { g with msixDue := true } else { g with msix := g.msix ++ [1], msixAt := some now, msixDue := false }

/-- A vector that is still due fires once its time has come. -/
def State.fireVectors (s : State) : State :=
  [0, 1].foldl (fun (s : State) g => if (s.getSite g).msixDue then s.modSite g (Site.fireVector s.nowCycles) else s) s

/-- The Host Gate writes one entry at TAIL with the PHASE of the pass (R320). -/
def State.ringPut (s : State) (site : Nat) (e : List W32) : State :=
  let g := s.getSite site
  let ws := match e with
    | [] => []
    | w :: r => (if g.cPhase then w ||| 0x80000000 else w) :: r
  let s := s.winWrite site (g.cOff + 64 * g.cTail) (wordBytes ws)
  s.modSite site fun g => Site.fireVector s.nowCycles { g with
    cTail := (g.cTail + 1) % g.cSize
    cPhase := if g.cTail + 1 = g.cSize then !g.cPhase else g.cPhase }

/-- An answer: written where the ring has room, else held; answers are never dropped (R322, R323). -/
def State.answerOut (s : State) (site : Nat) (e : List W32) : State :=
  let g := s.getSite site
  if g.cFree ≠ 0 ∧ g.state = 3 ∧ g.held.isEmpty then s.ringPut site e
  else s.modSite site fun g => { g with held := g.held ++ [e] }

/-- Held answers are written while the ring has room. -/
def State.flushHeld (s : State) (site : Nat) : Nat → State
  | 0 => s
  | k + 1 =>
    let g := s.getSite site
    match g.held with
    | [] => s
    | e :: r =>
      if g.cFree ≠ 0 ∧ g.state = 3 then
        ((s.setSite site { g with held := r }).ringPut site e).flushHeld site k
      else s

/-- One site's copy of an event (R322): masked, written, or dropped and counted. A ring exists only in FULL, so it has no free entry in
another state; a site that is OFF or ABSENT has none at all (R309: log entry 137). -/
def State.eventAt (s : State) (code : Nat) (e : List W32) (site : Nat) : State :=
  let g := s.getSite site
  if !s.pmc.mask.getLsbD code || g.state = 0 || g.state = 5 then s
  else if g.cFree ≠ 0 ∧ g.state = 3 then s.ringPut site e
  else s.setSite site { g with dropEvt := sat 0x7FF (g.dropEvt + 1) }

/-- An event to the Completion Rings of some sites, and as a PlatformEventMessage (R416). -/
def State.eventOn (s : State) (sites : List Nat) (code : Nat) (subject : W32) (d6 d7 : Nat) : State :=
  let e := ringEntry 2 0 0 0 0 code subject.toNat s.pmc.frame 0 d6 d7 0 0 0
  let s := sites.foldl (fun (s : State) g => s.eventAt code e g) s
  { s with pins := { s.pins with pldm := s.pins.pldm ++ [e] } }

/-- An event (R328): to both sites' Completion Rings. -/
def State.event (s : State) (code : Nat) (subject : W32) (d6 d7 : Nat) : State := s.eventOn [0, 1] code subject d6 d7

/-- The event codes of R328. -/
def evHallUnlock : Nat := 1
def evCooling : Nat := 2
def evQuota : Nat := 3
def evCellState : Nat := 4
def evLink : Nat := 5
def evStack : Nat := 6
def evSiteDown : Nat := 7
def evDecision : Nat := 8
def evFw : Nat := 9
def evDerated : Nat := 10
def evDoorbell : Nat := 11

/-- CCB_STATE as a word (R26). -/
def View.word (v : View) : W32 := Machine.word [(v.reason, 16, 16), (v.state.code, 0, 4)]

/-- A CELL_STATE event of a cell. -/
def State.cellEvent (s : State) (cell : CellId) : State :=
  s.event evCellState (s.ccbId cell) (s.view cell).word.toNat 0

/-- Answer and reason codes (R323). -/
def ansAdmitted : Nat := 1
def ansDeferred : Nat := 2
def ansRefused : Nat := 3
def ansDelivered : Nat := 4
def ansRetried : Nat := 5
def ansLost : Nat := 6
def whyQuota : Nat := 0x01
def whyQueueFull : Nat := 0x02
def whyCellDown : Nat := 0x03
def whyInvalid : Nat := 0x04
def lostNoReserve : Nat := 0x11
def lostRetry : Nat := 0x12
def lostHold : Nat := 0x13
def lostNoResult : Nat := 0x14
def lostSiteDown : Nat := 0x15
def lostReset : Nat := 0x16

/-- The fields of an Admission Ring entry (R321). -/
def Req.w (q : Req) (i : Nat) : Nat := (q.words.getD i 0).toNat
def Req.wcell (q : Req) : Nat := bits (q.w 0) 8 7
def Req.cls (q : Req) : Nat := bits (q.w 0) 0 3
def Req.params (q : Req) : List Nat := [q.w 3, q.w 4, q.w 5, q.w 6]
def Req.argOff (q : Req) : Nat := q.w 7 + 2 ^ 32 * q.w 8
def Req.argLen (q : Req) : Nat := q.w 9
def Req.resOff (q : Req) : Nat := q.w 10 + 2 ^ 32 * q.w 11
def Req.resCap (q : Req) : Nat := q.w 12

/-- A first answer (R323). -/
def State.firstAnswer (s : State) (q : Req) (answer reason : Nat) (frame : W64) (status : Nat) : State :=
  s.answerOut q.site
    (ringEntry 1 answer reason q.wcell q.cls (q.w 1) (q.w 2) frame 0 0 q.cost q.aindex 0 status)

/-- A final answer (R323): `bytes` written, `trunc` when cut to RES_CAP. LOST carries no DELIVERED_LATE (R54). -/
def State.finalAnswer (s : State) (q : Req) (answer reason bytes : Nat) (trunc : Bool) : State :=
  let late := q.late && answer ≠ ansLost
  s.answerOut q.site
    (ringEntry 1 answer reason q.wcell q.cls (q.w 1) (q.w 2) s.pmc.frame
      (b2n trunc * 4 + b2n (q.clip && answer ≠ ansLost) * 2 + b2n late) bytes q.cost q.aindex q.admitF 0)

/-- Every request of a list ends LOST for a reason. -/
def State.lose (s : State) (l : List Req) (why : Nat) : State :=
  l.foldl (fun s q => s.finalAnswer q ansLost why 0 false) s

/-- The admitted requests of a work cell without a final answer end LOST. -/
def State.loseOut (s : State) (w why : Nat) : State :=
  (s.modWork w fun c => { c with out := [] }).lose (s.getWork w).out why

/-- The queued requests of a work cell end LOST. -/
def State.loseQueued (s : State) (w why : Nat) : State :=
  let c := s.getWork w
  (s.setWork w { c with cls := c.cls.map fun e => (e.1, { e.2 with queue := [] }) }).lose
    (c.cls.flatMap fun e => e.2.queue) why

end Sys2Proof.Machine
end

