-- ==== Sys2Proof/Machine/Net.lean ====
section
/-! DEFINITION. The control network (R209 to R213): its nodes and routes, the header of a message, and the messages that are
under way. -/

namespace Sys2Proof.Machine

/-! ### Nodes (R209) -/

/-- Node IDs other than those of the quadrants. -/
def nodeFio (n : Nat) : Nat := 0x080 + n
def nodeGate (n : Nat) : Nat := 0x090 + n
def nodePmc : Nat := 0x0A0
def nodeAll : Nat := 0x3FF

/-- The node ID of a node that fires the Shutter. -/
def nodeId : Node → Nat
  | .quad q => q
  | .fio n => nodeFio n
  | .gate g => nodeGate g

/-- The quadrant node at which a node's messages enter the grid: its own, or the edge node nearest a die. Of the two nodes that
lie equally near a Fabric I/O die or a Host Gate it is the one of the lower ID: DESIGN CHOICE, log entry 111. -/
def nodeQuad (id : Nat) : Nat :=
  if id < 0x60 then id
  else if id = nodeFio 0 then quadAt 2 0 else if id = nodeFio 1 then quadAt 2 7
  else if id = nodeFio 2 then quadAt 8 0 else if id = nodeFio 3 then quadAt 8 7
  else if id = nodeFio 4 then quadAt 4 0 else if id = nodeFio 5 then quadAt 4 7
  else if id = nodeFio 6 then quadAt 6 0 else if id = nodeFio 7 then quadAt 6 7
  else if id = nodeGate 0 then quadAt 0 3 else if id = nodeGate 1 then quadAt 11 3
  else 0

/-- The node through which a unit's messages enter (R209). -/
def unitNode : UnitId → Nat
  | .core n => coreQuad n
  | .res r => quadAt (2 * (r / 2 % 6) + r % 2) (2 * (r / 2 / 6))
  | .fio n => nodeFio n
  | .gate g => nodeGate g
  | .mgmt => nodePmc

/-- The links that a message crosses from one quadrant node to another, x first: the node it leaves and the link, 0 N, 1 S,
2 E, 3 W. -/
def ctlHops (a b : Nat) : List (Nat × Nat) :=
  let p := quadXY a
  let q := quadXY b
  (if p.1 ≤ q.1 then (List.range (q.1 - p.1)).map fun i => (quadAt (p.1 + i) p.2, 2)
    else (List.range (p.1 - q.1)).map fun i => (quadAt (p.1 - i) p.2, 3)) ++
  (if p.2 ≤ q.2 then (List.range (q.2 - p.2)).map fun i => (quadAt q.1 (p.2 + i), 0)
    else (List.range (p.2 - q.2)).map fun i => (quadAt q.1 (p.2 - i), 1))

/-- The node at the other end of a link, and the link as that node numbers it. -/
def ctlMate (q d : Nat) : Option (Nat × Nat) :=
  let p := quadXY q
  match d with
  | 0 => if p.2 < 7 then some (quadAt p.1 (p.2 + 1), 1) else none
  | 1 => if 0 < p.2 then some (quadAt p.1 (p.2 - 1), 0) else none
  | 2 => if p.1 < 11 then some (quadAt (p.1 + 1) p.2, 3) else none
  | 3 => if 0 < p.1 then some (quadAt (p.1 - 1) p.2, 2) else none
  | _ => none

/-- No link on the way has lost both its wire sets (R213). -/
def State.reaches (s : State) (src dest : Nat) : Bool :=
  (ctlHops (nodeQuad src) (nodeQuad dest)).all fun h => !(s.getQuad h.1).cut.getLsbD h.2

/-! ### Time -/

/-- The Develop length G in ns (R239, R59). -/
def State.develop (s : State) : Nat := (s.pmc.t - s.pmc.s) * 1000 - (if s.fab.hallIndex.isSome then 2000 else 0)

/-- The core cycle of the Develop deadline in quadrant `q`: stretching takes a ninth of its time from the core branch (R363). -/
def State.deadlineCycle (s : State) (q : Nat) : Nat :=
  (9 * s.develop - 10 * s.clk.used) * 5 * (s.getQuad q).ratio / 288

/-- The core cycle in which base-branch cycle `x` of core `n`'s quadrant falls (R353, R354). -/
def State.coreCycle (s : State) (n x : Nat) : Nat := cdiv (x * (s.getQuad (coreQuad n)).ratio) 16

/-- The core cycle of core `n` that the frame's events have reached (log entry 12). -/
def State.coreNow (s : State) (n : Nat) : Nat := max (s.getCore n).seq.now (s.coreCycle n s.nowBase)

/-! ### Messages (R210, R211) -/

/-- The message types. -/
def tyShutterArm : Nat := 0x1
def tyHeartbeat : Nat := 0x2
def tyFault : Nat := 0x3
def tyBarrier : Nat := 0x4
def tySignal : Nat := 0x5
def tyAck : Nat := 0x6
def tyToken : Nat := 0x7
def tyNotice : Nat := 0x8
def tyMgmt : Nat := 0x9
def tyFw : Nat := 0xA

/-- The header word: TYPE, DEST, SRC, LEN. -/
def Msg.header (m : Msg) : W32 := word [(m.type, 28, 4), (m.dest, 18, 10), (m.src, 8, 10), (m.body.length, 5, 3)]

/-- The words of a message. -/
def Msg.words (m : Msg) : List W32 := m.header :: m.body

/-- The message that a header and its payload spell: types 0x0 and 0xB to 0xF are discarded at the first node, and one whose
reserved bits are not zero is rejected (R9). -/
def Msg.parse (ws : List W32) : Option Msg :=
  match ws with
  | [] => none
  | h :: r =>
    let t := bits h.toNat 28 4
    if t = 0 || 0xB ≤ t || bits h.toNat 0 5 ≠ 0 || r.length ≠ bits h.toNat 5 3 then none
    else some { type := t, dest := bits h.toNat 18 10, src := bits h.toNat 8 10, body := r }

/-- The priority class of a type (R211, R212). -/
def msgClass (type : Nat) : Nat := if type = tyShutterArm then 0 else if type = tyMgmt || type = tyFw then 2 else 1

/-- A message enters the network; it is lost where its way crosses a link that has failed (R213). -/
def State.post (s : State) (type dest src : Nat) (body : List W32) : State :=
  match Msg.parse ({ type := type, dest := dest, src := src, body := body : Msg }).words with
  | some m => if s.reaches src dest then s.modMesh fun x => { x with net := x.net ++ [m] } else s
  | none => s

/-- The first message under way that `p` accepts. -/
def State.underWay (s : State) (p : Msg → Bool) : Option Msg := s.mesh.net.find? p

/-- No message but a SHUTTER_ARM is under way across a Shutter (R56). -/
def drained (l : List Msg) : List Msg := l.filter fun m => m.type = tyShutterArm

/-- That message is received. -/
def State.received (s : State) (p : Msg → Bool) : State :=
  match s.mesh.net.findIdx? p with
  | some i => s.modMesh fun x => { x with net := x.net.eraseIdx i }
  | none => s

/-- A class 1 message that arrives later than 150 ns after it left counts at its quadrant node (R212, R219). -/
def State.ctlLate (s : State) (q : Nat) (late : Bool) : State :=
  if late then s.modQuad q fun x => { x with ctlLate := sat 0xFFFF (x.ctlLate + 1) } else s

/-- In the drain an item leaves a unit of quadrant `q` in base-branch cycle `c` (R65). -/
def State.itemAt (s : State) (q c : Nat) : State :=
  if s.pmc.point = 4 then s.modQuad q fun x => { x with lastItem := max x.lastItem c } else s

/-! ### Payloads

R211 says what each payload carries and not where in it: DESIGN CHOICE, log entry 112. -/

/-- SIGNAL: target core; semaphore and increment. -/
def signalBody (core sem inc : Nat) : List W32 := [BitVec.ofNat 32 core, word [(inc, 16, 16), (sem, 0, 9)]]

/-- DMA_ACK: status (0 acknowledges), the stream of the transfer, whether a PUT, the slot of the core, the place of the destination at its node. -/
def ackBody (status stream : Nat) (put : Bool) (slot place : Nat) : W32 :=
  word [(status, 16, 16), (stream, 10, 6), (b2n put, 9, 1), (slot, 4, 3), (place, 0, 4)]

/-- NOTICE: core within its quadrant, DELTA and effective lead. -/
def noticeBody (core : Nat) (delta : Int) (lead : Nat) : W32 := word [(core, 20, 10), (ofSigned 8 delta, 12, 8), (lead, 0, 12)]

end Sys2Proof.Machine
end

