-- ==== Sys2Proof/Machine/Faults.lean ====
section
/-! DEFINITION. Faults and what they do to cells: raising a CCB_FAULT bit (R31, R32, R52), component faults (R22,
R40), voiding a frame (R400), stopping a core (R78), semaphores (R174) and tokens (R33 to R36). -/

namespace Sys2Proof.Machine

/-! ### First fault of a composite (R32) -/

/-- The composites above a core with their direct member on the way (R20). -/
def State.above (s : State) (n : Nat) : List (CellId × CellId) :=
  let t := coreTile n
  let q := coreQuad n
  [(.die (coreDie n), .core n), (.quad q, .die (coreDie n)), (.tile t, .quad q), (.panel, .tile t)] ++
    (match s.workOfQuad q with
     | some w => [(.work w, if (wholeTiles (s.getWork w).quads).contains t then .tile t else .quad q)]
     | none => []) ++
    (if s.fab.hallIndex.isSome then [(.hall, .panel)] else [])

/-- The composites that a component of a tile reports to, and of the panel (R22). -/
def State.aboveTile (s : State) (t : Nat) : List (CellId × CellId) :=
  [(.panel, .tile t)] ++
    (match s.workOfTile t with
     | some w => [(.work w, .tile t)]
     | none => []) ++
    (if s.fab.hallIndex.isSome then [(.hall, .panel)] else [])

/-- `s` after a change from `s0`: a composite whose CCB_FAULT went from zero to non-zero latches the member that set
it and the frame (R32). -/
def State.latch (s s0 : State) (l : List (CellId × W32)) : State :=
  l.foldl (fun s e =>
    if s0.faultOf e.1 = 0 ∧ s.faultOf e.1 ≠ 0 then
      s.modComp (compEntry e.1) fun c => { c with first := e.2, firstFrame := s.frame32 }
    else s) s

/-- Ids in place of members. -/
def State.ids (s : State) (l : List (CellId × CellId)) : List (CellId × W32) := l.map fun e => (e.1, s.ccbId e.2)

/-! ### Void frames (R400) -/

/-- The frame is void for a work cell that has a plate. -/
def State.voidFrame (s : State) (w : Nat) : State :=
  s.modWork w fun c => if c.bound.isSome then { c with void := some s.pmc.frame } else c

/-- The work cells whose frame a fault of core `n` voids: the one that holds it, and the one whose position it fills
(R397: a borrowed core). -/
def State.worksOf (s : State) (n : Nat) : List Nat :=
  ((s.workOfQuad (coreQuad n)).toList ++ ((s.getCore n).position.map (·.1)).toList).eraseDups

/-- The state a cell takes when a fault bit sets (R52, R406). A cell that is OFF, DARK, in HOLD, RETIRED or already
RESETTING keeps its state: DEDUCED, log entry 10. -/
def faultState (bit : Nat) (st : CellState) : CellState :=
  if bit = fLate then st
  else if bit = fReset then .resetting
  else match st with
    | .starting | .ready | .running | .degraded => .faulted
    | _ => st

/-- A CCB_FAULT bit of core `n` sets. -/
def Ccb.raise (c : Ccb) (id : W32) (frame : W32) (bit : Nat) : Ccb :=
  let st := faultState bit c.state
  { c with
    fault := c.fault ||| faultBit bit
    first := if c.fault = 0 then id else c.first
    firstFrame := if c.fault = 0 then frame else c.firstFrame
    state := st
    former := if st = c.state then c.former else if c.state = .faulted then c.former else c.state }

/-- R31, R32: a fault bit sets in core `n`; the composites above latch. -/
def State.setFault (s : State) (n bit : Nat) : State :=
  let c := s.getCore n
  (s.setCore n { c with ccb := c.ccb.raise (s.ccbId (.core n)) s.frame32 bit }).latch s (s.ids (s.above n))

/-- R52: a fault bit sets in core `n`; the frame is void for the work cell of an exposed core that enters FAULTED or RESETTING. -/
def State.fault (s : State) (n bit : Nat) : State :=
  let c := s.getCore n
  let s2 := s.setFault n bit
  let st := faultState bit c.ccb.state
  if bit ≠ fLate ∧ (c.exposed || c.position.isSome) ∧ (st = .faulted || st = .resetting) then
    s2.each (s.worksOf n) State.voidFrame
  else s2

/-- Of the members of a composite whose faults came in one control-network cycle, from `s0` on, it names the one whose CCB_ID is
lowest (R32); a composite that comes to hold a member with a fault names it too. -/
def State.relatch (s s0 : State) (l : List CellId) : State :=
  l.foldl (fun s c =>
    if s0.faultOf c = 0 ∧ s.faultOf c ≠ 0 then
      match (s.members c).find? fun m => s.active m && s.faultOf m ≠ 0 with
      | some m => s.modComp (compEntry c) fun k => { k with first := s.ccbId m, firstFrame := s.frame32 }
      | none => s
    else s) s

/-- Fault bits set in cores in one control-network cycle: core and bit (R32). -/
def State.faultEach (s : State) (l : List (Nat × Nat)) : State :=
  (l.foldl (fun s e => s.fault e.1 e.2) s).relatch s ((l.flatMap fun e => (s.above e.1).map (·.1)).eraseDups)

/-- A fault bit sets in every core of a list. -/
def State.faultAll (s : State) (l : List Nat) (bit : Nat) : State := s.faultEach (l.map fun n => (n, bit))

/-- Bits whose condition stands (R39, R58). -/
def State.hold (s : State) (n bit : Nat) : State :=
  s.modCore n fun c => { c with ccb := { c.ccb with holding := c.ccb.holding ||| faultBit bit } }
def State.release (s : State) (n bit : Nat) : State :=
  s.modCore n fun c => { c with ccb := { c.ccb with holding := c.ccb.holding &&& ~~~ faultBit bit } }

/-- A component of a tile reports a fault: COMPONENT sets in the tile's cell (R22, R40). -/
def State.componentTile (s : State) (t row : Nat) : State :=
  (s.modComp (384 + t) fun c => { c with fault := c.fault ||| faultBit fComponent }).latch s
    ((.tile t, s.componentId row) :: s.ids (s.aboveTile t))

/-- A perimeter die or the management die reports a fault: COMPONENT sets in the panel cell (R22). -/
def State.componentPanel (s : State) (row : Nat) : State :=
  (s.modComp 408 fun c => { c with fault := c.fault ||| faultBit fComponent }).latch s
    ((.panel, s.componentId row) :: (if s.fab.hallIndex.isSome then [(.hall, s.ccbId .panel)] else []))

/-- The tile to which the item of a row reports, if it is a component of a tile (R22, R391). -/
def rowTileOf (r : Nat) : Option Nat :=
  if 864 ≤ r ∧ r < 888 then some (r - 864)
  else if 888 ≤ r ∧ r < 936 then some ((r - 888) / 2)
  else if 936 ≤ r ∧ r < 984 then some ((r - 936) / 2)
  else if 1048 ≤ r ∧ r < 1528 then some ((r - 1048) / 20)
  else if 1528 ≤ r ∧ r < 6808 then some ((r - 1528) / 220)
  else if 6996 ≤ r ∧ r < 7956 then some ((r - 6996) / 40)
  else if 7956 ≤ r ∧ r < 8004 then some ((r - 7956) / 2)
  else if 8004 ≤ r ∧ r < 8052 then some ((r - 8004) / 2)
  else none

/-- The item of a row reports a fault to the cell it belongs to. -/
def State.component (s : State) (row : Nat) : State :=
  match rowTileOf row with
  | some t => s.componentTile t row
  | none => s.componentPanel row

/-- A row takes a fault state and its item reports the fault. -/
def State.rowFault (s : State) (row st why : Nat) : State := (s.rowState row st why).component row

/-! ### Semaphores (R173, R174) -/

/-- An increment arrives at a semaphore of core `n`. The increments of one cycle are one sum, which stops at 65,535 once. -/
def State.semAdd (s : State) (n sem inc : Nat) : State :=
  let c := s.getCore n
  let v := tget c.scr.sem sem 0 + inc
  let s1 := s.setCore n { c with scr := { c.scr with sem := tset c.scr.sem sem (sat 65535 v) 0 } }
  if v ≤ 65535 then s1
  else if c.scr.satAt = some (sem, c.seq.now) then s1
  else
    ((s1.modCore n fun c => { c with scr := { c.scr with satAt := some (sem, c.seq.now) } }).countCore n 0x0548 1).fault n fOverrun

/-- The completion signal of word 15 (R80): SIG_EN, SIG_SEM, SIG_INC, to this core. -/
def State.signal (s : State) (n : Nat) (w15 : Nat) : State :=
  if bitOf w15 31 && !bitOf w15 30 then s.semAdd n (bits w15 16 9) (bits w15 0 8) else s

/-! ### Bit errors (R160, R256, R396) -/

/-- An uncorrectable error in core `n`: ECC sets; the second within 1,024 frames makes the core failed (R396). -/
def State.uncorrected (s : State) (n : Nat) : State :=
  let f := s.pmc.frame
  let s := s.modCore n fun c =>
    let l := c.ueFrames.filter fun g => (f - g).toNat < 1024
    { c with ueFrames := l ++ [f], failed := if l.isEmpty then c.failed else c.failed.or (some 0x28) }
  s.fault n fEcc

/-- A read of scratch meets an error in word `i` of core `n` (R160): a single-bit one is corrected, and the row not rewritten. -/
def State.meetScratch (s : State) (n i : Nat) (double : Bool) : State :=
  if double then
    (s.modCore n fun c => { c with scr := { c.scr with
      ue := sat 15 (c.scr.ue + 1), eccWord := i, badUnits := nadd c.scr.badUnits i } }).uncorrected n
  else s.modCore n fun c => { c with scr := { c.scr with ce := sat 0xFFFF (c.scr.ce + 1) } }

/-- The line, channel and place in it of a stack offset (R253). -/
def hbmLine (o : Nat) : Nat := o / 256
def hbmSector (o : Nat) : Nat := o % 256 / 32
/-- The pseudo-channel, 0 to 31: the channel's number is half of it. -/
def hbmPc (o : Nat) : Nat := (hbmLine o % 32) ^^^ (hbmLine o / 1024 % 32)
def hbmChannel (o : Nat) : Nat := hbmPc o / 2
/-- The line within the page, the bank, the stack ID and the row. -/
def hbmPageLine (o : Nat) : Nat := hbmLine o / 32 % 4
def hbmBank (o : Nat) : Nat := hbmLine o / 32 / 4 % 16
def hbmSid (o : Nat) : Nat := hbmLine o / 32 / 64 % 4
def hbmRow (o : Nat) : Nat := hbmLine o / 32 / 256

/-- The number of a page: pseudo-channel, bank, stack ID and row (the packing: log entry 134). Its 1 KiB is 4 lines, 8 KiB apart. -/
def hbmPage (o : Nat) : Nat := ((hbmRow o * 4 + hbmSid o) * 16 + hbmBank o) * 32 + hbmPc o

/-- A sector of a stack reads a double-bit error: the third of 1,024 frames asks for a repair of its row (R257). -/
def Stack.sectorError (t : Stack) (sector : Nat) (f : W64) : Stack :=
  let l := t.dberr.filter fun e => (f - e.2).toNat < 1024
  let l := if l.contains (sector, f) then l else l ++ [(sector, f)]
  { t with
    ue := sat 15 (t.ue + 1)
    sector := sector
    dberr := l
    repairs := if 3 ≤ (l.filter fun e => e.1 = sector).length then nadd t.repairs (hbmPage (32 * sector)) else t.repairs }

/-- A read of stack `h` corrects a single-bit error of a sector; more than 64 in a channel in one frame ask for its retraining
(R256, R262). -/
def Stack.corrected (t : Stack) (sector : Nat) : Stack :=
  let ch := hbmChannel (32 * sector)
  let k := tget t.ceFrame ch 0 + 1
  { t with
    ce := sat 0xFFFF (t.ce + 1)
    writeBack := nadd t.writeBack sector
    ceFrame := tset t.ceFrame ch k 0
    hotChannels := if 64 < k then nadd t.hotChannels ch else t.hotChannels }

/-- A read meets what is wrong with word `w`: an error, or in a stack or a window a poison mark (R160, R256). -/
def State.meetWord (s : State) (w : Nat) : State :=
  let double := s.flips.contains (w, true)
  let single := s.flips.contains (w, false)
  let marked := s.poison.contains w
  let a := 32 * w
  if a < 48 * stackSize then
    let x := a % stackSize / 32
    if double then s.modStack (a / stackSize) fun t => t.sectorError x s.pmc.frame
    else if marked then s.modStack (a / stackSize) fun t => { t with ue := sat 15 (t.ue + 1), sector := x }
    else if single then s.modStack (a / stackSize) fun t => t.corrected x
    else s
  else if 0x100000000000 ≤ a && a < 0x100000000000 + 48 * 0x8000000 then
    let r := (a - 0x100000000000) / 0x8000000
    if double || marked then s.modStack r fun t => { t with resUe := sat 15 (t.resUe + 1), resWord := w - winBase r / 32 }
    else if single then s.modStack r fun t => { t with resCe := sat 0xFFFF (t.resCe + 1) }
    else s
  else if 0x200000000000 ≤ a && a < 0x200000000000 + 576 * 0x1000000 then
    let n := (a - 0x200000000000) / 0x1000000
    if double then s.meetScratch n ((a - 0x200000000000) % 0x1000000 / 32) true
    else if single then s.meetScratch n ((a - 0x200000000000) % 0x1000000 / 32) false
    else s
  else s

/-- The words of a list are read, those with something wrong alone (R160, R256). -/
def State.meet (s : State) (ws : List Nat) : State :=
  if s.flips.isEmpty && s.poison.isEmpty then s
  else (ws.filter fun w => s.poison.contains w || s.flips.any fun e => e.1 = w).foldl State.meetWord s

/-! ### Tokens (R33 to R36) -/

/-- The cell to which the plate binds the out-port of core `n` (R35). The plate's format has no field for it, so which cell it is
is free, one for each plate and position: log entry 113. -/
def State.tokenTarget (s : State) (n : Nat) : Option CellId :=
  (s.getCore n).position.bind fun p =>
    (s.boundPlate p.1).map fun img =>
      let k := Config.choice 140 (leNat (img.take 64) * 1024 + p.2) % 1082
      if k < 576 then .core k else entryCell (k - 576)

/-- The node of the core that takes a cell's tokens. -/
def State.tokenNode (s : State) (cell : CellId) : Nat := ((s.head cell).map coreQuad).getD nodePmc

/-- A token leaves the out-port of core `n` for the destination that the plate binds (R33, R35). -/
def State.emit (s : State) (n : Nat) (tok : W32) : State :=
  let s := s.modCore n fun c => { c with ccb := { c.ccb with
    tokenOut := tok, emitted := sat 0xFFFF (c.ccb.emitted + 1) } }
  match s.tokenTarget n with
  | some cell => s.post tyToken (s.tokenNode cell) (coreQuad n) [s.ccbId cell, tok]
  | none => s

/-- A token word. -/
def token (kind payload : Nat) : W32 := word [(kind, 28, 4), (payload, 0, 24)]

/-- KIND not used, or reserved bits set (R33, R35). -/
def tokenBad (t : W32) : Bool := 6 ≤ bits t.toNat 28 4 || bits t.toNat 24 4 ≠ 0

/-- R35: a well-formed token at the in-port of core `n`: queued, or discarded with OVF and TOKEN_OVF. -/
def State.enqueueToken (s : State) (n : Nat) (t : W32) : State :=
  let c := s.getCore n
  if c.ccb.inport.length < 16 then
    s.setCore n { c with ccb := { c.ccb with inport := c.ccb.inport ++ [t] } }
  else
    (s.setCore n { c with ccb := { c.ccb with ovf := sat 255 (c.ccb.ovf + 1) } }).fault n fTokenOvf

/-- The RESET_NAK of core `n` (R33, R36). -/
def resetNak (n : Nat) : W32 := token 4 n

/-- The statuses of R44, R408 and R11. -/
def eAlign : Nat := 0x0001
def eReserved : Nat := 0x0002
def eZero : Nat := 0x0003
def eNoCell : Nat := 0x0101
def eDoorbellBusy : Nat := 0x0102
def stCellReset : Nat := 0x1001
def ePmcRestart : Nat := 0x1002

/-- A status as the completion of the access. -/
def State.done (s : State) (st : Nat) : State := s.answer (BitVec.ofNat 16 st)

/-- A token written to TOKEN_IN of core `n` by the register path (R35, R36): RESETTING answers first. The RESET_NAK that it places
in TOKEN_OUT does not count in EMITTED: DESIGN CHOICE, log entry 11. -/
def State.tokenWrite (s : State) (n : Nat) (t : W32) : State :=
  if (s.getCore n).ccb.state = .resetting then
    (s.modCore n fun c => { c with ccb := { c.ccb with tokenOut := resetNak n } }).done stCellReset
  else if tokenBad t then s.done eReserved
  else (s.enqueueToken n t).done 0

/-- A token that arrives at core `n` from the cell whose core is `from?` (R35, R36). A RESET_NAK that reaches a core
in RESETTING is not answered again: DESIGN CHOICE, log entry 11. -/
def State.tokenArrive (s : State) (n : Nat) (t : W32) (sender : Option Nat) : State :=
  if (s.getCore n).ccb.state = .resetting then
    match sender with
    | some m => if (s.getCore m).ccb.state = .resetting then s else s.enqueueToken m (resetNak n)
    | none => s
  else if tokenBad t then s
  else s.enqueueToken n t

end Sys2Proof.Machine
end

