-- ==== Sys2Proof/Machine/Ports.lean ====
section
/-! DEFINITION. The five ports of a core's scratch (R162 to R165): the shares of the banks, how requests are served and how long a
port's engine is held, what a read returns that meets a write, and the hazard log (R182). The spec gives no order in which a port
presents its requests: DESIGN CHOICE, log entry 14. -/

namespace Sys2Proof.Machine

/-- Ports: array, Strainer, VE, mesh DMA, service (R182). -/
def pArray : Nat := 0
def pStrainer : Nat := 1
def pVe : Nat := 2
def pDma : Nat := 3

/-- The positions at which a port reads and writes, and its words per scratch cycle (R162). -/
def readShares (port : Nat) : List Nat :=
  match port with
  | 0 => [0, 3]
  | 1 => [1, 4]
  | 2 => [2, 5]
  | 3 => [6]
  | _ => [7]
def writeShares (port : Nat) : List Nat :=
  match port with
  | 0 => []
  | 1 => [1, 4]
  | 2 => [2, 5]
  | 3 => [6]
  | _ => [0, 3, 7]
def portWords (port : Nat) : Nat := if port < 3 then 16 else 8

/-- The bank and the row of a word of a scratch (R159). -/
def bankOf (w : Nat) : Nat := 8 * (w / 8 % 8) + w % 8
def rowOf (w : Nat) : Nat := w / 64 % 8192

/-- The key of a port, a direction and a bank in a log of what the ports served. -/
def bankKey (port : Nat) (put : Bool) (k : Nat) : Nat := 128 * port + 64 * b2n put + k

/-- In scratch cycle `x` bank `k` can serve the port: its share is there (R162), no earlier request has taken it, and the port's budget
of reads and writes together is not spent. -/
def PortLog.canServe (l : PortLog) (port : Nat) (put : Bool) (k x : Nat) : Bool :=
  (if put then writeShares port else readShares port).contains ((k + x) % 8) &&
    !(tget l.taken (bankKey port put k) []).contains x && tget l.moved (8 * x + port) 0 < portWords port

/-- The first cycle from `t` on, in `fuel` cycles, that satisfies `p`. -/
def firstFrom (p : Nat → Bool) : Nat → Nat → Nat
  | 0, t => t
  | fuel + 1, t => if p t then t else firstFrom p fuel (t + 1)

/-- The first cycle from `t` on in which bank `k` serves the port. Of any 8 cycles one holds a share; each that a request before has used up
puts the search off by at most one such. -/
def PortLog.next (l : PortLog) (port : Nat) (put : Bool) (k t : Nat) : Nat :=
  firstFrom (l.canServe port put k) (8 * ((tget l.taken (bankKey port put k) []).length + l.moved.length + 1)) t

/-- Bank `k` serves the port in cycle `x`. -/
def PortLog.serve (l : PortLog) (port : Nat) (put : Bool) (k x : Nat) : PortLog :=
  { taken := tset l.taken (bankKey port put k) (x :: tget l.taken (bankKey port put k) []) []
    moved := tset l.moved (8 * x + port) (tget l.moved (8 * x + port) 0 + 1) 0 }

/-- Requests of one operation served so far: words with their cycles, newest first; what the ports have served; the cycles of hold. -/
structure Served where
  done : List (Nat × Nat) := []
  log : PortLog := {}
  hold : Nat := 0

/-- R163: one request, presented at cycle `t` but for the holds before it. One that stands 8 cycles holds its engine. -/
def Served.step (port : Nat) (put : Bool) (v : Served) (w t : Nat) : Served :=
  let x := v.log.next port put (bankOf w) (t + v.hold)
  { done := (w, x) :: v.done, log := v.log.serve port put (bankOf w) x, hold := v.hold + (x - (t + v.hold + 8)) }

/-- R163: the requests of one operation that runs over core cycles [t0, t1), presented evenly over it, and no faster than the port's
budget, behind those served before. -/
def PortLog.run (l : PortLog) (port : Nat) (put : Bool) (t0 t1 : Nat) (ws : List Nat) : Served :=
  let n := ws.length
  ((List.range n).zip ws).foldl (fun v e =>
    v.step port put e.2 (t0 / 2 + max (e.1 * (t1 - t0) / (2 * n)) (e.1 / portWords port))) ({ log := l } : Served)

/-- What the ports of core `n` have served. -/
def State.keepLog (s : State) (n : Nat) (l : PortLog) : State :=
  s.modCore n fun c => { c with scr := { c.scr with ports := l } }

/-- An engine is held for `k` scratch cycles (R163). -/
def State.bankWait (s : State) (n k : Nat) : State := if k = 0 then s else s.countCore n 0x0538 k

/-! ### What a read returns (R164) -/

/-- The state as reads see it that are served in the cycles given: a word written in the cycle of its read, or later, shows what it
held before (R164). -/
def State.seen (s : State) (n : Nat) (rs : List (Nat × Nat)) : State :=
  let l := (s.getCore n).scr.writes
  if l.isEmpty then s
  else rs.foldl (fun (v : State) r =>
    match l.find? fun e => e.1.word = r.1 && r.2 ≤ e.1.cycle with
    | some e =>
      let v := v.write (32 * r.1) e.2.1
      if e.2.2 then v.mark (32 * r.1) 32 else v
    | none => v) s

/-! ### Hazard-check mode (R165, R182) -/

/-- One ROW_COLLISION: counted and logged. -/
def State.logHazard (s : State) (n : Nat) (r w : Touch) : State :=
  (s.countCore n 0x0530 1).modCore n fun c =>
    let p := c.scr.hazPtr
    let t := tset c.scr.hazLog (4 * p) (BitVec.ofNat 32 r.cycle) 0
    let t := tset t (4 * p + 1) (word [(bankOf r.word, 26, 6), (rowOf r.word, 13, 13)]) 0
    let t := tset t (4 * p + 2) (word [(r.port, 29, 3), (w.port, 26, 3), (b2n r.remote, 25, 1), (b2n w.remote, 24, 1),
      (if r.remote then 0 else r.handle, 16, 8), (if w.remote then 0 else w.handle, 8, 8)]) 0
    let t := tset t (4 * p + 3) s.frame32 0
    { c with scr := { c.scr with hazLog := t, hazPtr := (p + 1) % 8 } }

/-- A read and a write that meet (R164) and count (R165). -/
def Touch.collides (r w : Touch) : Bool :=
  r.word = w.word && r.cycle = w.cycle && (r.remote || w.remote || r.index ≠ w.index)

/-- The touches of served requests. -/
def touchesOf (x : Touch) (l : List (Nat × Nat)) : List Touch := l.map fun e => { x with word := e.1, cycle := e.2 }

/-- Reads are looked at, and remembered, in hazard-check mode. -/
def State.noteReads (s : State) (n : Nat) (rs : List Touch) : State :=
  let c := s.getCore n
  if !c.scr.haz then s
  else
    let s := rs.foldl (fun s r => ((c.scr.writes.map (·.1)).filter r.collides).foldl (fun s w => s.logHazard n r w) s) s
    s.modCore n fun c => { c with scr := { c.scr with reads := c.scr.reads ++ rs } }

/-- Writes are remembered with what they overwrite; in hazard-check mode they are looked at. -/
def State.noteWrites (s : State) (n : Nat) (ws : List Touch) : State :=
  let c := s.getCore n
  let s := if !c.scr.haz then s
    else ws.foldl (fun s w => (c.scr.reads.filter fun r => r.collides w).foldl (fun s r => s.logHazard n r w) s) s
  s.modCore n fun c => { c with scr := { c.scr with
    writes := c.scr.writes ++ ws.map fun w => (w, s.bytes (32 * w.word) 32, s.wordBad w.word) } }

/-! ### Accesses -/

/-- The poisoned words of a read count, and the read meets what is wrong with its words (R160, R161). -/
def State.look (s : State) (n : Nat) (ws : List Nat) : State :=
  let k := (ws.filter s.wordBad).length
  (if k = 0 then s else s.countCore n 0x053C k).meet ws

/-- Reads through a port by an operation that runs over core cycles [t0, t1), each by a touch of its own: the holds, the state that the
reads see, the state after them. -/
def State.portReads (s : State) (n t0 t1 : Nat) (l : List (Touch × List Nat)) : Nat × State × State :=
  l.foldl (fun r e =>
    let v := (r.2.2.getCore n).scr.ports.run e.1.port false t0 t1 e.2
    let w := r.2.1.seen n v.done
    let k := (e.2.filter w.wordBad).length
    let s := (if k = 0 then r.2.2 else r.2.2.countCore n 0x053C k).meet e.2
    (r.1 + v.hold, w, ((s.noteReads n (touchesOf e.1 v.done)).keepLog n v.log).bankWait n v.hold)) (0, s, s)

/-- One read through a port. -/
def State.portRead (s : State) (n : Nat) (x : Touch) (t0 t1 : Nat) (ws : List Nat) : Nat × State × State :=
  s.portReads n t0 t1 [(x, ws)]

/-- Words are about to be written through a port by an operation that runs over core cycles [t0, t1): how they are served, and the state
with the writes noted. -/
def State.portWrite (s : State) (n : Nat) (x : Touch) (t0 t1 : Nat) (ws : List Nat) : Served × State :=
  let v := (s.getCore n).scr.ports.run x.port true t0 t1 ws
  (v, ((s.noteWrites n (touchesOf x v.done)).keepLog n v.log).bankWait n v.hold)

/-- The core cycle behind the last of requests served: a write takes effect in its share (R163). -/
def Served.end_ (v : Served) : Nat := v.done.foldl (fun a e => max a (2 * (e.2 + 1))) 0

/-- The mesh DMA port holds its engine for `k` scratch cycles from core cycle `t` on (R163). -/
def State.holdDma (s : State) (n t k : Nat) : State :=
  if k = 0 then s else s.modCore n fun c => { c with dmaHeld := max c.dmaHeld (t + 2 * k) }

/-- The touch of a descriptor through a port and a handle. -/
def touchBy (port handle index : Nat) : Touch :=
  { cycle := 0, word := 0, port := port, handle := handle, index := index, remote := false }
/-- The touch of another core, through the mesh port. -/
def touchFar : Touch := { cycle := 0, word := 0, port := pDma, handle := 0, index := 0, remote := true }

end Sys2Proof.Machine
end

