-- ==== Sys2Proof/Machine/Operands.lean ====
section
/-! DEFINITION. Operands of descriptors: their fields (R79, R80), Caddy entries and translation (R170, R171), access
to scratch through a handle (R160, R161), and the issue of a descriptor (R75, R77, R78). -/

namespace Sys2Proof.Machine

/-! ### Fields -/

/-- Word `i` of a descriptor. -/
def dw (d : List W32) (i : Nat) : Nat := (d.getD i 0).toNat
/-- Field of word `i` from bit `lo`, `n` bits. -/
def fld (d : List W32) (i lo n : Nat) : Nat := bits (dw d i) lo n
def flag (d : List W32) (i b : Nat) : Bool := bitOf (dw d i) b

def dKind (d : List W32) : Nat := fld d 0 28 4
def dTag (d : List W32) : Nat := fld d 0 16 8

/-- Whether all reserved bits are zero; each entry is a word, lowest bit and width. -/
def resZero (d : List W32) (l : List (Nat × Nat × Nat)) : Bool := l.all fun r => fld d r.1 r.2.1 r.2.2 = 0

/-- The reserved bits of word 15, and of word 0's [27:24] (R79, R80). -/
def res0 : List (Nat × Nat × Nat) := [(0, 24, 4)]
def res15 : List (Nat × Nat × Nat) := [(15, 25, 5), (15, 8, 8)]
def resWords (l : List Nat) : List (Nat × Nat × Nat) := l.map fun w => (w, 0, 32)

/-- The first check that fails gives the status (R77). -/
def firstFail (l : List (Bool × Nat)) : Option Nat := (l.find? (·.1)).map (·.2)

/-- The status codes of R98, R136 and R178. -/
def eDescKind : Nat := 0x0301
def eDescFmt : Nat := 0x0302
def eDescAlign : Nat := 0x0303
def eDescBounds : Nat := 0x0304
def eDescHandle : Nat := 0x0305
def eDescAcc : Nat := 0x0306
def eDescField : Nat := 0x0307
def eDescStream : Nat := 0x0308
def eVeProg : Nat := 0x0501
def eScrResident : Nat := 0x0701
def eScrPoison : Nat := 0x0702

/-! ### The Caddy (R170, R171) -/

def Cad.resident (e : Cad) : Bool := e.w0.getLsbD 30
def Cad.ilv (e : Cad) : Nat := bits e.w0.toNat 28 2
def Cad.size (e : Cad) : Nat := 2048 * bits e.w0.toNat 14 14
def Cad.defined (e : Cad) : Bool := e.w0.getLsbD 13
def Cad.base (e : Cad) : Nat := 2048 * bits e.w0.toNat 0 13
def Cad.prodSem (e : Cad) : Nat := bits e.w1.toNat 16 9
def Cad.consSem (e : Cad) : Nat := bits e.w1.toNat 0 9
def Cad.copy (e : Cad) : Nat := e.w2.toNat + 2 ^ 32 * bits e.w3.toNat 0 16
def Cad.hasCopy (e : Cad) : Bool := e.w3.getLsbD 31

/-- π of R171. -/
def lineMap (ilv l : Nat) : Nat := if ilv = 1 then l / 8 * 8 + (l % 8 ^^^ (l / 8 % 8)) else l

/-- The physical scratch offset of offset `o` in a buffer (R171). -/
def Cad.phys (e : Cad) (o : Nat) : Nat := e.base + 256 * lineMap e.ilv (o / 256) + o % 256

/-- The entry of a handle as established at the last Shutter. -/
def Core.cad (c : Core) (h : Nat) : Cad := tget c.scr.cad h {}
def Core.valid (c : Core) (h : Nat) : Bool := c.scr.valid.contains h
/-- A handle a descriptor may write through: valid and transient (R168). -/
def Core.writable (c : Core) (h : Nat) : Bool := c.valid h && !(c.cad h).resident
/-- The bytes [o, o + n) lie in the buffer. -/
def Core.inBuf (c : Core) (h o n : Nat) : Bool := o + n ≤ (c.cad h).size

/-! ### Scratch through a handle -/

/-- The Panel Address of offset `o` of a buffer of core `n`. -/
def State.bufAddr (s : State) (n h o : Nat) : Nat := scratchAddr n (((s.getCore n).cad h).phys o)

def State.bufBytes (s : State) (n h o len : Nat) : List Byte := (upTo o len).map fun x => s.byte (s.bufAddr n h x)

/-- The words that hold the bytes [o, o + len) of a buffer, by Panel Address div 32; the poisoned ones among them. -/
def State.bufWords (s : State) (n h o len : Nat) : List Nat := (wordsOf o len).map fun w => s.bufAddr n h (32 * w) / 32
def State.bufBad (s : State) (n h o len : Nat) : Nat := ((s.bufWords n h o len).filter s.wordBad).length

/-- Whole words written through a handle from a multiple of 32: each clean, or marked poisoned (R160). `bs` is padded
with zero bytes to a whole word. -/
def State.bufWrite (s : State) (n h o : Nat) (bs : List Byte) (bad : Bool) : State :=
  s.each (List.range (cdiv bs.length 32)) fun s i =>
    let w := (bs.drop (32 * i)).take 32
    let a := s.bufAddr n h (o + 32 * i)
    let s := s.write a (w ++ List.replicate (32 - w.length) 0)
    if bad then s.mark a 32 else s

/-- Bytes written at Panel Addresses, each with its poison: a word that they touch is clean, or poisoned where one of them is
(R160, R161). Its other bytes stay, those of a scale row or zero map too (DESIGN CHOICE, log entry 143). -/
def State.putMarked (s : State) (l : List (Nat × Byte × Bool)) : State :=
  let s := l.foldl (fun s e => s.write e.1 [e.2.1]) s
  let s := ((l.map fun e => e.1 / 32).eraseDups).foldl (fun s w => s.unmark (32 * w) 32) s
  l.foldl (fun s e => if e.2.2 then s.mark e.1 1 else s) s

/-! ### Time and issue -/

/-- The core's clock moves to an event's cycle (log entry 12). -/
def State.at (s : State) (n cycle : Nat) : State :=
  s.modCore n fun c => { c with seq := { c.seq with now := max c.seq.now cycle } }

/-- The 16 words of a descriptor at index `i` of the stream (R74). -/
def State.fetch (s : State) (n i : Nat) : List W32 :=
  s.words (scratchAddr n (64 * ((s.getCore n).seq.base + i))) 16

/-- Descriptors of core `n` may issue: in Develop, and in the extension those of a late core; every other core idles (R46, R52). -/
def State.develops (s : State) (n : Nat) : Bool :=
  (s.pmc.phase = 1 && s.pmc.point < 2) || (s.pmc.point = 2 && (s.getCore n).late)

/-- The sequencer may issue: frames execute, the stream runs, it holds at no SEM_WAIT and is not in END (R75, R95). -/
def State.issuing (s : State) (n : Nat) : Bool :=
  let c := s.getCore n
  s.develops n &&
    (match c.seq.state with
     | .issuing | .waitQueue | .waitNotice | .waitPhase => true
     | _ => false)

/-- The sequencer holds the descriptor: the state shows why (R99). -/
def State.holdAt (s : State) (n : Nat) (st : SeqState) : State :=
  s.modCore n fun c => { c with seq := { c.seq with state := st } }

/-- What held the sequencer at place `k` of `freed` holds no more from cycle `x` on. -/
def Seq.free (q : Seq) (k x : Nat) : Seq := { q with freed := tset q.freed k x 0 }

/-- The first cycle from `nextIssue` on in which the hold at place `k` does not stand. -/
def Seq.ready (q : Seq) (k : Nat) : Nat := max q.nextIssue (tget q.freed k 0)

/-- A hold lasts to cycle `t`, if that is later: each of its cycles counts in the counter at `off` (R75, R91, R93). -/
def State.heldTo (s : State) (n off t : Nat) : State :=
  (s.countCore n off (t - (s.getCore n).seq.nextIssue)).modCore n fun c =>
    { c with seq := { c.seq with nextIssue := max c.seq.nextIssue t } }

/-- The engine's queue, full, has held the descriptor that issues now: CORE_CNT_ISSUE_STALL (R75). -/
def State.queueHeld (s : State) (n k : Nat) : State := s.heldTo n 0x010C ((s.getCore n).seq.ready k)

/-- The cycle in which the descriptor issues. -/
def Core.issueCycle (c : Core) : Nat := c.seq.nextIssue

/-- The descriptor at INDEX issues at cycle `i`: CORE_CNT_DESC, INDEX, the next issue 4 cycles on (R75). -/
def State.issued (s : State) (n i : Nat) : State :=
  (s.countCore n 0x0118 1).modCore n fun c =>
    { c with seq := { c.seq with state := .issuing, index := c.seq.index + 1, nextIssue := i + 4, now := max c.seq.now i } }

/-- Check 2 and 4 of the completion signal: SIG_REMOTE with SIG_EN only where `remote` allows it (R80). -/
def sigBad (d : List W32) (w : Nat) (remote : Bool) : Bool := flag d w 31 && flag d w 30 && !remote

/-- The core cycle at which the lead of a NOTICE ends: the lead runs on the timebase, and a stretch since then has taken core cycles from
it (R93, R361). -/
def State.noticeEnd (s : State) (n : Nat) : Nat :=
  let q := (s.getCore n).seq
  q.noticeUntil - 50 * (s.clk.used - q.noticeUsed) * (s.getQuad (coreQuad n)).ratio / 288

/-- NOTICE holds ARRAY, VE and STRAINER until the effective lead has elapsed; each cycle counts (R93). -/
def State.afterNotice (s : State) (n : Nat) : State := s.heldTo n 0x0110 (s.noticeEnd n)

end Sys2Proof.Machine
end

