-- ==== Sys2Proof/Machine/Rows.lean ====
section
/-! DEFINITION. The Vector Engine's row pairs: the fields of its descriptor (R124), its costs and start (R121, R122, R126), and what one
row pair does (R97, R119, R126, R127, R134). -/

namespace Sys2Proof.Machine

/-! ### Fields -/

def veSrc (d : List W32) : Nat := fld d 0 14 2
def veDst (d : List W32) : Nat := fld d 0 12 2
def vePack (d : List W32) : Bool := flag d 0 11
def veAIdx (d : List W32) : Nat := fld d 0 4 2
def veBSrc (d : List W32) : Nat := fld d 0 2 2
def veBIdx (d : List W32) : Nat := fld d 0 0 2
def veProgLen (d : List W32) : Nat := fld d 3 0 7
def veOutReg (d : List W32) : Nat := fld d 4 0 4
def veAFmt (d : List W32) : Nat := fld d 5 8 4
def veBFmt (d : List W32) : Nat := fld d 6 8 4
def veOutFmt (d : List W32) : Nat := fld d 8 8 4
def veRows (d : List W32) : Nat := fld d 12 16 8
def veCols (d : List W32) : Nat := fld d 12 8 8
def veNt (d : List W32) : Nat := fld d 12 0 3
/-- Row and union zero maps; both are ignored with DST none (R135). -/
def veZmRow (d : List W32) : Bool := flag d 0 8 && veDst d ≠ 0
def veZmUnion (d : List W32) : Bool := flag d 0 7 && veDst d ≠ 0

/-- Bits of an element of A_FMT, B_FMT or OUT_FMT. -/
def veBits (f : Nat) : Nat := if f = 15 then 32 else elemBits f
/-- Bytes of a row of COLS elements. -/
def veRowBytes (f cols : Nat) : Nat := cdiv (cols * veBits f) 8

/-- Some count is 0 (R125). -/
def veZero (d : List W32) : Bool := veProgLen d = 0 || veRows d = 0 || veCols d = 0 || veNt d = 0

/-- Rows of a row pair, or of a row quad under PACK. -/
def veStep (d : List W32) : Nat := if vePack d then 4 else 2
/-- Row pairs of a tile, and NP (R126). -/
def veRp (d : List W32) : Nat := cdiv (veRows d) (veStep d)
def veNp (d : List W32) : Nat := veNt d * veRp d

/-- Output rows of a descriptor. -/
def veOutRows (d : List W32) : Nat := veNt d * veRows d

/-! ### Costs and the start (R121, R122, R126) -/

/-- The accumulator tiles that an ARRAY descriptor writes (R66). -/
def arrayTiles (d : List W32) : List Nat :=
  let r0 := fld d 11 23 9
  let m := fld d 10 16 10
  if m = 0 || fld d 10 0 8 = 0 || fld d 9 0 20 = 0 then []
  else upTo (r0 / 128) ((r0 + m - 1) / 128 - r0 / 128 + 1)

/-- c_eff (R126): the instruction costs, or the port's bound. -/
def veCost (prog : List W32) : Nat := (prog.map instCost).foldl (· + ·) 0
def vePort (d : List W32) : Nat :=
  let r (f : Nat) : Nat := 2 * (cdiv (veRowBytes f (veCols d)) 32 * 32)
  cdiv ((if veSrc d = 3 then r (veAFmt d) else 0) + (if veBSrc d = 2 then r (veBFmt d) else 0) +
    (if veDst d = 1 then r (veOutFmt d) else 0) + (if veZmRow d then 32 else 0) +
    (if veDst d = 1 && isMx (veOutFmt d) then 64 else 0)) 256
def veCeff (prog : List W32) (d : List W32) : Nat := max (veCost prog) (vePort d)

/-- When the source is readable, if it is (R121, R122). -/
def veReadable (c : Core) (q : Queued) : Option Nat :=
  let d := q.desc
  match veSrc d with
  | 0 =>
    if c.ve.ftq.length < veNt d then none
    else some ((c.ve.ftq.take (veNt d)).foldl (fun a e => max a e.2.2) 0)
  | 1 =>
    if c.arr.queue.any fun a => a.ord ≤ q.arraysBefore &&
        (arrayTiles a.desc).any fun t => veAIdx d ≤ t && t < veAIdx d + veNt d
    then none
    else some ((upTo (veAIdx d) (veNt d)).foldl (fun a t => max a (tget c.arr.tileDone t 0)) 0)
  | _ => some 0

/-- The list with its first element that satisfies `p` changed. -/
def modFirst {α : Type} (p : α → Bool) (f : α → α) : List α → List α
  | [] => []
  | x :: r => if p x then f x :: r else x :: modFirst p f r

/-- A VE descriptor that waits for its first row pair. -/
def veWaits (q : Queued) : Bool := !q.started && !veZero q.desc

/-- When the first row pair of VE descriptor `q` issues but for its source, once its predecessors have (R126); `fetch` and `table` are the
scratch cycles for which the port holds its infusion fetch and its table load (R163). -/
def Core.veOwn (c : Core) (q : Queued) (fetch table : Nat) : Option Nat :=
  let d := q.desc
  if !((c.ve.queue.takeWhile fun x => x.ord ≠ q.ord).all fun x => veZero x.desc || x.progress = veNt x.desc) ||
      (flag d 0 9 && c.ve.done + 1 ≠ q.ord) then none
  else some (max (max (q.entered + 12 + 2 * fetch) (if flag d 0 9 then max q.entered c.ve.lastDone + 8 + 2 * table else 0))
    (c.ve.lastIssue + c.ve.lastCost))

/-- The same with its source, where nothing holds it. -/
def Core.veStart (c : Core) (q : Queued) (fetch table : Nat) : Option (Nat × Nat) :=
  match c.veOwn q fetch table, veReadable c q with
  | some own, some r => some (own, max own r)
  | _, _ => none

/-! ### Rows -/

/-- The 128 lanes' registers as lists, and back. -/
def lanesOf (t : Tab (BitVec 64)) : List (List (BitVec 64)) :=
  (List.range 128).map fun l => (List.range 16).map fun r => tget t (16 * l + r) 0
def tabOf (ls : List (List (BitVec 64))) : Tab (BitVec 64) :=
  (List.range 2048).filterMap fun i =>
    if regOf (ls.getD (i / 16) []) (i % 16) = 0 then none else some (i, regOf (ls.getD (i / 16) []) (i % 16))

/-- One scratch source row as FP32 (narrow formats widen exactly), or as BF16 codes under PACK. -/
def rowVals (pack : Bool) (fmt cols : Nat) (bs : List Byte) : List W32 :=
  (List.range cols).map fun i =>
    if pack then BitVec.ofNat 32 (leNat ((bs.drop (2 * i)).take 2))
    else if fmt = 15 then BitVec.ofNat 32 (leNat ((bs.drop (4 * i)).take 4))
    else toF32 (elemAt fmt bs i)

/-- The offsets of output row `j` in the scratch buffers of the sources, and its length there. -/
def veOffA (d : List W32) (j : Nat) : Nat := 32 * fld d 5 12 20 + j * (32 * fld d 7 16 16)
def veOffB (d : List W32) (j : Nat) : Nat := 32 * fld d 6 12 20 + j * (32 * fld d 7 0 16)

/-- A source's row: its values by column and whether it is poisoned. `r` is the row in the tile, `j` the output row. -/
def State.veSourceA (s : State) (n : Nat) (d : List W32) (tile r j : Nat) : List W32 × Bool :=
  let c := s.getCore n
  match veSrc d with
  | 2 => ((List.range 128).map fun l => tget c.ve.tb (veAIdx d * 16384 + r * 128 + l) 0,
      c.ve.tbPoison.contains (veAIdx d * 128 + r))
  | 3 =>
    let len := veRowBytes (veAFmt d) (veCols d)
    (rowVals (vePack d) (veAFmt d) (veCols d) (s.bufBytes n (fld d 1 8 8) (veOffA d j) len),
      s.bufBad n (fld d 1 8 8) (veOffA d j) len ≠ 0)
  | _ => ((List.range 128).map fun l => tget c.arr.acc ((tile * 128 + r) * 128 + l) 0, c.arr.tilePoison.contains tile)

def State.veSourceB (s : State) (n : Nat) (d : List W32) (r j : Nat) : List W32 × Bool :=
  let c := s.getCore n
  match veBSrc d with
  | 1 => ((List.range 128).map fun l => tget c.ve.tb (veBIdx d * 16384 + r * 128 + l) 0,
      c.ve.tbPoison.contains (veBIdx d * 128 + r))
  | _ =>
    let len := veRowBytes (veBFmt d) (veCols d)
    (rowVals (vePack d) (veBFmt d) (veCols d) (s.bufBytes n (fld d 1 0 8) (veOffB d j) len),
      s.bufBad n (fld d 1 0 8) (veOffB d j) len ≠ 0)

/-! ### Errors in accumulators and tile buffers (R97, R119) -/

/-- Elements of row `row` with an error; those that no read has found. -/
def flipsIn (l : List (Nat × Bool × Bool)) (row : Nat) : List (Nat × Bool × Bool) := l.filter fun e => e.1 / 128 = row
def newFlips (l : List (Nat × Bool × Bool)) (row : Nat) : List (Nat × Bool × Bool) := (flipsIn l row).filter fun e => !e.2.2
def foundFlips (l : List (Nat × Bool × Bool)) (row : Nat) : List (Nat × Bool × Bool) :=
  l.map fun e => if e.1 / 128 = row then (e.1, e.2.1, true) else e
/-- An element of the row has a double-bit error. -/
def doubleIn (l : List (Nat × Bool × Bool)) (row : Nat) : Bool := (flipsIn l row).any fun e => e.2.1

/-- R97: the VE reads a row of the accumulators: errors that no read has found count; a double-bit one poisons the tile. -/
def State.meetAcc (s : State) (n row : Nat) : State :=
  let l := newFlips (s.getCore n).arr.flips row
  let ds := l.filter fun e => e.2.1
  if l.isEmpty then s
  else
    let s := s.modCore n fun c => { c with arr := { c.arr with
      flips := foundFlips c.arr.flips row
      ce := sat 0xFFFF (c.arr.ce + (l.length - ds.length))
      ue := sat 15 (c.arr.ue + ds.length)
      ueRow := if ds.isEmpty then c.arr.ueRow else row
      tilePoison := if ds.isEmpty then c.arr.tilePoison else nadd c.arr.tilePoison (row / 128) } }
    ds.foldl (fun s _ => s.uncorrected n) s

/-- R119: the VE reads row `row` of the tile buffers, counted over all three. -/
def State.meetTb (s : State) (n row : Nat) : State :=
  let l := newFlips (s.getCore n).ve.flips row
  let ds := l.filter fun e => e.2.1
  if l.isEmpty then s
  else
    let s := s.modCore n fun c => { c with ve := { c.ve with
      flips := foundFlips c.ve.flips row
      ce := sat 0xFFFF (c.ve.ce + (l.length - ds.length))
      ue := sat 15 (c.ve.ue + ds.length) } }
    ds.foldl (fun s _ => s.uncorrected n) s

/-- A scratch row over the 128 lanes: what the lanes at or above COLS receive is not stated, so free (R127: log entry 13). -/
def wideRow (k i : Nat) (x : List W32) : List W32 :=
  x ++ (List.range (128 - x.length)).map fun l => Config.freeWord (k + 128 * i + l)

/-- A register takes the source rows of a pair (two halves) or of a quad (four BF16 slots); a missing row keeps what
its half held. -/
def putRows (pack : Bool) (rows : List (List W32)) (reg : Nat) (ls : List (List (BitVec 64))) : List (List (BitVec 64)) :=
  ls.mapIdx fun l r =>
    let old := regOf r reg
    let v (i : Nat) : Option W32 := (rows[i]?).map fun x => x.getD l 0
    r.set reg (if pack then
        packSlots ((List.range 4).map fun i => match v i with
          | some x => x.toNat
          | none => slot16 old i)
      else join32 ((v 0).getD (lo32 old)) ((v 1).getD (hi32 old)))

/-- The values of a row as they are stored: each element of an MX group with the scale stored for the group, that of its first lane (R134;
DESIGN CHOICE where OUT_REG holds no CVT result, log entry 118). -/
def groupScale (fmt : Nat) (vs : List W32) : List W32 :=
  if isMx fmt then vs.mapIdx fun i v => word [(bits v.toNat 0 8, 0, 8), (bits (vs.getD (32 * (i / 32)) 0).toNat 8 8, 8, 8)] else vs

/-- A VE descriptor that issues row pairs. -/
def veRuns (q : Queued) : Bool := q.started && q.progress < veNt q.desc

/-- One row pair of the running VE descriptor: sources in, the infusion, output rows out. `k` is the tile's ordinal, `p` the pair's. -/
def State.veRowPair (s : State) (n : Nat) (q : Queued) (tile k p : Nat) : State :=
  let d := q.desc
  let c := s.getCore n
  let pack := vePack d
  let r0 := p * veStep d
  let ceff := veCeff q.prog d
  let t0 := q.start + (k * veRp d + p) * ceff
  let rows := (upTo r0 (veStep d)).filter (· < veRows d)
  let js := rows.map fun r => k * veRows d + r
  let accRows := if veSrc d ≤ 1 then rows.map (tile * 128 + ·) else []
  let tbRows := (if veSrc d = 2 then rows.map (veAIdx d * 128 + ·) else []) ++
    (if veBSrc d = 1 then rows.map (veBIdx d * 128 + ·) else [])
  let ecc := accRows.any (doubleIn c.arr.flips) || tbRows.any (doubleIn c.ve.flips)
  let ra := if veSrc d = 3 then s.portRead n (touchBy pVe (fld d 1 8 8) q.index) t0 (t0 + ceff)
      (js.flatMap fun j => s.bufWords n (fld d 1 8 8) (veOffA d j) (veRowBytes (veAFmt d) (veCols d))) else (0, s, s)
  let rb := if veBSrc d = 2 then ra.2.2.portRead n (touchBy pVe (fld d 1 0 8) q.index) t0 (t0 + ceff)
      (js.flatMap fun j => s.bufWords n (fld d 1 0 8) (veOffB d j) (veRowBytes (veBFmt d) (veCols d))) else (0, s, ra.2.2)
  let a := rows.map fun r => ra.2.1.veSourceA n d tile r (k * veRows d + r)
  let b := if veBSrc d = 0 then [] else rows.map fun r => rb.2.1.veSourceB n d r (k * veRows d + r)
  let ls := putRows pack ((a.map (·.1)).mapIdx (wideRow s.fresh)) 0 (lanesOf c.ve.regs)
  let ls := if veBSrc d = 0 then ls else putRows pack ((b.map (·.1)).mapIdx (wideRow (s.fresh + 512))) 1 ls
  let x : RowCtx := { cols := veCols d, rows := veRows d, row := r0, j := k * veRows d + r0, k := k
                      c0 := d.getD 13 0, lut := c.ve.lut, lutBad := c.ve.lutPoison }
  let out := runInfusion pack x q.prog { regs := ls, bad := false }
  let poison := a.any (·.2) || b.any (·.2) || out.bad
  let bad := poison || ecc
  let val (r l : Nat) : W32 :=
    let v := regOf (out.regs.getD l []) (veOutReg d)
    if pack then BitVec.ofNat 32 (slot16 v (r - r0)) else if r = r0 then lo32 v else hi32 v
  let o := if veDst d = 0 then [] else rows.map fun r => (k, r, bad, groupScale (veOutFmt d) ((List.range (veCols d)).map (val r)))
  let s := tbRows.foldl (fun s r => s.meetTb n r) (accRows.foldl (fun s r => s.meetAcc n r) rb.2.2)
  let s := if veCols d < 128 then { s with fresh := s.fresh + 1024 } else s
  let s := ((s.countCore n 0x0410 1).countCore n 0x0414 ceff).countCore n 0x0418 (ceff - veCost q.prog)
  let late := 2 * (ra.1 + rb.1)
  let s := s.modCore n fun c => { c with
    ve := { c.ve with
      regs := tabOf out.regs
      rowPair := k * veRp d + p
      queue := modFirst veRuns (fun q => { q with
        rows := p + 1, start := q.start + late, finish := q.finish + late
        outs := q.outs ++ o, poisoned := q.poisoned || bad }) c.ve.queue } }
  if poison then s.fault n fPoisonIn else s

/-- The next row pair of the tile that the running VE descriptor reads issues, if it is pair `p` and issues before cycle `till`. -/
def State.veRowNext (s : State) (n : Nat) (till : Option Nat) (p : Nat) : State :=
  let c := s.getCore n
  match c.ve.queue.find? veRuns with
  | none => s
  | some q =>
    let t := q.start + (q.progress * veRp q.desc + p) * veCeff q.prog q.desc
    let tile := if veSrc q.desc = 0 then (c.ve.ftq.head?.map (·.1)).getD 0 else veAIdx q.desc + q.progress
    if p ≠ q.rows || till.any (· ≤ t) then s else s.veRowPair n q tile q.progress p

/-- Row pairs of the tile being read issue, all of them or those before cycle `till` (R126). -/
def State.veRowsTo (s : State) (n : Nat) (till : Option Nat) : State :=
  match (s.getCore n).ve.queue.find? veRuns with
  | none => s
  | some q => s.each (List.range (veRp q.desc)) fun s p => s.veRowNext n till p

end Sys2Proof.Machine
end

