-- ==== Sys2Proof/Machine/Schedule.lean ====
section
/-! DEFINITION. Fields of STRAINER and ARRAY descriptors (R81, R153), the block plan of an ARRAY (R70, R149, R150), and when its first
block loads and issues (R70, R71, R120, R121, R139). -/

namespace Sys2Proof.Machine

/-! ### STRAINER descriptors -/

def stOp (d : List W32) : Nat := fld d 0 13 3
def stForm (d : List W32) : Bool := flag d 0 12
def stA (d : List W32) : Nat := fld d 0 8 4
def stW (d : List W32) : Nat := fld d 0 4 4
def stCtx (d : List W32) : Nat := fld d 0 0 4
/-- A 32-byte-unit offset held in bits [31:12] of a word. -/
def off32 (d : List W32) (w : Nat) : Nat := 32 * fld d w 12 20
def stStride (d : List W32) : Nat := off32 d 4
def stNarr (d : List W32) : Nat := fld d 10 0 10
def stStripK (d : List W32) : Nat := fld d 11 0 9
def stNeg (d : List W32) : Nat := fld d 12 0 12
def stM (d : List W32) : Nat := fld d 13 20 10
def stK (d : List W32) : Nat := fld d 13 0 20
def stNtot (d : List W32) : Nat := fld d 14 16 16
def stDmax (d : List W32) : Nat := fld d 14 7 9
def stRot (d : List W32) : Nat := fld d 14 0 7
/-- NCB (R145). -/
def stNcb (d : List W32) : Nat := cdiv (stNtot d) 128

/-- The pairings of R68. -/
def pairOk (a w : Nat) : Bool := (a ≤ 6 && w ≤ 6) || (a = 7 && w = 7) || (a = 8 && w = 8)
/-- Kb (R68). -/
def pairKb (a w : Nat) : Nat := if a = 6 && w = 6 then 256 else 128
/-- The cell-row size of a weight format in a pairing (R82). -/
def cellRow (a w : Nat) : Nat := if a = 6 && w = 6 then 128 else 16 * elemBits w
/-- Cell rows of a full block are 128; WB is the size of a full block (R143). -/
def weightBlock (a w : Nat) : Nat := 128 * cellRow a w
/-- A weight format of one byte (R83, R146). -/
def oneByte (w : Nat) : Bool := w ≤ 3 || w = 7
/-- Bytes of a packed row of `k` elements (R104). -/
def packed (f k : Nat) : Nat := cdiv (k * elemBits f) 8
/-- SR of R106. -/
def scaleRow (k : Nat) : Nat := 32 * cdiv (cdiv k 32) 32
/-- Bytes of the row maps of `blocks` column blocks (R141). -/
def mapSpan (m blocks : Nat) : Nat := blocks * (32 * cdiv m 2)
/-- Bytes of a bitmap of `k` channels (R142). -/
def bitmapSpan (k : Nat) : Nat := 32 * cdiv k 256

/-- Some count is 0 (R154). -/
def stZero (d : List W32) : Bool :=
  (stOp d = 1 || stOp d = 2) && (stM d = 0 || stK d = 0 || (stOp d = 2 && stNtot d = 0))

/-! ### ARRAY descriptors -/

def arA (d : List W32) : Nat := fld d 0 12 4
def arW (d : List W32) : Nat := fld d 0 8 4
def arStr (d : List W32) : Bool := flag d 0 7
def arAcc (d : List W32) : Bool := flag d 0 6
def arPush (d : List W32) : Bool := flag d 0 5
def arT (d : List W32) : Bool := flag d 0 4
def arK (d : List W32) : Nat := fld d 9 0 20
def arM (d : List W32) : Nat := fld d 10 16 10
def arN (d : List W32) : Nat := fld d 10 0 8
def arRow (d : List W32) : Nat := fld d 11 23 9
def arCol (d : List W32) : Nat := fld d 11 16 7
def arCtx (d : List W32) : Nat := fld d 11 8 8
/-- Elements per block, and KB of the descriptor's own K. -/
def arKb (d : List W32) : Nat := pairKb (arA d) (arW d)
def arBlocks (d : List W32) : Nat := cdiv (arK d) (arKb d)
def arZero (d : List W32) : Bool := arM d = 0 || arK d = 0 || arN d = 0

/-- Cell rows of a block of `rows` K-rows (R70). -/
def cellRows (d : List W32) (rows : Nat) : Nat := if arKb d = 256 then cdiv rows 2 else rows
/-- Lw_b of a block of `rows` K-rows (R70). -/
def loadTime (d : List W32) (rows : Nat) : Nat := cellRows d rows * (if arA d = 8 then 2 else 1)

/-! ### The block plan (R70, R149, R150) -/

/-- How an ARRAY's blocks run. -/
structure Plan where
  /-- K effective, A blocks of operands, B blocks of budget. -/
  keff : Nat
  need : Nat
  budget : Nat
  deriving DecidableEq, Repr

/-- The plan of an ARRAY: without a context, A and B are its own KB. -/
def planOf (c : Core) (q : Queued) : Plan :=
  let d := q.desc
  if !arStr d then { keff := arK d, need := arBlocks d, budget := arBlocks d }
  else
    let x := tget c.str.ctx (arCtx d) {}
    if stOp x.run = 2 then
      { keff := arK d, need := if q.plan = 1 then arBlocks d else 0, budget := arBlocks d }
    else
      let kc := x.kept.length
      { keff := kc, need := cdiv kc (arKb d), budget := cdiv (stDmax x.run * arBlocks d) 256 }

/-- K-rows of block `b`; an idle block of an EXACT ARRAY counts as a full one, one of a PREDICT ARRAY as its own. -/
def planRows (d : List W32) (p : Plan) (b : Nat) : Nat :=
  if b < p.need then min (arKb d) (p.keff - b * arKb d)
  else if arT d && arStr d then min (arKb d) (arK d - b * arKb d)
  else arKb d

/-- A zero-count ARRAY, or a PREDICT ARRAY that is a no-op (R498, R150): no issue window. -/
def Queued.noWindow (q : Queued) : Bool := arZero q.desc || q.plan = 3

/-! ### Windows and holds (R120 to R122) -/

/-- The pairing's interval I and latency P (R68). -/
def arrI (d : List W32) : Nat := if fld d 0 12 4 = 8 then 4 else 1
def arrP (d : List W32) : Nat := if fld d 0 12 4 = 8 then 268 else 262

/-- Cycles in which the current block of an ARRAY issues vectors: M × I, or M zero rows of a clip (R151). -/
def Queued.vecs (q : Queued) : Nat := if q.plan = 4 then fld q.desc 10 16 10 else fld q.desc 10 16 10 * arrI q.desc

/-- Whether a tile that the ARRAY writes is held against it (R120, R122). -/
def heldFor (c : Core) (q : Queued) : Bool :=
  (arrayTiles q.desc).any fun t =>
    c.ve.ftq.any (·.1 = t) ||
      c.ve.queue.any fun v => veSrc v.desc = 1 && !veZero v.desc && v.arraysBefore < q.ord &&
        veAIdx v.desc + v.progress ≤ t && t < veAIdx v.desc + veNt v.desc

/-- Entries that the ARRAY's completion pushes. -/
def pushes (d : List W32) : Nat := if flag d 0 5 then (arrayTiles d).length else 0

/-- All of the ARRAY's blocks have started: its window's end and its completion are known. -/
def Queued.closed (q : Queued) : Bool := q.started && q.progress = q.blocks

/-- An ARRAY ahead of `q` waits at cycle `t` for room in the finished-tile queue: since when (R121). -/
def fullSince (c : Core) (q : Queued) (t : Nat) : Option Nat :=
  ((c.arr.queue.takeWhile fun x => x.ord ≠ q.ord).find? fun h =>
    h.closed && h.finish ≤ t && 4 < c.ve.ftq.length + pushes h.desc).map (·.finish)

/-- Whether the issue window of ARRAY `q` is open at cycle `t`. -/
def openAt (t : Nat) (q : Queued) : Bool := q.started && (q.progress < q.blocks || t < q.finish - arrP q.desc)

/-- Whether it is open at cycle `x`, or would have ended before `x` but stands stopped (R120, R121). -/
def stoppedOr (c : Core) (x : Nat) (q : Queued) : Bool :=
  openAt (match fullSince c q x with
    | some f => min f x
    | none => x) q || (q.started && q.stallFrom.isSome)

/-- The cycles from `f` to `x` in which no vector could issue. -/
def Queued.shift (q : Queued) (f x : Nat) : Queued :=
  let used := q.start + q.vecs + q.stall
  let st := if f < used then q.stall + (x - f) else x - q.start - q.vecs
  { q with
    stall := st
    stallFrom := none
    finish := if q.progress = q.blocks then q.start + q.vecs + st + arrP q.desc else q.finish }

/-- Lw, and the length of a full block of M vectors (R68, R70). -/
def arrLw (d : List W32) : Nat := if fld d 0 12 4 = 8 then 256 else 128
def fullBlock (d : List W32) : Nat := max (fld d 10 16 10 * arrI d) (arrLw d)

/-! ### The first block (R70, R71, R139, R150) -/

/-- A PREDICT ARRAY whose build is complete, and which has not taken its decision. -/
def Core.undecided (c : Core) (q : Queued) : Bool :=
  arStr q.desc && arT q.desc && !arZero q.desc && q.plan = 0 && (tget c.str.ctx (arCtx q.desc) {}).ready = some q.build

/-- The cycle of its decision: the end of its decode, or of its build where that is later. -/
def Core.decidedAt (c : Core) (q : Queued) : Nat := max (q.entered + 8) (tget c.str.ctx (arCtx q.desc) {}).readyAt

/-- The first ARRAY in the queue that has not opened its window and has one. -/
def arrayWaits (q : Queued) : Bool := !q.started && !q.noWindow

/-- The last blocks of the ARRAYs before `q` have started; the build of its context is complete. -/
def Core.inTurn (c : Core) (q : Queued) : Bool :=
  (c.arr.queue.takeWhile fun z => z.ord ≠ q.ord).all fun z => z.noWindow || z.closed
def Core.hasContext (c : Core) (q : Queued) : Bool :=
  !arStr q.desc || (tget c.str.ctx (arCtx q.desc) {}).ready = some q.build

/-- Whether ARRAY `q` may load its first block. -/
def Core.loadable (c : Core) (q : Queued) : Bool := c.inTurn q && c.hasContext q

/-- Its decode has ended and the shadow buffer is free (R70, R71). -/
def Core.shadowAt (c : Core) (q : Queued) : Nat := max (q.entered + 8) c.arr.shadowFree

/-- The cycle in which the first block of ARRAY `q` starts to load, and its length Lw (R70, R71, R139). -/
def Core.firstLoad (c : Core) (q : Queued) : Nat × Nat :=
  let d := q.desc
  let p := planOf c q
  (if arStr d then max (c.shadowAt q) (tget c.str.ctx (arCtx d) {}).readyAt else c.shadowAt q,
    if p.need = 0 && !(arStr d && arT d) then arrLw d else loadTime d (planRows d p 0))

/-- The cycle in which its first block has loaded; in which the issue windows before it end. -/
def Core.loadedAt (c : Core) (q : Queued) : Nat :=
  if c.arr.loadFor = some (q.ord, 0) then c.arr.loadEnd else (c.firstLoad q).1 + (c.firstLoad q).2
def Core.windowsEnd (c : Core) : Nat :=
  (c.arr.queue.filter Queued.closed).foldl (fun a z => max a (z.finish - arrP z.desc)) (max c.arr.windowEnd c.arr.resume)

/-- The cycle from which it could issue its first vector but for the holds of its tiles, and the last release of one of them (R120). -/
def Core.vectorFrom (c : Core) (q : Queued) : Nat := max (c.loadedAt q) c.windowsEnd
def Core.tilesFree (c : Core) (q : Queued) : Nat := (arrayTiles q.desc).foldl (fun a t => max a (tget c.arr.tileFree t 0)) 0

/-! ### The completion of an ARRAY (R70, R121) -/

/-- Entries that its completion needs in the finished-tile queue, and the cycle in which it completes but for them. -/
def Queued.entries (q : Queued) : Nat := if arZero q.desc then 0 else pushes q.desc
def Core.endOf (c : Core) (q : Queued) : Nat :=
  if q.noWindow then max (q.entered + 8) c.arr.lastDone else max q.finish c.arr.lastDone

/-- The completion has waited for room, which the last release gave. -/
def Core.pushLate (c : Core) (q : Queued) : Bool :=
  q.entries ≠ 0 && c.endOf q < c.ve.ftqPop && 4 < c.ve.ftq.length + q.entries + 1
def Core.pushAt (c : Core) (q : Queued) : Nat := if c.pushLate q then c.ve.ftqPop else c.endOf q

/-! ### Waits that stand (R120 to R122, R139) -/

/-- The ARRAY at the head waits for room in the finished-tile queue (R121). -/
def Core.pushWaits (c : Core) (t : Nat) : List (Nat × Nat) :=
  match c.arr.queue with
  | q :: _ =>
    if q.stallFrom.isSome || !(q.noWindow || q.closed) then []
    else [(0x0424, (if c.ve.ftq.length + q.entries ≤ 4 then min t (c.pushAt q) else t) - c.endOf q)]
  | [] => []

/-- An open window waits for the tiles that it writes (R120). -/
def Core.windowWaits (c : Core) (t : Nat) : List (Nat × Nat) :=
  match c.arr.queue.find? fun q => q.started && q.stallFrom.isSome with
  | some q => if (fullSince c q t).isSome then [] else [(0x0420, t - q.stallFrom.getD t)]
  | none => []

/-- The next ARRAY waits for its context (R139), and for the tiles that it writes (R120); not while a completion waits before it. -/
def Core.firstWaits (c : Core) (t : Nat) : List (Nat × Nat) :=
  match c.arr.queue.find? arrayWaits with
  | some q =>
    if !c.inTurn q then []
    else if !c.hasContext q then [(0x04B8, t - c.shadowAt q)]
    else
      [(0x04B8, if arStr q.desc then min t (c.firstLoad q).1 - c.shadowAt q else 0),
        (0x0420, min (if heldFor c q then t else min t (c.tilesFree q)) ((fullSince c q t).getD t) - c.vectorFrom q)]
  | none => []

/-- The next VE descriptor waits for its source (R121, R122). -/
def Core.sourceWaits (c : Core) (t : Nat) : List (Nat × Nat) :=
  match c.ve.queue.find? veWaits with
  | some q =>
    match c.veOwn q 0 0 with
    | some own => [(0x041C, (match veReadable c q with
        | some r => min t (max own r)
        | none => t) - own)]
    | none => []
  | none => []

/-- Waits of the engines up to cycle `t` that have not been counted: counter and cycles. -/
def Core.waits (c : Core) (t : Nat) : List (Nat × Nat) :=
  (c.pushWaits t ++ c.windowWaits t ++ c.firstWaits t ++ c.sourceWaits t).filter fun e => e.2 ≠ 0

end Sys2Proof.Machine
end

