-- ==== Sys2Proof/Machine/Stops.lean ====
section
/-! DEFINITION. What holds a sequencer and its engines (R75, R91, R93, R120 to R122, R139, R176), how a core stops (R78, R177), and the
issue of a descriptor (R75, R77, R78). -/

namespace Sys2Proof.Machine

/-! ### Holds (R75, R91, R93, R176) -/

/-- The longest wait of the frame so far (R176). -/
def Seq.slip (q : Seq) (w : Waiting) (cycles : Nat) : Seq :=
  if q.slipCyc < cycles then { q with slipCyc := cycles, slipTag := w.tag, slipRole := w.role, slipSem := w.sem } else q

/-- A wait that ends at cycle `t` counts its slip (R176). -/
def State.slipped (s : State) (n : Nat) (w : Waiting) (t : Nat) : State :=
  (s.countCore n 0x0544 (t - w.since)).modCore n fun c => { c with seq := c.seq.slip w (t - w.since) }

/-- Up to which core cycle a hold of core `n` has lasted: a core that is not late idles from the Develop deadline on (R52). -/
def State.holdTill (s : State) (n : Nat) : Nat :=
  if (s.getCore n).late then s.coreNow n else min (s.coreNow n) (s.deadlineCycle (coreQuad n))

/-- A NOTICE holds the next descriptor of core `n`, an ARRAY, VE or STRAINER descriptor, at cycle `t` (R93). -/
def State.noticeHolds (s : State) (n t : Nat) : Bool :=
  let q := (s.getCore n).seq
  let kind := bits (s.word32 (scratchAddr n (64 * (q.base + q.index)))).toNat 28 4
  q.state = .issuing && q.index < q.len && 2 ≤ kind && kind ≤ 4 && q.nextIssue ≤ t && t < s.noticeEnd n

/-- The hold that stands: its counter, and the cycles held so far. -/
def State.liveHold (s : State) (n : Nat) : List (Nat × Nat) :=
  let q := (s.getCore n).seq
  let t := s.holdTill n
  match q.state, q.waiting with
  | .waitQueue, _ => [(0x010C, t - q.nextIssue)]
  | .waitPhase, _ => [(0x0114, t - q.nextIssue)]
  | .waitSem, some w => [(0x0544, t - w.since)]
  | .issuing, _ => if s.noticeHolds n q.nextIssue then [(0x0110, min t (s.noticeEnd n) - q.nextIssue)] else []
  | _, _ => []

/-- The hold that stands ends without an issue: its cycles count. -/
def State.countHolds (s : State) (n : Nat) : State :=
  let q := (s.getCore n).seq
  match q.state, q.waiting with
  | .waitSem, some w => s.slipped n w (s.holdTill n)
  | _, _ => (s.liveHold n).foldl (fun s e => s.countCore n e.1 e.2) s

/-! ### Stopping a core (R78, R177) -/

/-- A DMA transfer already moving goes on, poisoned; one not started goes (R177). -/
def movingOn (l : List Queued) : List Queued := (l.filter (·.started)).map fun q => { q with poisoned := true }

/-- What the engines of core `n` have waited up to cycle `t` counts, though the wait has not ended (R120 to R122, R139). -/
def State.countWaits (s : State) (n t : Nat) : State :=
  ((s.getCore n).waits t).foldl (fun s e => s.countCore n e.1 e.2) s

/-- The engines of a core stop: their queues, the pending signals and the holds go; a DMA transfer already moving sends its
remaining beats poisoned (R78, R177). -/
def Core.stop (c : Core) : Core :=
  { c with
    seq := { c.seq with state := .stopped, pend := [], waiting := none, endDesc := none }
    arr := { c.arr with queue := [], loadFor := none }
    ve := { c.ve with queue := [] }
    str := { c.str with queue := [] }
    dma := movingOn c.dma }

/-- The engines of core `n` stop at cycle `t`: row pairs that were to issue before it have (R126), and the waits that stand count. -/
def State.haltAt (s : State) (n t : Nat) : State := ((s.veRowsTo n (some t)).countWaits n t).modCore n Core.stop

/-- Core `n` stops, and the hold that stood counts. -/
def State.stopCore (s : State) (n : Nat) : State := (s.countHolds n).haltAt n (s.holdTill n)

/-- R78: core `n` rejects a descriptor with status `code` at stream index `idx`, and stops. A core late under R51 is
done with it: LATE sets (R52). -/
def State.reject (s : State) (n : Nat) (code : Nat) (w0 idx : Nat) : State :=
  let s := (s.haltAt n (s.holdTill n)).modCore n fun c =>
    { c with seq := { c.seq with
      faultInfo := word [(code, 16, 16), (bits w0 16 8, 8, 8), (bits w0 28 4, 4, 4)]
      faultIdx := word [(s.frame16, 16, 16), (idx, 0, 15)] } }
  let s := (s.countCore n 0x012C 1).fault n fDescriptor
  if (s.getCore n).late then s.fault n fLate else s

/-- R78 as a remote refusal brings it about: the PUT or GET in the DMA queue that was refused (R168, R261, R407). -/
def State.stopFor (s : State) (n : Nat) (code : Nat) (d : Queued) : State :=
  (s.countHolds n).reject n code (d.desc.getD 0 0).toNat d.index

/-! ### Issue (R75, R77, R78) -/

/-- What every issue shares (R75, R77, R161): the fetch, check 1, and the match of the command with the descriptor.
`mine` says whether the descriptor is the command's; `k` takes the state, the descriptor, its index. -/
def State.issue (s : State) (n : Nat) (mine : List W32 → Bool)
    (k : State → List W32 → Nat → Out) : Out :=
  unit (coreOk n) "core" <|
  due s (s.issuing n && (s.getCore n).seq.index < (s.getCore n).seq.len) <| -- the sequencer issues
  let i := (s.getCore n).seq.index
  let a := scratchAddr n (64 * ((s.getCore n).seq.base + i))
  let d := s.fetch n i
  let bad := s.poisoned a 64
  let s := s.look n (wordsOf a 64)
  if bad then .next (((s.at n (s.getCore n).issueCycle).reject n eScrPoison (dw d 0) i).fault n fPoisonIn)
  else if dKind d = 0 || 11 ≤ dKind d then .next ((s.at n (s.getCore n).issueCycle).reject n eDescKind (dw d 0) i)
  else due s (mine d) (k s d i)

/-- A validated descriptor, or the rejection of R78. -/
def State.validated (s : State) (n : Nat) (d : List W32) (i : Nat) (fail : Option Nat) (k : Out) : Out :=
  match fail with
  | some code => .next ((s.at n (s.getCore n).issueCycle).reject n code (dw d 0) i)
  | none => k

end Sys2Proof.Machine
end

