-- ==== Sys2Proof/Machine/VeEngine.lean ====
section
/-! DEFINITION. The Vector Engine: its descriptor (R124, R125), schedule (R126), releases (R123) and completion
(R126, R134, R135). -/

namespace Sys2Proof.Machine

/-! ### Checks (R77, R124, R125) -/

def veFmtOk (f : Nat) : Bool := f = 0 || f = 1 || f = 8 || f = 15

/-- A scratch area of `rows` rows lies inside its buffer: the last byte of the last row. -/
def rowsIn (c : Core) (h off stride rows len : Nat) : Bool :=
  rows = 0 || len = 0 || c.inBuf h (off + (rows - 1) * stride) len

/-- The checks of a VE descriptor in the order of R77. -/
def veCheck (c : Core) (d : List W32) : Option Nat :=
  let src := veSrc d
  let dst := veDst d
  let bs := veBSrc d
  let cols := veCols d
  let n := veOutRows d
  let part1 := firstFail
    [(!resZero d (res0 ++ [(0, 6, 1), (2, 0, 8), (3, 7, 5), (4, 6, 6), (5, 0, 8), (6, 0, 8), (8, 0, 8), (10, 0, 12),
        (11, 0, 8), (12, 24, 8), (12, 3, 5), (14, 25, 5), (14, 8, 8)] ++ res15), eReserved),
      (src = 3 && !veFmtOk (veAFmt d), eDescFmt),
      (bs = 2 && !veFmtOk (veBFmt d), eDescFmt),
      ((dst = 1 || dst = 2) && !(veOutFmt d ≤ 8 || veOutFmt d = 15), eDescFmt),
      (dst = 2 && veOutFmt d ≠ 15, eDescFmt),
      (vePack d && !(src = 3 && veAFmt d = 8 && (bs = 0 || (bs = 2 && veBFmt d = 8)) && dst = 1 && veOutFmt d = 8),
        eDescFmt),
      (dst = 3 || bs = 3 || (src = 2 && veAIdx d = 3) || (bs = 1 && veBIdx d = 3) || (dst = 2 && fld d 4 4 2 = 3) ||
        64 < veProgLen d || 128 < veRows d || 128 < cols || 4 < veNt d ||
        (1 < veNt d && (src = 2 || src = 3 || dst = 2)) || sigBad d 14 false || sigBad d 15 false, eDescField)]
  let part2 := firstFail
    [(!c.valid (fld d 1 24 8) || (flag d 0 9 && !c.valid (fld d 1 16 8)) || (src = 3 && !c.valid (fld d 1 8 8)) ||
        (bs = 2 && !c.valid (fld d 1 0 8)) || (dst = 1 && !c.writable (fld d 2 24 8)) ||
        ((veZmRow d || veZmUnion d) && !c.writable (fld d 2 16 8)) ||
        (dst = 1 && isMx (veOutFmt d) && !c.writable (fld d 2 8 8)), eDescHandle),
      (!c.inBuf (fld d 1 24 8) (32 * fld d 3 12 20) (4 * veProgLen d) ||
        (flag d 0 9 && !c.inBuf (fld d 1 16 8) (32 * fld d 4 12 20) 1024) ||
        (src = 3 && !rowsIn c (fld d 1 8 8) (32 * fld d 5 12 20) (32 * fld d 7 16 16) n (veRowBytes (veAFmt d) cols)) ||
        (bs = 2 && !rowsIn c (fld d 1 0 8) (32 * fld d 6 12 20) (32 * fld d 7 0 16) n (veRowBytes (veBFmt d) cols)) ||
        (dst = 1 && !rowsIn c (fld d 2 24 8) (32 * fld d 8 12 20) (32 * fld d 9 16 16) n
          (veRowBytes (veOutFmt d) cols)) ||
        ((veZmRow d || veZmUnion d) && !c.inBuf (fld d 2 16 8) (32 * fld d 10 12 20)
          ((if veZmRow d then 16 * n else 0) + (if veZmUnion d then 16 else 0))) ||
        (dst = 1 && isMx (veOutFmt d) && !rowsIn c (fld d 2 8 8) (fld d 11 8 24) (32 * fld d 9 0 16) n (cdiv cols 32)),
        eDescBounds),
      (src = 1 && 4 < veAIdx d + veNt d, eDescAcc)]
  match part1 with
  | some e => some e
  | none => if veZero d then none else part2

/-! ### Issue -/

/-- The infusion, and the scratch words that hold it. It is fetched as it stands when the descriptor enters the queue (log entry 12). -/
def State.veProg (s : State) (n : Nat) (d : List W32) : List W32 :=
  bytesWords (s.bufBytes n (fld d 1 24 8) (32 * fld d 3 12 20) (4 * veProgLen d))
def State.veProgWords (s : State) (n : Nat) (d : List W32) : List Nat :=
  s.bufWords n (fld d 1 24 8) (32 * fld d 3 12 20) (4 * veProgLen d)

/-- Descriptors of the VE queue that have not left it: the last row pair has not issued (R75). -/
def Core.vqFill (c : Core) : Nat :=
  (c.ve.queue.filter fun q => veZero q.desc || q.progress < veNt q.desc).length

/-- R124, R77, R122: the sequencer issues a VE descriptor. -/
def execVe (core : Nat) (s : State) : Out :=
  s.issue core (fun d => dKind d = 3) fun s d i =>
  if 4 ≤ (s.getCore core).vqFill then .next (s.holdAt core .waitQueue) else
  let s := (s.queueHeld core 1).afterNotice core
  s.validated core d i (veCheck (s.getCore core) d) <|
  let cyc := (s.getCore core).issueCycle
  let s := s.issued core cyc
  .next (s.modCore core fun c => { c with
    ve := { c.ve with
      queue := c.ve.queue ++ [{ desc := d, prog := s.veProg core d, bad := (s.veProgWords core d |>.filter s.wordBad).length
                                ord := c.ve.issued + 1, arraysBefore := c.arr.issued, index := i, entered := cyc }]
      issued := c.ve.issued + 1 } })

/-! ### Start (R126) -/

/-- The lookup table loads from scratch in the 8 cycles from `t` on: entries of a poisoned word carry a mark (R131). With the cycles for
which the port holds the load. -/
def State.loadLut (s : State) (n : Nat) (q : Queued) (t : Nat) : Nat × State :=
  let h := fld q.desc 1 16 8
  let o := 32 * fld q.desc 4 12 20
  let r := s.portRead n (touchBy pVe h q.index) t (t + 8) (s.bufWords n h o 1024)
  let ws := bytesWords (r.2.1.bufBytes n h o 1024)
  (r.1, r.2.2.modCore n fun c => { c with
    ve := { c.ve with
      lut := (List.range 256).foldl (fun t i => tset t i (ws.getD i 0) 0) c.ve.lut
      lutPoison := (List.range 256).filter fun i => r.2.1.bufBad n h (o + 4 * i) 4 ≠ 0 } })

/-- The first invalid instruction of an infusion (R136). -/
def Queued.invalid (q : Queued) : Option Nat :=
  (List.range q.prog.length).find? fun i => !instOk (vePack q.desc) (q.prog.getD i 0)

/-- The fetch of an infusion finds it poisoned or invalid (R136). -/
def Queued.badProg (q : Queued) : Bool := !veZero q.desc && (q.bad ≠ 0 || q.invalid.isSome)

/-- R136: the fetch of an infusion that is poisoned or invalid stops the core. -/
def State.veStop (s : State) (n : Nat) (q : Queued) : State :=
  let s := ((s.at n (q.entered + 12)).portRead n (touchBy pVe (fld q.desc 1 24 8) q.index) q.entered (q.entered + 12)
    (s.veProgWords n q.desc)).2.2
  if q.bad ≠ 0 then (s.stopFor n eScrPoison q).fault n fPoisonIn
  else (s.stopFor n eVeProg q).modCore n fun c => { c with
    ve := { c.ve with faultInfo := word [(eVeProg, 16, 16), (dTag q.desc, 8, 8), (q.invalid.getD 0, 0, 6)] } }

/-- R126: the first row pair of VE descriptor `q` issues: at the cycle that the holds of its fetches and its source allow. -/
def State.veBegin (s : State) (n : Nat) (q : Queued) : State :=
  let d := q.desc
  let f := s.portRead n (touchBy pVe (fld d 1 24 8) q.index) q.entered (q.entered + 12) (s.veProgWords n d)
  let l := if flag d 0 9 then f.2.2.loadLut n q (max q.entered (s.getCore n).ve.lastDone) else (0, f.2.2)
  let s := l.2
  let x := ((s.getCore n).veStart q f.1 l.1).getD (0, 0)
  ((s.countCore n 0x041C (x.2 - x.1)).at n x.2).modCore n fun c => { c with
    ve := { c.ve with
      regs := if flag d 0 10 then [] else c.ve.regs
      queue := modFirst veWaits (fun q => { q with
        started := true, start := x.2, finish := x.2 + veNp d * veCeff q.prog d + 16 }) c.ve.queue } }

/-- R126, R136: the first row pair of the next VE descriptor issues; an invalid or poisoned infusion stops the core at its fetch, unless
the descriptor before it starts first. -/
def execVeRowsStart (core : Nat) (s : State) : Out :=
  unit (coreOk core) "core" <|
  let c := s.getCore core
  match c.ve.queue.find? veWaits with
  | none => .next s -- nothing, unless a VE descriptor waits for its first row pair
  | some q =>
    match c.veStart q 0 0, c.ve.queue.find? Queued.badProg with
    | some x, some b =>
      .next (if b.ord ≠ q.ord && x.2 < b.entered + 12 then s.veBegin core q else s.veStop core b)
    | some _, none => .next (s.veBegin core q)
    | none, some b => .next (s.veStop core b)
    | none, none => .next s -- nothing, unless the source is readable and the previous descriptor's last row pair has issued

/-! ### What a release does to the array (R120, R121) -/

/-- Tile `tile` is released at cycle `x`, `c0` being the core before: the open window goes on, or waits on. -/
def State.resumeArray (s : State) (n : Nat) (c0 : Core) (tile x : Nat) : State :=
  let s := s.modCore n fun c => { c with arr := { c.arr with tileFree := tset c.arr.tileFree tile x 0 } }
  let c := s.getCore n
  match c.arr.queue.find? (stoppedOr c0 x) with
  | none => s
  | some q =>
    let full := fullSince c0 q x
    match (match q.stallFrom with
      | some f => some f
      | none => full.map (max · q.start)) with
    | none => s
    | some f =>
      let waits := heldFor c q || (fullSince c q x).isSome
      let s := if waits || full.isSome then s else s.countCore n 0x0420 (x - f)
      s.modCore n fun c => { c with arr := { c.arr with
        queue := modFirst (stoppedOr c0 x) (fun q => if waits then { q with stallFrom := some f } else q.shift f x) c.arr.queue } }

/-- R123: the next source tile of the running VE descriptor is released, the cycle after its last row pair issues.
Its row pairs that have not acted yet act here (log entry 12). The word 14 signal fires with the last tile. -/
def execVeRelease (core : Nat) (s : State) : Out :=
  unit (coreOk core) "core" <|
  let c := s.getCore core
  match c.ve.queue.find? veRuns with
  | none => .next s -- nothing, unless a VE descriptor issues row pairs
  | some q =>
    let d := q.desc
    let k := q.progress
    let ceff := veCeff q.prog d
    let tile := if veSrc d = 0 then ((c.ve.ftq.head?.map (·.1)).getD 0) else veAIdx d + k
    let s := s.veRowsTo core none
    let start := (((s.getCore core).ve.queue.find? veRuns).map (·.start)).getD q.start
    let last := k + 1 = veNt d
    let rel := start + (k + 1) * veRp d * ceff - ceff + 1
    let s := (s.at core rel).modCore core fun c => { c with
      ve := { c.ve with
        queue := modFirst veRuns (fun q => { q with progress := k + 1, rows := 0 }) c.ve.queue
        ftq := if veSrc d = 0 then c.ve.ftq.drop 1 else c.ve.ftq
        ftqPop := if veSrc d = 0 then rel else c.ve.ftqPop
        lastIssue := if last then rel - 1 else c.ve.lastIssue
        lastCost := if last then ceff else c.ve.lastCost }
      seq := if last && 4 ≤ c.vqFill then c.seq.free 1 (rel - 1) else c.seq }
    let s := if veSrc d ≤ 1 then s.resumeArray core c tile rel else s
    .next (if last then s.signal core (dw d 14) else s)

/-! ### Completion -/

/-- Whether an output value is zero, or NaN, in OUT_FMT (R130, R135). -/
def outZero (fmt : Nat) (v : W32) : Bool :=
  if fmt = 15 then (ofF32 v).isZero
  else if isMx fmt && bits v.toNat 8 8 = 255 then false
  else (elemOf fmt (bits v.toNat 0 (elemBits fmt))).isZero
def outNan (fmt : Nat) (v : W32) : Bool :=
  if fmt = 15 then (ofF32 v).isNan
  else (isMx fmt && bits v.toNat 8 8 = 255) || (elemOf fmt (bits v.toNat 0 (elemBits fmt))).isNan

/-- NaN outputs of a row: an MX block with scale 0xFF counts as 32 (R130). -/
def nanCount (fmt : Nat) (vs : List W32) : Nat :=
  if isMx fmt then
    ((List.range (cdiv vs.length 32)).map fun g =>
      let b := (vs.drop (32 * g)).take 32
      if bits (b.getD 0 0).toNat 8 8 = 255 then 32 else (b.filter (outNan fmt)).length).foldl (· + ·) 0
  else (vs.filter (outNan fmt)).length

/-- A 16-byte zero map (R135): bit n set where column n is zero, or n is at or above COLS. -/
def mapBytes (f : Nat → Bool) : List Byte :=
  (List.range 16).map fun b => BitVec.ofNat 8
    ((List.range 8).foldl (fun a i => if f (8 * b + i) then a + 2 ^ i else a) 0)
def rowMap (fmt : Nat) (vs : List W32) : List Byte :=
  mapBytes fun i => match vs[i]? with
    | some v => outZero fmt v
    | none => true
def unionMap (fmt : Nat) (rows : List (List W32)) : List Byte :=
  mapBytes fun i => rows.all fun vs => match vs[i]? with
    | some v => outZero fmt v
    | none => true

/-- Bytes at offsets of a buffer, all poisoned or none. -/
def State.bufParts (s : State) (n h o : Nat) (bs : List Byte) (bad : Bool) : List (Nat × Byte × Bool) :=
  (List.range bs.length).map fun i => (s.bufAddr n h (o + i), bs.getD i 0, bad)

/-- An output row in memory: where it starts, and its bytes (R134), to whole words with zeros (R160). -/
def veOutOff (d : List W32) (o : Nat × Nat × Bool × List W32) : Nat :=
  32 * fld d 8 12 20 + (o.1 * veRows d + o.2.1) * (32 * fld d 9 16 16)
def veOutBytes (f : Nat) (vs : List W32) : List Byte :=
  if f = 15 then wordBytes vs else packElems f (vs.map fun v => bits v.toNat 0 (elemBits f))

/-- The scales of an output row (R134). -/
def State.veScales (s : State) (n : Nat) (d : List W32) (o : Nat × Nat × Bool × List W32) : List (Nat × Byte × Bool) :=
  if isMx (veOutFmt d) then
    s.bufParts n (fld d 2 8 8) (fld d 11 8 24 + (o.1 * veRows d + o.2.1) * (32 * fld d 9 0 16))
      ((List.range (cdiv o.2.2.2.length 32)).map fun g => BitVec.ofNat 8 (bits (o.2.2.2.getD (32 * g) 0).toNat 8 8)) o.2.2.1
  else []

/-- One output row to a tile buffer. The poison of a tile buffer is one mark a row: DESIGN CHOICE, log entry 119. -/
def State.veStoreTb (s : State) (n : Nat) (q : Queued) (o : Nat × Nat × Bool × List W32) : State :=
  let b := fld q.desc 4 4 2
  let e0 := b * 16384 + o.2.1 * 128
  s.modCore n fun c => { c with
    ve := { c.ve with
      tb := (List.range o.2.2.2.length).foldl (fun t i => tset t (e0 + i) (o.2.2.2.getD i 0) 0) c.ve.tb
      flips := c.ve.flips.filter fun e => e.1 < e0 || e0 + o.2.2.2.length ≤ e.1
      tbPoison := if o.2.2.1 then nadd c.ve.tbPoison (b * 128 + o.2.1) else ndel c.ve.tbPoison (b * 128 + o.2.1) } }

/-- Zero maps of a descriptor (R135): row maps, then the union map; a map of a poisoned row marks its word. -/
def State.veMaps (s : State) (n : Nat) (q : Queued) : List (Nat × Byte × Bool) :=
  let d := q.desc
  let f := veOutFmt d
  let h := fld d 2 16 8
  let o := 32 * fld d 10 12 20
  (if veZmRow d then
      q.outs.flatMap fun r => s.bufParts n h (o + 16 * (r.1 * veRows d + r.2.1)) (rowMap f r.2.2.2) r.2.2.1
    else []) ++
  (if veZmUnion d then
    s.bufParts n h (o + (if veZmRow d then 16 * veOutRows d else 0)) (unionMap f (q.outs.map (·.2.2.2))) q.poisoned
  else [])

/-- The scales of the output rows of a descriptor, with its zero maps: words that do not start a row. -/
def State.veParts (s : State) (n : Nat) (q : Queued) : List (Nat × Byte × Bool) :=
  if veDst q.desc = 1 then q.outs.flatMap (s.veScales n q.desc) else []

/-- The words that a VE descriptor writes go through its port as its row pairs issue, so that all of them stand when it completes, 16
cycles after the last (R126): the holds, and the state with them noted. -/
def State.vePorts (s : State) (n : Nat) (q : Queued) : Nat × State :=
  let d := q.desc
  let h := fld d 2 24 8
  let words (l : List (Nat × Byte × Bool)) : List Nat := (l.map fun e => e.1 / 32).eraseDups
  let put (s : State) (h : Nat) (ws : List Nat) : Served × State :=
    s.portWrite n (touchBy pVe h q.index) q.start (q.finish - 16) ws
  let a := put s h (if veDst d = 1 then
    q.outs.flatMap fun o => s.bufWords n h (veOutOff d o) (veOutBytes (veOutFmt d) o.2.2.2).length else [])
  let b := put a.2 (fld d 2 16 8) (words (s.veMaps n q))
  let c := put b.2 (fld d 2 8 8) (words (s.veParts n q))
  (a.1.hold + b.1.hold + c.1.hold, c.2)

/-- R126, R134, R135: outputs, zero maps and scales of a descriptor that completes. -/
def State.veStore (s : State) (n : Nat) (q : Queued) : State :=
  let d := q.desc
  let f := veOutFmt d
  let h := fld d 2 24 8
  let parts := s.veParts n q
  let maps := s.veMaps n q
  let s := if veDst d = 1 then q.outs.foldl (fun s o => s.bufWrite n h (veOutOff d o) (veOutBytes f o.2.2.2) o.2.2.1) s
    else if veDst d = 2 then q.outs.foldl (fun s o => s.veStoreTb n q o) s else s
  let s := (s.putMarked parts).putMarked maps
  (s.countCore n 0x0428 ((q.outs.map fun o => (o.2.2.2.filter (outZero f)).length).foldl (· + ·) 0)).countCore n 0x042C
    ((q.outs.map fun o => nanCount f o.2.2.2).foldl (· + ·) 0)

/-- R126, R498: the VE descriptor at the head completes; word 15 fires (word 14 too for a zero count). -/
def execVeComplete (core : Nat) (s : State) : Out :=
  unit (coreOk core) "core" <|
  let c := s.getCore core
  match c.ve.queue with
  | [] => .next s -- nothing, unless a VE descriptor completes
  | q :: _ =>
    let d := q.desc
    due s (veZero d || (q.started && q.progress = veNt d)) <| -- the VE descriptor has issued its last row pair
    -- its writes go through the port, which may hold the completion (R163)
    let w := if veZero d then (0, s) else s.vePorts core q
    let cyc := if veZero d then max (q.entered + 12) c.ve.lastDone else q.finish + 2 * w.1
    -- row pairs that the next descriptor issues before this cycle read what stands before these outputs
    let s := ((if veZero d then w.2 else w.2.veRowsTo core (some cyc)).at core cyc).modCore core fun c => { c with
      ve := { c.ve with queue := c.ve.queue.drop 1, done := c.ve.done + 1, lastDone := cyc }
      seq := if veZero d && 4 ≤ c.vqFill then c.seq.free 1 cyc else c.seq }
    let s := if veZero d then s.signal core (dw d 14) else s.veStore core q
    .next (s.signal core (dw d 15))

end Sys2Proof.Machine
end

