-- ==== Sys2Proof/Machine/Strainer.lean ====
section
/-! DEFINITION. The Strainer: its descriptor (R153, R154), the contexts (R138, R139), EXACT and PREDICT builds (R141 to
R146), KEEP (R147) and their timing (R155). -/

namespace Sys2Proof.Machine

/-! ### Ranges (R154) -/

/-- A range that a build reads or writes: handle, offset, length, written. -/
abbrev Range := Nat × Nat × Nat × Bool

/-- Rows of `len` bytes at a stride, as the range from the first byte to the last. -/
def rowsSpan (rows stride len : Nat) : Nat := if rows = 0 || len = 0 then 0 else (rows - 1) * stride + len

def exactRanges (d : List W32) : List Range :=
  let m := stM d
  let k := stK d
  let row := rowsSpan m (stStride d) (packed (stA d) k)
  [(fld d 1 24 8, off32 d 3, row, false), (fld d 1 16 8, off32 d 5, mapSpan m (cdiv k 128), false),
    (fld d 1 8 8, off32 d 6, row, true), (fld d 1 0 8, off32 d 7, bitmapSpan k, true), (fld d 2 24 8, 0, 0, false)] ++
  (if stForm d then [(fld d 1 16 8, off32 d 8, bitmapSpan k, false)] else []) ++
  (if isMx (stA d) then [(fld d 2 8 8, off32 d 11, m * scaleRow k, false), (fld d 2 0 8, off32 d 12, m * scaleRow k, true)]
    else []) ++
  (if isMx (stW d) then [(fld d 2 16 8, 0, 0, false)] else [])

def predictRanges (d : List W32) : List Range :=
  let m := stM d
  let k := stK d
  [(fld d 1 24 8, off32 d 3, rowsSpan m (stStride d) (packed (stA d) k), false),
    (fld d 2 24 8, off32 d 9, stNcb d * cdiv k 128 * 16384, false), (fld d 1 0 8, off32 d 7, bitmapSpan (stNtot d), true)] ++
  (if isMx (stA d) then [(fld d 2 8 8, off32 d 11, m * scaleRow k, false)] else []) ++
  (if isMx (stW d) then [(fld d 2 16 8, off32 d 10, stNcb d * (128 * cdiv k 32), false)] else [])

/-- KEEP's row maps: NARR column blocks of its context (R147). -/
def keepRanges (d x : List W32) : List Range :=
  [(fld d 1 16 8, off32 d 5, mapSpan (stM x) (stNarr x), false)]

def rangeHandleBad (c : Core) (r : Range) : Bool := !(if r.2.2.2 then c.writable r.1 else c.valid r.1)
def rangeBoundsBad (c : Core) (r : Range) : Bool := r.2.2.1 ≠ 0 && !c.inBuf r.1 r.2.1 r.2.2.1

/-- The 32-byte words of a context that a frame's builds may use: built in frame `f` by a PREDICT build. -/
def keepCtx (c : Core) (d : List W32) (f : W64) : Bool :=
  let x := tget c.str.ctx (stCtx d) {}
  x.built = some f && stOp x.desc = 2

/-! ### Checks (R77, R141, R146, R149, R153, R154) -/

def stRes : List (Nat × Nat × Nat) :=
  res0 ++ [(3, 0, 12), (4, 0, 12), (5, 0, 12), (6, 0, 12), (7, 0, 12), (8, 0, 12), (9, 0, 12), (10, 10, 2), (11, 9, 3),
    (13, 30, 2)] ++ res15

def stCheck (c : Core) (f : W64) (d : List W32) : Option Nat :=
  let op := stOp d
  let build := op = 1 || op = 2
  let b := cdiv (stDmax d * stNcb d) 256
  let part1 := firstFail
    [(!resZero d stRes, eReserved),
      (build && !pairOk (stA d) (stW d), eDescFmt),
      (op = 1 && stForm d && !(stA d ≤ 1 || stA d = 8), eDescFmt),
      (op = 2 && !oneByte (stW d), eDescFmt),
      (!build && op ≠ 3, eDescField),
      (op = 3 && !keepCtx c d f, eDescField),
      (build && stDmax d = 0, eZero),
      (build && (512 < stM d || 256 < stDmax d), eDescField),
      (op = 2 && (stStripK d < 2 || 256 < stStripK d || stNarr d < b || stNcb d < stNarr d || 4096 < stNeg d + stNcb d),
        eDescField),
      (sigBad d 15 false, eDescField)]
  match part1 with
  | some e => some e
  | none =>
    if stZero d then none else
    let rs := if op = 1 then exactRanges d else if op = 2 then predictRanges d
      else keepRanges d (tget c.str.ctx (stCtx d) {}).desc
    firstFail [(rs.any (rangeHandleBad c), eDescHandle), (rs.any (rangeBoundsBad c), eDescBounds)]

/-! ### Issue -/

/-- The contexts as the next frame finds them: stale, and no ARRAY has run on them in it (R138, R139). -/
def StrUnit.stale (x : StrUnit) : Tab Ctx :=
  (x.ctx.map fun (e : Nat × Ctx) => (e.1, { e.2 with ready := none, arrDone := 0 })).filter fun (e : Nat × Ctx) => e.2 ≠ {}

/-- What the three OPs share (R75, R138): a build makes the context that of this frame and restarts i at 0. -/
def State.strIssue (s : State) (n : Nat) (mine : Nat → Bool) : Out :=
  s.issue n (fun d => dKind d = 4 && mine (stOp d)) fun s d i =>
  if 4 ≤ (s.getCore n).str.queue.length then .next (s.holdAt n .waitQueue) else
  let s := (s.queueHeld n 2).afterNotice n
  s.validated n d i (stCheck (s.getCore n) s.pmc.frame d) <|
  let cyc := (s.getCore n).issueCycle
  let f := s.pmc.frame
  let s := s.issued n cyc
  .next (s.modCore n fun c =>
    let x := tget c.str.ctx (stCtx d) {}
    let ctx := if stOp d = 3 then c.str.ctx
      else tset c.str.ctx (stCtx d) { x with built := some f, desc := d, arrays := 0 } {}
    { c with
      str := { c.str with
        queue := c.str.queue ++ [{ desc := d, ord := c.str.issued + 1, index := i, entered := cyc }]
        issued := c.str.issued + 1
        ctx := ctx } })

/-- R141, R149, R153: an EXACT build. A STRAINER descriptor of an OP that is none of the three is this command's too:
its validation rejects it. -/
def execStrainerExact (core : Nat) (s : State) : Out :=
  s.strIssue core fun op => op ≠ 2 && op ≠ 3
/-- R145, R146, R149, R153: a PREDICT build. -/
def execStrainerPredict (core : Nat) (s : State) : Out :=
  s.strIssue core fun op => op = 2
/-- R147, R153: a KEEP. -/
def execStrainerKeep (core : Nat) (s : State) : Out :=
  s.strIssue core fun op => op = 3

/-! ### Reading -/

/-- The scratch words of a range. -/
def State.rangeWords (s : State) (n : Nat) (r : Range) : List Nat := s.bufWords n r.1 r.2.1 r.2.2.1

/-- Reads of ranges through a port by a descriptor, each by its handle. -/
def State.rangeReads (s : State) (n port index : Nat) (l : List Range) : List (Touch × List Nat) :=
  l.map fun r => (touchBy port r.1 index, s.rangeWords n r)

/-- A bit of a bitmap at an offset of a buffer (R142). -/
def State.bitAt (s : State) (n h o k : Nat) : Bool := bitOf (s.byte (s.bufAddr n h (o + k / 8))).toNat (k % 8)

/-- Position `p` is zero in the row map of vector `j` (R141). -/
def State.mapZero (s : State) (n h o m j p : Nat) : Bool := s.bitAt n h (o + p / 128 * (32 * cdiv m 2) + 16 * j) (p % 128)

/-- Position `p` is zero in all `m` vectors. -/
def State.zeroAll (s : State) (n h o m p : Nat) : Bool := (List.range m).all fun j => s.mapZero n h o m j p

/-- A bitmap's bytes (R142). -/
def bitmapBytes (k : Nat) (on : Nat → Bool) : List Byte :=
  (List.range (bitmapSpan k)).map fun b => BitVec.ofNat 8
    ((List.range 8).foldl (fun a i => if 8 * b + i < k && on (8 * b + i) then a + 2 ^ i else a) 0)

/-! ### EXACT (R141, R142) -/

/-- The channels present in the input, in ascending order: all K, or those of the input bitmap. -/
def State.exactInput (s : State) (n : Nat) (d : List W32) : List Nat :=
  if stForm d then (List.range (stK d)).filter fun k => s.bitAt n (fld d 1 16 8) (off32 d 8) k
  else List.range (stK d)

/-- The kept channels, each with its position in the input. With an MX format the unit is the group of 32; the input of IN_FORM = 1 may
hold only some channels of a group that is kept, and the others are presented as zeros: DESIGN CHOICE, log entry 117. -/
def State.exactKept (s : State) (n : Nat) (d : List W32) : List (Option Nat × Nat) :=
  let inp := s.exactInput n d
  let live (p : Nat) : Bool := !s.zeroAll n (fld d 1 16 8) (off32 d 5) (stM d) p
  let ps := (List.range inp.length).zip inp
  if isMx (stA d) || isMx (stW d) then
    let gs := ((ps.filter fun e => live e.1).map (·.2 / 32)).eraseDups
    ((List.range (stK d)).filter fun k => gs.contains (k / 32)).map fun k => (inp.findIdx? (· = k), k)
  else (ps.filter fun e => live e.1).map fun e => (some e.1, e.2)

/-- The bits of element `i` of a packed row of a buffer. -/
def State.elemBitsAt (s : State) (n h o f i : Nat) : Nat :=
  let b := elemBits f * i
  bits (leNat (s.bufBytes n h (o + b / 8) (cdiv (b % 8 + elemBits f) 8))) (b % 8) (elemBits f)

/-- Bytes of a row, written in whole words (R160). -/
def padWord (bs : List Byte) : List Byte := bs ++ List.replicate (cdiv bs.length 32 * 32 - bs.length) 0

/-- A row's bytes by Panel Address. -/
def State.placed (s : State) (n h o : Nat) (bs : List Byte) : List (Nat × Byte) :=
  (List.range bs.length).map fun i => (s.bufAddr n h (o + i), bs.getD i 0)

/-- What an EXACT build writes: compacted vectors, their scales, the keep bitmap. -/
def State.exactWrites (s : State) (n : Nat) (d : List W32) (kept : List (Option Nat × Nat)) : List (Nat × Byte) :=
  let ch := kept.map (·.2)
  ((List.range (stM d)).flatMap fun m =>
    s.placed n (fld d 1 8 8) (off32 d 6 + m * stStride d) (padWord (packElems (stA d)
      (kept.map fun e => match e.1 with
        | some i => s.elemBitsAt n (fld d 1 24 8) (off32 d 3 + m * stStride d) (stA d) i
        | none => 0)))) ++
  (if isMx (stA d) then (List.range (stM d)).flatMap fun m =>
      s.placed n (fld d 2 0 8) (off32 d 12 + m * scaleRow ch.length) (padWord ((List.range (cdiv ch.length 32)).map fun g =>
        s.byte (s.bufAddr n (fld d 2 8 8) (off32 d 11 + m * scaleRow (stK d) + (ch.getD (32 * g) 0) / 32))))
    else []) ++
  s.placed n (fld d 1 0 8) (off32 d 7) (bitmapBytes (stK d) ch.contains)

/-- Bytes that an EXACT build moves (R155): vectors in whole words, row maps of the blocks present, bitmaps, scales. -/
def exactBytes (d : List W32) (inp kept : Nat) : Nat :=
  let m := stM d
  let row (k : Nat) : Nat := 32 * cdiv (packed (stA d) k) 32
  m * row inp + mapSpan m (cdiv inp 128) + (if stForm d then bitmapSpan (stK d) else 0) +
    (if isMx (stA d) then m * scaleRow (stK d) + m * scaleRow kept else 0) + m * row kept + bitmapSpan (stK d)

/-! ### PREDICT (R144, R145) -/

/-- The Negative entry that a frame `f` reads, all zeros when stale: its mask, and whether it was stale. -/
def negRead (c : Core) (f : W64) (e : Nat) : BitVec 128 × Bool :=
  let x := tget c.str.neg ((f - 1).toNat % 2 * 4096 + e) {}
  if x.valid && x.tag = (f - 1).setWidth 32 then (x.mask, false) else (0, true)

/-- Column `n`'s Negative bit. -/
def negBit (c : Core) (f : W64) (base n : Nat) : Bool := (negRead c f (base + n / 128)).1.getLsbD (n % 128)

/-- ROT of an operation's statistics entry (R158). -/
def statRot (c : Core) (x : Nat) : Nat := bits (tget c.str.stats (8 * x + 6) 0).toNat 15 8

/-- The columns of a PREDICT build: computed and skipped, strip columns among the computed, before the cap. -/
def predictSort (c : Core) (f : W64) (d : List W32) : List Nat × List Nat × List Nat :=
  let cols := List.range (stNtot d)
  let zero := cols.filter (negBit c f (stNeg d))
  let strip := ((List.range zero.length).zip zero).filterMap fun e =>
    if (e.1 + statRot c (stRot d)) % stStripK d = 0 then some e.2 else none
  (cols.filter fun n => !zero.contains n || strip.contains n, zero.filter fun n => !strip.contains n, strip)

/-! ### Start and completion (R155) -/

/-- The cycle by which `b` bytes have moved from cycle `t` on: 256 B a cycle, 128 while a gather runs. -/
def moveEnd : List (Nat × Nat) → Nat → Nat → Nat
  | [], t, b => t + cdiv b 256
  | g :: r, t, b =>
    let lo := max g.1 t
    let free := (lo - t) * 256
    if b ≤ free then t + cdiv b 256
    else
      let slow := (g.2 - lo) * 128
      if b - free ≤ slow then lo + cdiv (b - free) 128 else moveEnd r (max t g.2) (b - free - slow)

/-- What an EXACT build reads through its port: row maps, vectors, the input bitmap; and its scales, on the sideband (R140, R161). -/
def exactReads (d : List W32) (inp : Nat) : List Range :=
  [(fld d 1 16 8, off32 d 5, mapSpan (stM d) (cdiv inp 128), false)] ++
  ((List.range (stM d)).map fun m => (fld d 1 24 8, off32 d 3 + m * stStride d, packed (stA d) inp, false)) ++
  (if stForm d then [(fld d 1 16 8, off32 d 8, bitmapSpan (stK d), false)] else [])
def exactScales (d : List W32) : List Range :=
  if isMx (stA d) then [(fld d 2 8 8, off32 d 11, stM d * scaleRow (stK d), false)] else []

/-- What the start of a descriptor gives: the state, its context, bytes to write, words to mark, bytes that it moves, holds. -/
structure Built where
  st : State
  ctx : Ctx
  writes : List (Nat × Byte) := []
  bad : List Nat := []
  bytes : Nat := 0
  hold : Nat := 0

/-- An EXACT build's results; it starts at cycle `t`. -/
def State.buildExact (s : State) (n : Nat) (d : List W32) (x : Ctx) (index t : Nat) : Built :=
  let inp := (s.exactInput n d).length
  let bytes := exactBytes d inp (s.exactKept n d).length
  let reads := s.rangeReads n pStrainer index (exactReads d inp)
  let side := (exactScales d).flatMap (s.rangeWords n)
  let r := s.portReads n (t + 8) (t + 8 + cdiv bytes 256) reads
  let v := r.2.1
  let inputs := v.exactInput n d
  let kept := v.exactKept n d
  let bad := reads.any (fun e => e.2.any v.wordBad) || side.any s.wordBad
  let ws := v.exactWrites n d kept
  let gone := inputs.filter fun k => !kept.any fun e => e.2 = k
  { st := ((r.2.2.look n side).countCore n 0x0490 kept.length).countCore n 0x0494 gone.length
    ctx := { x with poisoned := bad, kept := kept.map (·.2), skipped := [], strip := [], clipped := [] }
    writes := ws
    bad := if bad then (ws.map (·.1 / 32)).eraseDups else []
    bytes := exactBytes d inputs.length kept.length
    hold := r.1 }

/-- A PREDICT build's results. -/
def State.buildPredict (s : State) (n : Nat) (d : List W32) (x : Ctx) : Built :=
  let c := s.getCore n
  let p := predictSort c s.pmc.frame d
  let cap := stNarr d * 128
  let kept := p.1.take cap
  let past := p.1.drop cap
  let stale := ((upTo (stNeg d) (stNcb d)).filter fun e => (negRead c s.pmc.frame e).2).length
  let s := (s.countCore n 0x04BC stale).countCore n 0x04B4 past.length
  { st := if past.isEmpty then s else s.modCore n fun c => { c with str := { c.str with clipped := true } }
    ctx := { x with poisoned := false, kept := kept, skipped := p.2.1, strip := p.2.2, clipped := past }
    writes := s.placed n (fld d 1 0 8) (off32 d 7) (bitmapBytes (stNtot d) kept.contains)
    bytes := bitmapSpan (stNtot d) }

/-- R139, R140, R155: the head of the Strainer queue starts: it reads its inputs; its results wait for completion. -/
def execStrainerBuildStart (core : Nat) (s : State) : Out :=
  unit (coreOk core) "core" <|
  let c := s.getCore core
  match c.str.queue with
  | [] => .next s -- nothing, unless the Strainer queue holds a descriptor
  | q :: rest =>
    let d := q.desc
    let x := tget c.str.ctx (stCtx d) {}
    let build := stOp d ≠ 3
    due s (!q.started) <| -- the head of the Strainer queue has not started
    due s (!build || !(c.arr.queue.any fun a => flag a.desc 0 7 && fld a.desc 11 8 8 = stCtx d && a.index < q.index)) <|
    -- every ARRAY issued earlier on the context has completed
    let st := max (max q.entered c.str.lastDone) (if build then x.arrDone else 0)
    let s := s.at core st
    let q := { q with started := true, start := st }
    if !build then
      let len := mapSpan (stM x.run) (cdiv x.kept.length 128)
      let ws := s.bufWords core (fld d 1 16 8) (off32 d 5) len
      let t0 := st + 8 + stNcb x.run
      let r := s.portRead core (touchBy pStrainer (fld d 1 16 8) q.index) t0 (t0 + cdiv len 256) ws
      let zeros := (List.range x.kept.length).filter fun p =>
        r.2.1.zeroAll core (fld d 1 16 8) (off32 d 5) (stM x.run) p
      let q := { q with
        start := st + 2 * r.1
        progress := stM x.run * 16 * cdiv x.kept.length 128
        poisoned := ws.any r.2.1.wordBad
        badWords := zeros }
      .next (r.2.2.modCore core fun c => { c with str := { c.str with queue := q :: rest } })
    else
      let r : Built := if stZero d then { st := s, ctx := { x with poisoned := false, kept := [], skipped := [], strip := [], clipped := [] } }
        else if stOp d = 1 then s.buildExact core d x q.index st else s.buildPredict core d x
      let q := { q with writes := r.writes, badWords := r.bad, progress := r.bytes, start := st + 2 * r.hold }
      .next (r.st.modCore core fun c => { c with
        str := { c.str with
          queue := q :: rest
          ctx := tset c.str.ctx (stCtx d) { r.ctx with run := d, ready := none } {} } })

/-- The new Negative of entry `e` (R147): computed columns by their row maps, skipped ones 1, clipped ones as before; the bits beyond NTOT 0
(DESIGN CHOICE, log entry 143). -/
def keepMask (c : Core) (f : W64) (x : Ctx) (zeros : List Nat) (e : Nat) : BitVec 128 :=
  let base := stNeg x.run
  BitVec.ofNat 128 ((List.range 128).foldl (fun a i =>
    let n := 128 * e + i
    let on := if stNtot x.run ≤ n then false
      else if x.clipped.contains n then negBit c f base n
      else if x.skipped.contains n then true
      else zeros.contains n
    if on then a + 2 ^ i else a) 0)

/-- KEEP's effects at completion (R147, R148, R158). `zeros` are compacted positions zero in all rows. -/
def State.keepDone (s : State) (n : Nat) (x : Ctx) (zeros : List Nat) : State :=
  let c := s.getCore n
  let f := s.pmc.frame
  let d := x.run
  let zc := zeros.map fun p => x.kept.getD p 0
  let comp := x.kept.filter fun k => !x.clipped.contains k
  let strip := comp.filter x.strip.contains
  let miss := (strip.filter fun k => !zc.contains k).length
  let skip := x.skipped.length
  let e := 8 * stRot d
  let rot := (statRot c (stRot d) + 1) % stStripK d
  let add (t : Tab W32) (i v : Nat) : Tab W32 := tset t (e + i) (tget t (e + i) 0 + BitVec.ofNat 32 v) 0
  let est := if strip.length = 0 then 0 else (2 * skip * miss + strip.length) / (2 * strip.length)
  let s := (((s.countCore n 0x0498 comp.length).countCore n 0x049C skip).countCore n 0x04A0 strip.length).countCore n 0x04A4 miss
  s.modCore n fun c =>
    let t := add (add (add (add c.str.stats 0 strip.length) 1 miss) 2 skip) 3 x.clipped.length
    let t := tset t (e + 4) (word [(strip.length, 16, 16), (miss, 0, 16)]) 0
    let t := tset t (e + 5) (word [(skip, 16, 16), (est, 0, 16)]) 0
    let t := tset t (e + 6) (word [(stStripK d, 23, 9), (rot, 15, 8)]) 0
    let t := tset t (e + 7) (f.setWidth 32) 0
    { c with
      str := { c.str with
        stats := t
        neg := (List.range (stNcb d)).foldl (fun t i =>
          tset t (f.toNat % 2 * 4096 + stNeg d + i)
            { mask := keepMask c f x zc i, tag := f.setWidth 32, valid := true } {}) c.str.neg } }

/-- The words that a build writes go through its port, by OUT_HANDLE, KEEP_HANDLE and OS_HANDLE, as it moves its bytes, so that all of them
stand when it completes at cycle `t` (R142, R155, R165): the holds, and the state with them noted. -/
def State.strPorts (s : State) (n : Nat) (q : Queued) (t : Nat) : Nat × State :=
  let ws := (q.writes.map fun w => w.1 / 32).eraseDups
  let c := s.getCore n
  let inside (h w : Nat) : Bool :=
    scratchAddr n (c.cad h).base ≤ 32 * w && 32 * w < scratchAddr n ((c.cad h).base + (c.cad h).size)
  let d := q.desc
  let hs := if stOp d = 1 then [fld d 1 8 8, fld d 1 0 8, fld d 2 0 8] else [fld d 1 0 8]
  let by_ (w : Nat) : Nat := (hs.find? fun h => inside h w).getD 0
  hs.eraseDups.foldl (fun (r : Nat × State) h =>
    let p := r.2.portWrite n (touchBy pStrainer h q.index) (q.start + 8) (t - 16) (ws.filter fun w => by_ w = h)
    (r.1 + p.1.hold, p.2)) (0, s)

/-- What a completed build writes. -/
def State.strWrite (s : State) (q : Queued) : State :=
  s.putMarked (q.writes.map fun w => (w.1, w.2, q.badWords.contains (w.1 / 32)))

/-- A surplus charge on the make-up slice (R150): granted, with the charge; or refused. -/
def State.muCharge (s : State) (n cost : Nat) : Bool × State :=
  let c := s.getCore n
  if c.str.muUsed + cost ≤ c.str.mu then
    (true, (s.countCore n 0x04AC cost).modCore n fun c => { c with str := { c.str with muUsed := c.str.muUsed + cost } })
  else (false, s)

/-- The decision for a PREDICT ARRAY of column block `i` at its decode (R149 to R151): 1 compute, 2 idle, 3 no-op,
4 clip, with what it charges and counts. -/
def State.planPredict (s : State) (n : Nat) (d : List W32) (i : Nat) (ctx : Nat) : Nat × State :=
  let x := tget (s.getCore n).str.ctx ctx {}
  let b := cdiv (stDmax x.run * stNcb x.run) 256
  let kb := cdiv (stK x.run) 128
  if i < b then (if 128 * i < x.kept.length then (1, s) else (2, s))
  else if x.kept.length ≤ 128 * i then (3, s)
  else
    let r := s.muCharge n (kb * fullBlock d)
    if r.1 then (1, r.2)
    else
      let cols := (x.kept.drop (128 * i)).take 128
      let s := (r.2.countCore n 0x04B0 kb).countCore n 0x04B4 cols.length
      (4, s.modCore n fun c => { c with
        str := { c.str with
          clipped := true
          ctx := tset c.str.ctx ctx { x with clipped := x.clipped ++ cols } {} } })

end Sys2Proof.Machine
end

