-- ==== Sys2Proof/Machine/ArrayEngine.lean ====
section
/-! DEFINITION. The tensor array: the ARRAY descriptor (R81 to R84, R106, R138, R143), its issue schedule (R70, R71,
R149 to R151), its sums (R108 to R110) and its completion (R72, R73, R85, R121). -/

namespace Sys2Proof.Machine

/-! ### Checks (R77, R81 to R83, R106, R138, R143) -/

/-- Greatest end of block b's bytes over the blocks: the last block and the one before it. -/
def blocksSpan (kb stride lenFull lenLast : Nat) : Nat :=
  if kb = 0 then 0
  else max ((kb - 1) * stride + lenLast) (if kb = 1 then 0 else (kb - 2) * stride + lenFull)

/-- The last block's K-rows. -/
def lastRows (d : List W32) : Nat := arK d - (arBlocks d - 1) * arKb d

/-- The ranges that an ARRAY with SRC_STR = 0 reads (R83, R106). -/
def arrayRanges (d : List W32) : List Range :=
  let kb := arBlocks d
  let wl (rows : Nat) : Nat := if arT d then 16384 else cellRows d rows * cellRow (arA d) (arW d)
  [(fld d 1 24 8, dw d 2,
      rowsSpan (arM d) (dw d 3) (blocksSpan kb (dw d 4) (packed (arA d) (arKb d)) (packed (arA d) (lastRows d))), false),
    (fld d 1 16 8, dw d 5, blocksSpan kb (dw d 6) (wl (arKb d)) (wl (lastRows d)), false)] ++
  (if isMx (arA d) then [(fld d 1 8 8, dw d 7, arM d * scaleRow (arK d), false)] else []) ++
  (if isMx (arW d) then [(fld d 1 0 8, dw d 8, 128 * cdiv (arK d) 32, false)] else [])

/-- The weight ranges of column block `i` of an EXACT context (R143). -/
def exactColRanges (x : List W32) (i : Nat) : List Range :=
  let kb := cdiv (stK x) (pairKb (stA x) (stW x))
  let wb := weightBlock (stA x) (stW x)
  let g := 128 * cdiv (stK x) 32
  [(fld x 2 24 8, off32 x 9 + i * kb * wb, kb * wb, false)] ++
  (if isMx (stW x) then [(fld x 2 16 8, off32 x 10 + i * g, g, false)] else [])

def arRes : List (Nat × Nat × Nat) :=
  res0 ++ [(0, 0, 4), (9, 20, 12), (10, 26, 6), (10, 8, 8), (11, 0, 8)] ++ resWords [12, 13, 14] ++ res15

/-- The checks of an ARRAY descriptor in the order of R77. -/
def arCheck (c : Core) (f : W64) (d : List W32) : Option Nat :=
  let ctx := arCtx d
  let x := tget c.str.ctx ctx {}
  let xd := x.desc
  let str := arStr d
  let live := ctx < 16 && x.built = some f
  let predict := stOp xd = 2
  let part1 := firstFail
    [(!resZero d arRes, eReserved),
      (!pairOk (arA d) (arW d), eDescFmt),
      (arT d && !oneByte (arW d), eDescFmt),
      (str && ctx < 16 && xd ≠ [] && !(arA d = stA xd && arW d = stW xd), eDescFmt),
      (512 < arM d || 128 < arN d || sigBad d 15 false, eDescField),
      (str && !live, eDescField),
      (str && !(arM d = stM xd && arK d = stK xd), eDescField),
      (str && !(arT d = predict), eDescField),
      (str && predict && (arN d ≠ 128 || stNarr xd ≤ x.arrays), eDescField)]
  match part1 with
  | some e => some e
  | none =>
    if arZero d then none else
    let rs := if !str then arrayRanges d else if predict then [] else exactColRanges xd x.arrays
    firstFail
      [(rs.any (rangeHandleBad c), eDescHandle),
        (!str && (dw d 2 % 32 ≠ 0 || dw d 3 % 32 ≠ 0 || dw d 4 % 32 ≠ 0 || dw d 5 % 32 ≠ 0 || dw d 6 % 32 ≠ 0 ||
          (isMx (arA d) && dw d 7 % 32 ≠ 0) || (isMx (arW d) && dw d 8 % 32 ≠ 0)), eDescAlign),
        (rs.any (rangeBoundsBad c), eDescBounds),
        (512 < arRow d + arM d || 128 < arCol d + arN d, eDescAcc)]

/-! ### Issue -/

/-- The first cycle from `t` on in which the array queue has room, if the closes known so far give one (R75). -/
def aqRoom (qs : List Queued) (t : Nat) : Option Nat :=
  let isOpen (x : Nat) (q : Queued) : Bool := !q.closed || x < q.finish - arrP q.desc
  (t :: (qs.filter Queued.closed).map fun q => q.finish - arrP q.desc).find? fun x =>
    t ≤ x && (qs.filter (isOpen x)).length < 4

/-- The cycle in which ARRAY `q`, which completes at `cyc`, left the array queue, if the queue was full until then (R75). -/
def aqLeft (qs : List Queued) (q : Queued) (cyc : Nat) : Option Nat :=
  let x := if q.started then q.finish - arrP q.desc else cyc
  if 4 ≤ (qs.filter fun z => z.entered < x && (!z.closed || x ≤ z.finish - arrP z.desc)).length then some x else none

/-! ### The block plan (R70, R149, R150) -/

/-! ### Operands -/

/-- The scale code of a byte, or of 1.0 (R107). -/
def scaleOr (mx : Bool) (b : Byte) : Num := if mx then ofE8M0 b.toNat else .fin false 1 0

/-- Activation element and scale of vector `m`, element `e` of the K axis as presented. -/
def State.actAt (s : State) (n : Nat) (d : List W32) (x : List W32) (kc m e : Nat) : Num :=
  let f := arA d
  let kb := arKb d
  let at_ (h o i : Nat) : Num := elemOf f (s.elemBitsAt n h o f i)
  let sc (h o : Nat) : Num := scaleOr (isMx f) (if isMx f then s.byte (s.bufAddr n h o) else 0)
  if !arStr d then
    (at_ (fld d 1 24 8) (dw d 2 + m * dw d 3 + e / kb * dw d 4) (e % kb)).mul
      (sc (fld d 1 8 8) (dw d 7 + m * scaleRow (arK d) + e / 32))
  else if stOp x = 2 then
    (at_ (fld x 1 24 8) (off32 x 3 + m * stStride x) e).mul (sc (fld x 2 8 8) (off32 x 11 + m * scaleRow (arK d) + e / 32))
  else
    (at_ (fld x 1 8 8) (off32 x 6 + m * stStride x) e).mul (sc (fld x 2 0 8) (off32 x 12 + m * scaleRow kc + e / 32))

/-- Weight code of K-row `k` (of `kb`) and column `n` of the block at offset `o`, in cell rows (R83, R104). -/
def State.cellAt (s : State) (core : Nat) (d : List W32) (h o k col : Nat) : Nat :=
  let f := arW d
  if arKb d = 256 then bits (s.byte (s.bufAddr core h (o + k / 2 * 128 + col))).toNat (4 * (k % 2)) 4
  else s.elemBitsAt core h (o + k * cellRow (arA d) f) f col

/-- The code that an array cell holds for element `e` of the K axis as presented and array column `col`. Columns of a
PREDICT ARRAY beyond the computed ones are zero. -/
def State.weightCode (s : State) (n : Nat) (q : Queued) (x : Ctx) (e col : Nat) : Nat :=
  let d := q.desc
  let kb := arKb d
  if !arStr d then
    let o := dw d 5 + e / kb * dw d 6
    if arT d then (s.byte (s.bufAddr n (fld d 1 16 8) (o + 128 * col + e % kb))).toNat
    else s.cellAt n d (fld d 1 16 8) o (e % kb) col
  else
    let r := x.run
    if stOp r = 2 then
      match x.kept[128 * q.colBlock + col]? with
      | none => 0
      | some c => (s.byte (s.bufAddr n (fld r 2 24 8)
          (off32 r 9 + c / 128 * (cdiv (stK r) 128) * 16384 + e / 128 * 16384 + c % 128 * 128 + e % 128))).toNat
    else
      let k := x.kept.getD e 0
      let wb := weightBlock (stA r) (stW r)
      s.cellAt n d (fld r 2 24 8) (off32 r 9 + q.colBlock * (cdiv (stK r) kb) * wb + k / kb * wb) (k % kb) col

/-- The scale of that weight, 1.0 for a format without scales (R105, R107). -/
def State.weightScale (s : State) (n : Nat) (q : Queued) (x : Ctx) (e col : Nat) : Num :=
  let d := q.desc
  let sc (h o : Nat) : Num := scaleOr true (s.byte (s.bufAddr n h o))
  if !isMx (arW d) then scaleOr false 0
  else if !arStr d then sc (fld d 1 0 8) (dw d 8 + 128 * (e / 32) + col)
  else
    let r := x.run
    let g := 128 * cdiv (stK r) 32
    if stOp r = 2 then
      match x.kept[128 * q.colBlock + col]? with
      | none => scaleOr false 0
      | some c => sc (fld r 2 16 8) (off32 r 10 + c / 128 * g + 128 * (e / 32) + c % 128)
    else sc (fld r 2 16 8) (off32 r 10 + q.colBlock * g + 128 * (x.kept.getD e 0 / 32) + col)

/-- Weight element with its scale for element `e` of the K axis as presented and array column `col`. -/
def State.weightAt (s : State) (n : Nat) (q : Queued) (x : Ctx) (e col : Nat) : Num :=
  (elemOf (arW q.desc) (s.weightCode n q x e col)).mul (s.weightScale n q x e col)

/-- R67: the codes of block `b`, one list of 128 columns a K-row. -/
def State.blockCodes (s : State) (n : Nat) (q : Queued) (p : Plan) (b : Nat) : List (List Nat) :=
  let x := tget (s.getCore n).str.ctx (arCtx q.desc) {}
  (upTo (b * arKb q.desc) (planRows q.desc p b)).map fun e => (List.range 128).map fun col => s.weightCode n q x e col

/-- The weight buffers: which is active, and what the shadow buffer becomes. -/
def ArrayUnit.active (a : ArrayUnit) : WeightBuf := if a.activeHalf then a.buf1 else a.buf0
def ArrayUnit.setShadow (a : ArrayUnit) (b : WeightBuf) : ArrayUnit :=
  if a.activeHalf then { a with buf0 := b } else { a with buf1 := b }

/-- R67: the swap: the shadow buffer becomes active; the former active one is free to load. -/
def ArrayUnit.swap (a : ArrayUnit) : ArrayUnit :=
  if a.activeHalf then { a with activeHalf := false, buf1 := { a.buf1 with full := false }, loadFor := none }
  else { a with activeHalf := true, buf0 := { a.buf0 with full := false }, loadFor := none }

/-- One block's partial sum (R108, R109): from the top cell row down, rounded in PS at each cell; two products at a
time where a cell holds two. -/
def chain (pair : Bool) (ps : List Num) : Num :=
  let rec go : List Num → Num → Num
    | a :: b :: r, acc => if pair then go r (acc.add (a.add b)).roundPs else go (b :: r) (acc.add a).roundPs
    | [a], acc => (acc.add a).roundPs
    | [], acc => acc
  go ps Num.zero

/-- The sums of block `b` of an ARRAY over the weight codes `rows`: M × N, row by row. -/
def State.blockSums (s : State) (n : Nat) (q : Queued) (p : Plan) (b : Nat) (rows : List (List Nat)) : List Num :=
  let d := q.desc
  let x := tget (s.getCore n).str.ctx (arCtx d) {}
  let es := upTo (b * arKb d) (planRows d p b)
  let ws := (List.range (arN d)).map fun col => (es.zip rows).map fun e =>
    (elemOf (arW d) (e.2.getD col 0)).mul (s.weightScale n q x e.1 col)
  (List.range (arM d)).flatMap fun m =>
    let as := es.map fun e => s.actAt n d x.run p.keff m e
    ws.map fun w => chain (arKb d = 256) (List.zipWith Num.mul as w)

/-- Groups of 32 that block `b` touches. -/
def blockGroups (d : List W32) (p : Plan) (b : Nat) : List Nat := upTo (b * arKb d / 32) (cdiv (planRows d p b) 32)

/-- The activations that block `b` reads, and their scales (R69, R85). -/
def State.actRanges (s : State) (n : Nat) (q : Queued) (p : Plan) (b : Nat) : List Range × List Range :=
  let d := q.desc
  let r := (tget (s.getCore n).str.ctx (arCtx d) {}).run
  let kb := arKb d
  let ms := List.range (arM d)
  let act (h o stride : Nat) : List Range := ms.map fun m => (h, o + m * stride, packed (arA d) (planRows d p b), false)
  let scs (h o k : Nat) : List Range :=
    if isMx (arA d) then ms.map fun m => (h, o + m * scaleRow k + b * kb / 32, (blockGroups d p b).length, false) else []
  if !arStr d then (act (fld d 1 24 8) (dw d 2 + b * dw d 4) (dw d 3), scs (fld d 1 8 8) (dw d 7) (arK d))
  else if stOp r = 2 then
    (act (fld r 1 24 8) (off32 r 3 + b * packed (arA d) kb) (stStride r), scs (fld r 2 8 8) (off32 r 11) (arK d))
  else (act (fld r 1 8 8) (off32 r 6 + b * packed (arA d) kb) (stStride r), scs (fld r 2 0 8) (off32 r 12) p.keff)

/-- The weights that block `b` loads, and their scales: whole cell rows, and whole 128-byte segments of a PREDICT gather (R83, R143,
R146). -/
def State.weightRanges (s : State) (n : Nat) (q : Queued) (p : Plan) (b : Nat) : List Range × List Range :=
  let d := q.desc
  let x := tget (s.getCore n).str.ctx (arCtx d) {}
  let r := x.run
  let rows := planRows d p b
  let kb := arKb d
  let gs := blockGroups d p b
  let mx (l : List Range) : List Range := if isMx (arW d) then l else []
  if !arStr d then
    ([(fld d 1 16 8, dw d 5 + b * dw d 6, if arT d then 16384 else cellRows d rows * cellRow (arA d) (arW d), false)],
      mx (gs.map fun g => (fld d 1 0 8, dw d 8 + 128 * g, 128, false)))
  else if stOp r = 2 then
    let cs := (x.kept.drop (128 * q.colBlock)).take 128
    (cs.map fun c => (fld r 2 24 8, off32 r 9 + c / 128 * (cdiv (stK r) 128) * 16384 + b * 16384 + c % 128 * 128, 128, false),
      mx (cs.flatMap fun c => gs.map fun g =>
        (fld r 2 16 8, off32 r 10 + c / 128 * (128 * cdiv (stK r) 32) + 128 * g + c % 128, 1, false)))
  else
    let wb := weightBlock (stA r) (stW r)
    let cr := cellRow (stA r) (stW r)
    let ks := (x.kept.drop (b * kb)).take rows
    ((ks.map fun k =>
        off32 r 9 + q.colBlock * (cdiv (stK r) kb) * wb + k / kb * wb + cellRows d (k % kb + 1) * cr - cr).eraseDups.map
      fun o => (fld r 2 24 8, o, cr, false),
      mx ((ks.map (· / 32)).eraseDups.map fun g =>
        (fld r 2 16 8, off32 r 10 + q.colBlock * (128 * cdiv (stK r) 32) + 128 * g, 128, false)))

/-- The words of ranges, all of one buffer, as one read. -/
def State.oneRead (s : State) (n port index : Nat) (l : List Range) : List (Touch × List Nat) :=
  [(touchBy port ((l.head?.map (·.1)).getD 0) index, l.flatMap (s.rangeWords n))]

/-- R67, R70: block `b` loads into the shadow buffer in the core cycles [t0, t1), held for as long as its port is; its weights are read as
the load starts (log entry 98). Gathers use the Strainer port (R140). -/
def State.loadBlock (s : State) (n : Nat) (q : Queued) (p : Plan) (b t0 t1 : Nat) : State :=
  let l := s.weightRanges n q p b
  let reads := s.oneRead n (if arStr q.desc then pStrainer else pArray) q.index l.1
  let side := l.2.flatMap (s.rangeWords n)
  let r := s.portReads n t0 t1 reads
  let bad := reads.any (fun e => e.2.any r.2.1.wordBad) || side.any s.wordBad
  let rows := r.2.1.blockCodes n q p b
  (r.2.2.look n side).modCore n fun c => { c with
    arr := { c.arr.setShadow { full := true, rows := rows, poisoned := bad } with
      loadFor := some (q.ord, b)
      loadFrom := t0
      loadEnd := t1 + 2 * r.1 } }

/-- R97: a weight-buffer parity error found in use: an uncorrectable error on every tile that the block writes. Which row UE_ROW takes is not
stated: free. -/
def State.weightUpset (s : State) (n : Nat) (d : List W32) : State :=
  let f := s.free
  (f.2.modCore n fun c => { c with arr := { c.arr with
    ue := sat 15 (c.arr.ue + (arrayTiles d).length)
    ueRow := f.1.toNat % 512 } }).uncorrected n

/-- Block `b` runs from cycle `st` on with the active buffer: its sums, its counts, what poison it reads (R85), the holds of its port. -/
def State.runBlock (s : State) (n : Nat) (q : Queued) (p : Plan) (b st : Nat) : State × Queued :=
  let d := q.desc
  let x := tget (s.getCore n).str.ctx (arCtx d) {}
  let buf := (s.getCore n).arr.active
  let l := s.actRanges n q p b
  let reads := s.oneRead n pArray q.index l.1
  let side := l.2.flatMap (s.rangeWords n)
  let r := s.portReads n st (st + q.vecs) reads
  let bad := reads.any (fun e => e.2.any r.2.1.wordBad) || side.any s.wordBad
  let poison := bad || buf.poisoned || (arStr d && x.poisoned)
  let q1 := { q with
    sums := q.sums ++ [r.2.1.blockSums n q p b buf.rows]
    poisoned := q.poisoned || poison || buf.upset
    stall := 2 * r.1 }
  let s := ((r.2.2.look n side).countCore n 0x0100 (arM d)).countCore n 0x0104 (arM d * arrI d)
  let s := if buf.upset then s.weightUpset n d else s
  -- a poisoned activation poisons the context for its KEEP (R147)
  let s := if arStr d && bad then s.modCore n fun c => { c with
      str := { c.str with ctx := tset c.str.ctx (arCtx d) { x with poisoned := true } {} } } else s
  (if poison && !q.poisoned then s.fault n fPoisonIn else s, q1)

/-! ### PREDICT decisions (R150) -/

/-- It takes its decision. -/
def State.takeDecision (s : State) (n : Nat) (q : Queued) : State :=
  let r := s.planPredict n q.desc q.colBlock (arCtx q.desc)
  r.2.modCore n fun c => { c with
    arr := { c.arr with queue := c.arr.queue.map fun z => if z.ord = q.ord then { z with plan := r.1 } else z } }

/-- The decisions that fall before cycle `t`, in issue order: an EXACT surplus block of cycle `t` finds their charges. -/
def State.decideBefore (s : State) (n t : Nat) : State :=
  (s.getCore n).arr.queue.foldl (fun s q =>
    if (s.getCore n).undecided q && (s.getCore n).decidedAt q < t then s.takeDecision n q else s) s

/-! ### The window (R70, R71, R149 to R151) -/

/-- What starting block `b` of an ARRAY at cycle `st` does: the swap and the sums of a block with operands, the idle
cycles of a block without, the charges for surplus blocks at the last planned block, the load of the next block, the schedule of the
end. A short last block takes the time of its own rows, and the shadow buffer is free from the start of a last block on that has no
swap (DESIGN CHOICE, log entry 143). -/
def State.startBlock (s : State) (n : Nat) (q : Queued) (b st : Nat) : State × Queued :=
  let d := q.desc
  let p := planOf (s.getCore n) q
  let clip := q.plan = 4
  let run := !clip && b < p.need
  let s := if run then
      (if (s.getCore n).arr.loadFor = some (q.ord, b) then s else s.loadBlock n q p b st st).modCore n fun c =>
        { c with arr := c.arr.swap }
    else s
  let s := if !run && !clip then s.countCore n 0x04A8 (fullBlock d) else s
  let r := if run then s.runBlock n q p b st else (s, { q with stall := 0 })
  let s := r.1
  let q := { r.2 with start := st, started := true, progress := b + 1, stallFrom := none }
  -- a surplus block is decided in the cycle in which it would start loading; a refusal refuses the rest (R150)
  let want := if arStr d && !arT d && b + 1 = q.blocks then p.need - q.blocks else 0
  let s := if want = 0 then s else s.decideBefore n st
  let g := if want = 0 then (false, s) else s.muCharge n (fullBlock d)
  let refused := if want ≠ 0 && !g.1 then want else 0
  let s := if refused = 0 then g.2 else (g.2.countCore n 0x04B0 refused).modCore n fun c => { c with
    str := { c.str with clipped := true } }
  let q := { q with blocks := q.blocks + b2n g.1 }
  let last := b + 1 = q.blocks
  let next := !last && !clip && b + 1 < p.need
  let nextLoad := if last || clip then 0 else loadTime d (planRows d p (b + 1))
  let s := if next then s.loadBlock n q p (b + 1) st (st + nextLoad) else s
  let s := s.modCore n fun c => { c with
    arr := { c.arr with shadowFree := if last && !clip then st else c.arr.shadowFree }
    str := { c.str with gathers := if arStr d && next then c.str.gathers ++ [(st, st + nextLoad)] else c.str.gathers } }
  let s := if run && next then s.countCore n 0x0108 ((s.getCore n).arr.loadEnd - st - q.vecs) else s
  (s, { q with finish := if last then st + q.vecs + q.stall + arrP d else q.finish })

/-- What the head of the waiting ARRAYs may do at once: take its PREDICT decision, and load its first block (R70, R71, R150). -/
def State.settle (s : State) (n : Nat) : Nat → State
  | 0 => s
  | k + 1 =>
    let c := s.getCore n
    match c.arr.queue.find? arrayWaits with
    | none => s
    | some q =>
      if !c.loadable q then s
      else if c.undecided q then (s.takeDecision n q).settle n k
      else
        let p := planOf c q
        let l := c.firstLoad q
        if p.need = 0 || q.plan = 4 || c.arr.loadFor = some (q.ord, 0) then s
        else s.loadBlock n q p 0 l.1 (l.1 + l.2)

/-- R81, R77, R138: the sequencer issues an ARRAY descriptor. -/
def execArray (core : Nat) (s : State) : Out :=
  s.issue core (fun d => dKind d = 2) fun s d i =>
  let c := s.getCore core
  match aqRoom c.arr.queue (c.seq.ready 0) with
  | none => .next (s.holdAt core .waitQueue)
  | some room =>
    let s := (s.heldTo core 0x010C room).afterNotice core
    s.validated core d i (arCheck (s.getCore core) s.pmc.frame d) <|
    let cyc := (s.getCore core).issueCycle
    let s := s.issued core cyc
    let x := tget c.str.ctx (arCtx d) {}
    let strIdx := ((c.str.queue.filter fun q => stOp q.desc ≠ 3 && stCtx q.desc = arCtx d).getLast?.map (·.index)).getD
      (x.ready.getD 0)
    let q : Queued := { desc := d, ord := c.arr.issued + 1, index := i, entered := cyc, colBlock := x.arrays
                        build := strIdx }
    let s := s.modCore core fun c => { c with
      arr := { c.arr with
        queue := c.arr.queue ++ [q]
        issued := c.arr.issued + 1 }
      str := { c.str with
        ctx := if arStr d then tset c.str.ctx (arCtx d) { x with arrays := x.arrays + 1 } {} else c.str.ctx } }
    .next (s.settle core 5)

/-- R70 to R72, R84, R120, R139: the issue window of the next ARRAY opens. A wait for its context counts from the cycle in which its decode
has ended and the shadow buffer is free: DESIGN CHOICE, log entry 75. -/
def execArrayIssueStart (core : Nat) (s : State) : Out :=
  unit (coreOk core) "core" <|
  let s := s.settle core 5
  let c := s.getCore core
  match c.arr.queue.find? arrayWaits with
  | none => .next s -- nothing, unless an ARRAY waits for its issue window
  | some q =>
    let d := q.desc
    due s (c.loadable q) <| -- the previous ARRAY's last block has started and the ARRAY's context is built
    due s (!heldFor c q) <| -- no tile that the ARRAY writes is held
    let p := planOf c q
    let load := (c.firstLoad q).1
    let own := c.vectorFrom q
    let st := max own (c.tilesFree q)
    due s ((fullSince c q st).isNone) <| -- the finished-tile queue has room
    let clip := q.plan = 4
    let s := s.at core st
    let s := s.countCore core 0x0108 (if clip || p.need = 0 then 0 else c.loadedAt q - max load c.windowsEnd)
    let s := (s.countCore core 0x0420 (st - own)).countCore core 0x04B8 (if arStr d then load - c.shadowAt q else 0)
    let s := if arStr d && p.need ≠ 0 && !clip then s.modCore core fun c => { c with
        str := { c.str with gathers := c.str.gathers ++ [(load, load + (c.firstLoad q).2)] } } else s
    let q := { q with blocks := if clip then 1 else p.budget }
    let r := s.startBlock core q 0 st
    let s := r.1.modCore core fun c => { c with
      arr := { c.arr with queue := modFirst arrayWaits (fun _ => r.2) c.arr.queue } }
    .next (s.settle core 5)

/-- R67, R70: the shadow buffer becomes active at a vector boundary: the next block of the open window starts. -/
def execWeightSwap (core : Nat) (s : State) : Out :=
  unit (coreOk core) "core" <|
  let c := s.getCore core
  let running := fun q : Queued => q.started && q.progress < q.blocks
  match c.arr.queue.find? running with
  | none => .next s -- nothing, unless a window with a further block is open
  | some q =>
    due s q.stallFrom.isNone <| -- the array issues vectors
    let b := q.progress
    let p := planOf c q
    let ends := if c.arr.loadFor = some (q.ord, b) then c.arr.loadEnd else q.start + loadTime q.desc (planRows q.desc p b)
    let st := max (q.start + q.vecs + q.stall) ends
    due s ((fullSince c q st).isNone) <| -- the finished-tile queue has room
    let r := (s.at core st).startBlock core q b st
    let s := r.1.modCore core fun c => { c with
      arr := { c.arr with queue := modFirst running (fun _ => r.2) c.arr.queue } }
    .next (s.settle core 5)

/-! ### Completion (R72, R73, R85, R110, R149) -/

/-- The element of an accumulator after a block sum (R109, R110). -/
def accAdd (old : W32) (x : Num) : W32 := toF32 ((ofF32 old).add x)

/-- The accumulators after an ARRAY: its block sums in order; +0 where it summed nothing under ACC = 0, or clipped. -/
def accWrite (acc : Tab W32) (q : Queued) : Tab W32 :=
  let d := q.desc
  (List.range (arM d * arN d)).foldl (fun t i =>
    let a := (arRow d + i / arN d) * 128 + arCol d + i % arN d
    let old := tget t a 0
    let xs := q.sums.map fun l => l.getD i Num.zero
    let v := match xs with
      | [] => if arAcc d && q.plan ≠ 4 then old else 0
      | x :: r => r.foldl accAdd (if arAcc d then accAdd old x else toF32 x)
    tset t a v 0) acc

/-- The errors that an ARRAY's writes leave: those of the elements it does not write (R97). -/
def accKeeps (q : Queued) (l : List (Nat × Bool × Bool)) : List (Nat × Bool × Bool) :=
  let d := q.desc
  l.filter fun e =>
    !(arRow d ≤ e.1 / 128 && e.1 / 128 < arRow d + arM d && arCol d ≤ e.1 % 128 && e.1 % 128 < arCol d + arN d)

/-- R70, R72, R121, R498: the ARRAY at the head of the queue completes. -/
def execArrayComplete (core : Nat) (s : State) : Out :=
  unit (coreOk core) "core" <|
  let c := s.getCore core
  match c.arr.queue with
  | [] => .next s -- nothing, unless an ARRAY completes
  | q :: rest =>
    let d := q.desc
    due s (q.noWindow || q.closed) <| -- the ARRAY's last block has started
    due s q.stallFrom.isNone <| -- the array issues vectors
    let need := q.entries
    due s (c.ve.ftq.length + need ≤ 4) <| -- the finished-tile queue has room
    let late := c.pushLate q
    let cyc := c.pushAt q
    let tiles := if arZero d then [] else arrayTiles d
    let s := (s.at core cyc).countCore core 0x0424 (cyc - c.endOf q)
    let s := s.modCore core fun c => { c with
      arr := { c.arr with
        queue := rest
        done := c.arr.done + 1
        lastDone := cyc
        resume := if late then cyc else c.arr.resume
        windowEnd := if q.noWindow then c.arr.windowEnd else max c.arr.windowEnd (q.finish - arrP d)
        acc := if q.noWindow then c.arr.acc else accWrite c.arr.acc q
        flips := if q.noWindow then c.arr.flips else accKeeps q c.arr.flips
        tilePoison := if q.poisoned then tiles.foldl nadd c.arr.tilePoison else c.arr.tilePoison
        tileDone := tiles.foldl (fun t x => tset t x cyc 0) c.arr.tileDone }
      seq := match aqLeft c.arr.queue q cyc with
        | some x => c.seq.free 0 x
        | none => c.seq
      ve := { c.ve with ftq := if need = 0 then c.ve.ftq else c.ve.ftq ++ tiles.map fun t => (t, dTag d, cyc) }
      str := if arStr d then
          let x := tget c.str.ctx (arCtx d) {}
          { c.str with ctx := tset c.str.ctx (arCtx d) { x with arrDone := cyc } {} }
        else c.str }
    -- a window open on a tile that this completion makes held stops (R120)
    let c2 := s.getCore core
    let s := s.modCore core fun c => { c with
      arr := { c.arr with
        queue := modFirst (openAt cyc) (fun z =>
          if need ≠ 0 && heldFor c2 z then { z with stallFrom := some (max cyc z.start) } else z) c.arr.queue } }
    .next (s.signal core (dw d 15))

/-! ### The Strainer's completions (R155) -/

/-- The gather of the block that loads for an ARRAY whose window has not opened (R140). -/
def Core.nextGather (c : Core) : List (Nat × Nat) :=
  match c.arr.queue.find? arrayWaits with
  | none => []
  | some q =>
    let l := c.firstLoad q
    if arStr q.desc && c.loadable q && (planOf c q).need ≠ 0 && q.plan ≠ 4 then [(l.1, l.1 + l.2)] else []

/-- The completion cycle of a started STRAINER descriptor (R155, R498). -/
def strFinish (c : Core) (q : Queued) : Nat :=
  let x := tget c.str.ctx (stCtx q.desc) {}
  if stZero q.desc then q.start + 24
  else
    let t := q.start + 24 + (if stOp q.desc = 1 then 0 else stNcb (if stOp q.desc = 3 then x.run else q.desc))
    moveEnd (c.str.gathers ++ c.nextGather) t q.progress

/-- R142, R144, R147, R155: the STRAINER descriptor at the head completes. -/
def execStrainerComplete (core : Nat) (s : State) : Out :=
  unit (coreOk core) "core" <|
  let c := s.getCore core
  match c.str.queue with
  | [] => .next s -- nothing, unless a STRAINER descriptor completes
  | q :: rest =>
    let d := q.desc
    due s q.started <| -- the head of the Strainer queue has started
    -- its writes go through the port, which may hold the completion (R163)
    let w := if stOp d = 3 then (0, s) else s.strPorts core q (strFinish c q)
    let cyc := strFinish c q + 2 * w.1
    let s := (w.2.at core cyc).modCore core fun c => { c with
      str := { c.str with queue := rest, done := c.str.done + 1, lastDone := cyc }
      seq := if 4 ≤ c.str.queue.length then c.seq.free 2 cyc else c.seq }
    let x := tget c.str.ctx (stCtx d) {}
    let s :=
      if stOp d = 3 then
        if x.poisoned || q.poisoned || stZero x.run then s else s.keepDone core x q.badWords
      else
        let s := (s.strWrite q).modCore core fun c => { c with
          str := { c.str with ctx := tset c.str.ctx (stCtx d) { x with ready := some q.index, readyAt := cyc } {} } }
        s.settle core 5
    .next (s.signal core (dw d 15))

end Sys2Proof.Machine
end

