-- ==== Sys2Proof/Machine/Sequencer.lean ====
section
/-! DEFINITION. The descriptors that the sequencer executes itself: SEM_WAIT, SEM_SIGNAL, SLOT_PHASE, NOTICE, MARK and
END (R88 to R95), the end of the stream (R78), and the events that complete them (R89, R94, R95, R175). -/

namespace Sys2Proof.Machine

/-- Core cycles in `tenths` × 0.1 µs of the panel timebase at a quadrant's ratio, while nothing stretches (R93). -/
def leadCycles (ratio tenths : Nat) : Nat := cdiv (tenths * 250 * ratio) 16

/-- Words 2 to 15, or 3 to 15, are reserved. -/
def resFrom (w : Nat) : List (Nat × Nat × Nat) := resWords (upTo w (16 - w))

/-! ### SEM_WAIT (R88, R175, R176) -/

def swCheck (d : List W32) : Option Nat :=
  firstFail [(!resZero d (res0 ++ [(0, 13, 2), (0, 0, 4), (1, 16, 16)] ++ resFrom 2), eReserved)]

/-- The wait passes at cycle `t`: COUNT is subtracted, the next descriptor issues 4 cycles on. -/
def State.semPass (s : State) (n sem count t : Nat) : State :=
  s.modCore n fun c =>
    { c with
      scr := { c.scr with sem := tset c.scr.sem sem (tget c.scr.sem sem 0 - count) 0 }
      seq := { c.seq with
        state := .issuing
        waiting := none
        now := max c.seq.now t
        nextIssue := t + 4 } }

/-- R88, R175: a SEM_WAIT issues and is first tested 4 cycles later; one not tested yet at the Develop deadline is tested
in the deadline cycle (R51). -/
def execSemWait (core : Nat) (s : State) : Out :=
  s.issue core (fun d => dKind d = 5) fun s d i =>
  s.validated core d i (swCheck d) <|
  let sem := fld d 0 4 9
  let count := fld d 1 0 16
  let cyc := (s.getCore core).issueCycle
  let s := s.issued core cyc
  let dead := s.deadlineCycle (coreQuad core)
  let t := if s.pmc.point = 1 && cyc ≤ dead then min (cyc + 4) dead else cyc + 4
  if count ≤ tget (s.getCore core).scr.sem sem 0 then .next (s.semPass core sem count t)
  else
    let w : Waiting := { role := flag d 0 15, sem := sem, count := count, tag := dTag d, since := t }
    .next ((s.countCore core 0x0540 1).modCore core fun c =>
      { c with seq := { c.seq with state := .waitSem, waiting := some w, now := max c.seq.now t } })

/-- R175, R176: the semaphore satisfies the SEM_WAIT that holds. -/
def execSemWaitPass (core : Nat) (s : State) : Out :=
  unit (coreOk core) "core" <|
  let c := s.getCore core
  match c.seq.waiting with
  | none => .next s -- nothing, unless a SEM_WAIT holds
  | some w =>
    due s (w.count ≤ tget c.scr.sem w.sem 0) <| -- the semaphore satisfies COUNT
    let t := max c.seq.now w.since
    .next ((s.slipped core w t).semPass core w.sem w.count t)

/-! ### Pending on AFTER (R89, R94) -/

/-- The ordinals of the last descriptors issued to array, VE, Strainer and DMA. -/
def Core.issuedNow (c : Core) : List Nat := [c.arr.issued, c.ve.issued, c.str.issued, c.dmaIssued]

/-- The pending signal at place `slot` is pending no more. -/
def Seq.unpend (q : Seq) (slot : Nat) : Seq :=
  { (if 8 ≤ q.pend.length then q.free 4 q.now else q) with pend := q.pend.eraseIdx slot }

/-- Every descriptor issued earlier to a marked engine has completed. -/
def Core.afterDone (c : Core) (p : PendingSig) : Bool :=
  let ok (bit : Nat) (q : List Queued) : Bool := !flag p.desc 0 bit || q.all fun x => p.after.getD bit 0 < x.ord
  ok 0 c.arr.queue && ok 1 c.ve.queue && ok 2 c.str.queue && ok 3 c.dma

/-- A SEM_SIGNAL or MARK issues, and executes 4 cycles on (R75): with AFTER it waits, and a ninth holds the sequencer (ISSUING:
log entry 75); without, it acts then. `fail` validates it. -/
def State.pendOr (s : State) (n : Nat) (d : List W32) (i : Nat) (fail : Option Nat) (act : State → State) : Out :=
  let after := fld d 0 0 4
  if after ≠ 0 && 8 ≤ (s.getCore n).seq.pend.length then .next (s.holdAt n .issuing)
  else
    let cyc := if after = 0 then (s.getCore n).issueCycle else (s.getCore n).seq.ready 4
    s.validated n d i fail <|
    let s := s.issued n cyc
    let s := s.at n (cyc + 4)
    if after = 0 then .next (act s)
    else .next (s.modCore n fun c => { c with
      seq := { c.seq with pend := c.seq.pend ++ [{ desc := d, after := c.issuedNow }] } })

/-- The core at plate position `p` of the plate that core `n` works for. -/
def State.target (s : State) (n p : Nat) : Option Nat :=
  (s.getCore n).position.bind fun wp => s.coreAtPos wp.1 p

/-! ### SEM_SIGNAL (R89) -/

def ssCheck (s : State) (n : Nat) (d : List W32) : Option Nat :=
  firstFail
    [(!resZero d (res0 ++ [(0, 13, 2), (1, 16, 16), (2, 16, 16)] ++ resFrom 3), eReserved),
      (flag d 0 15 && (s.target n (fld d 2 0 16)).isNone, eDescField)]

/-- The signal is sent: to this core's semaphore, or over the control network, where SIGNAL_MESSAGE receives it. -/
def State.sendSignal (s : State) (n : Nat) (d : List W32) : State :=
  if flag d 0 15 then
    match s.target n (fld d 2 0 16) with
    | some m => s.post tySignal (coreQuad m) (coreQuad n) (signalBody m (fld d 0 4 9) (fld d 1 0 16))
    | none => s
  else s.semAdd n (fld d 0 4 9) (fld d 1 0 16)

/-- R89. -/
def execSemSignal (core : Nat) (s : State) : Out :=
  s.issue core (fun d => dKind d = 6) fun s d i =>
  s.pendOr core d i (ssCheck s core d) fun s => s.sendSignal core d

/-- R89: the pending signal at place `slot` is sent. -/
def execPendingSignalSend (core slot : Nat) (s : State) : Out :=
  unit (coreOk core) "core" <|
  let c := s.getCore core
  match c.seq.pend[slot]? with
  | none => .next s -- nothing, unless a signal is pending at the place named
  | some p =>
    due s (dKind p.desc = 6 && c.afterDone p) <| -- the descriptors that the signal waits for have completed
    .next ((s.modCore core fun c => { c with seq := c.seq.unpend slot }).sendSignal core p.desc)

/-- The SIGNAL that adds `inc` to a semaphore of a core. -/
def isSignal (core sem inc : Nat) (m : Msg) : Bool := m.type = tySignal && m.body = signalBody core sem inc

/-- R89, R174, R212, R407: a remote signal arrives. A core in RESETTING discards it. -/
def execSignalMessage (core sem inc cycle : Nat) (late : Bool) (s : State) : Out :=
  unit (coreOk core && sem < 512) "semaphore" <|
  due s (s.underWay (isSignal core sem inc)).isSome <| -- a SIGNAL with this payload is under way
  let s := (s.received (isSignal core sem inc)).ctlLate (coreQuad core) late
  if (s.getCore core).ccb.state = .resetting then .next (s.countPmc 0x0520 1)
  else .next ((s.at core cycle).semAdd core sem inc)

/-! ### SLOT_PHASE (R90, R91) -/

/-- NPH of a bank (R190). -/
def bankNph (b : Tab W32) : Nat := bits (tget b 16400 0).toNat 0 5

def spCheck (r : Router) (d : List W32) : Option Nat :=
  firstFail
    [(!resZero d (res0 ++ [(0, 4, 12), (1, 16, 16)] ++ resFrom 2), eReserved),
      (bankNph r.active ≤ fld d 0 0 4, eDescField)]

/-- R90, R91: the router under the core is armed; a late descriptor switches it at the next round and poisons until
then. A round is 1,024 cycles of the base branch (R190, R354). -/
def execSlotPhase (core : Nat) (s : State) : Out :=
  s.issue core (fun d => dKind d = 7) fun s d i =>
  if (s.getRtr core).armed.isSome then .next (s.holdAt core .waitPhase) else
  let s := s.heldTo core 0x0114 ((s.getCore core).seq.ready 5)
  s.validated core d i (spCheck (s.getRtr core) d) <|
  let cyc := (s.getCore core).issueCycle
  let s := s.issued core cyc
  let t := 16 * (cyc + 4)
  let rd := fld d 1 0 16
  let round := 1024 * (s.getQuad (coreQuad core)).ratio
  if t < round * rd then .next (s.modRtr core fun r => { r with armed := some (fld d 0 0 4, rd) })
  else
    .next (((s.modRtr core fun r => { r with armed := some (fld d 0 0 4, t / round + 1), poisoning := true }).countCore
      core 0x0128 1).fault core fMesh)

/-! ### NOTICE (R92, R93) -/

/-- DELTA as a signed number, and the effective lead (R93). -/
def ntDelta (d : List W32) : Int := toSigned 8 (fld d 0 0 8)
def ntLead (d : List W32) : Nat := if 3 ≤ (ntDelta d).natAbs then max (fld d 1 0 8) 20 else fld d 1 0 8

/-- R92, R93: the notice leaves for the regulator controller; array, VE and Strainer work waits for the lead. Cycles in which a full queue
holds the same descriptor count in ISSUE_STALL alone: DESIGN CHOICE, log entry 125. -/
def execNotice (core : Nat) (s : State) : Out :=
  s.issue core (fun d => dKind d = 8) fun s d i =>
  s.validated core d i (firstFail [(!resZero d (res0 ++ [(0, 8, 8), (1, 8, 24)] ++ resFrom 2), eReserved)]) <|
  let cyc := (s.getCore core).issueCycle
  let s := s.issued core cyc
  let s := s.post tyNotice (coreQuad core) (coreQuad core) [noticeBody (coreSlot core) (ntDelta d) (ntLead d)]
  let stop := max (s.noticeEnd core) (cyc + leadCycles (s.getQuad (coreQuad core)).ratio (ntLead d))
  .next (s.modCore core fun c => { c with seq := { c.seq with noticeUntil := stop, noticeUsed := s.clk.used } })

/-! ### MARK (R94, R101) -/

/-- TKIND is GO, DONE or CREDIT where EMIT is set. -/
def emitBad (d : List W32) : Bool := flag d 0 15 && !(1 ≤ fld d 0 8 4 && fld d 0 8 4 ≤ 3)

/-- The token of a MARK or END. -/
def State.emitOf (s : State) (n : Nat) (d : List W32) : State :=
  if flag d 0 15 then s.emit n (token (fld d 0 8 4) (fld d 1 0 24)) else s

/-- A mark entry is written, and the token emitted. -/
def State.writeMark (s : State) (n : Nat) (d : List W32) : State :=
  let f := s.pmc.frame
  (s.modCore n fun c =>
    let i := 4 * c.seq.markPtr
    let t := tset c.seq.markLog i (word [(dTag d, 24, 8), (fld d 1 0 24, 0, 24)]) 0
    let t := tset t (i + 1) (BitVec.ofNat 32 c.seq.now) 0
    let t := tset t (i + 2) (f.setWidth 32) 0
    let t := tset t (i + 3) ((f >>> 32).setWidth 32) 0
    { c with seq := { c.seq with markLog := t, markPtr := (c.seq.markPtr + 1) % 16 } }).emitOf n d

/-- R94. -/
def execMark (core : Nat) (s : State) : Out :=
  s.issue core (fun d => dKind d = 9) fun s d i =>
  s.pendOr core d i (firstFail
    [(!resZero d (res0 ++ [(0, 12, 3), (0, 4, 4), (1, 24, 8)] ++ resFrom 2), eReserved), (emitBad d, eDescField)]) fun s =>
  s.writeMark core d

/-- R94: the pending mark at place `slot` is written. -/
def execMarkEntryWrite (core slot : Nat) (s : State) : Out :=
  unit (coreOk core) "core" <|
  let c := s.getCore core
  match c.seq.pend[slot]? with
  | none => .next s -- nothing, unless a mark is pending at the place named
  | some p =>
    due s (dKind p.desc = 9 && c.afterDone p) <| -- the descriptors that the mark waits for have completed
    .next ((s.modCore core fun c => { c with seq := c.seq.unpend slot }).writeMark core p.desc)

/-! ### END (R95) and the end of the stream (R78) -/

/-- R95: END issues; nothing more issues until the Shutter. -/
def execEndDesc (core : Nat) (s : State) : Out :=
  s.issue core (fun d => dKind d = 10) fun s d i =>
  s.validated core d i (firstFail
    [(!resZero d (res0 ++ [(0, 12, 3), (0, 0, 8), (1, 24, 8)] ++ resFrom 2), eReserved), (emitBad d, eDescField)]) <|
  let cyc := (s.getCore core).issueCycle
  let s := s.issued core cyc
  .next (s.modCore core fun c => { c with
    seq := { c.seq with state := .inEnd, endDesc := some d, now := max c.seq.now (cyc + 4) } })

/-- R95, R53: END completes: the core is done, its cycle recorded, its token emitted. A core late under R51 completes
inside the allowance: LATE sets. -/
def execEndComplete (core : Nat) (s : State) : Out :=
  unit (coreOk core) "core" <|
  let c := s.getCore core
  match c.seq.endDesc with
  | none => .next s -- nothing, unless END executes
  | some d =>
    due s (c.arr.queue.isEmpty && c.ve.queue.isEmpty && c.str.queue.isEmpty && c.dma.isEmpty &&
      c.seq.pend.isEmpty) <| -- the engine queues are empty and no signal is pending
    let s := s.modCore core fun c => { c with
      seq := { c.seq with state := .done, endDesc := none, endCycle := some c.seq.now } }
    let s := s.emitOf core d
    .next (if c.late then s.fault core fLate else s)

/-- R78: the stream reaches index LEN without END. TAG and KIND are those of no descriptor: free. -/
def execDescStreamEnd (core : Nat) (s : State) : Out :=
  unit (coreOk core) "core" <|
  let c := s.getCore core
  due s (s.issuing core && c.seq.len ≠ 0 && c.seq.len ≤ c.seq.index) <| -- the sequencer would issue index LEN
  let f := s.free
  .next (f.2.reject core eDescStream f.1.toNat c.seq.len)

end Sys2Proof.Machine
end

