-- ==== Sys2Proof/Machine/Dma.lean ====
section
/-! DEFINITION. The DMA engine of a core: its descriptor (R86, R87, R166), its header and data beats (R184, R185), and
the completion of its transfers (R87, R186, R498). -/

namespace Sys2Proof.Machine

/-! ### Fields -/

def dmPut (d : List W32) : Bool := flag d 0 15
def dmHall (d : List W32) : Bool := flag d 0 14
def dmCache (d : List W32) : Bool := flag d 0 13
def dmX (d : List W32) : Bool := flag d 0 12
def dmStream (d : List W32) : Nat := fld d 0 6 6
def dmHandle (d : List W32) : Nat := fld d 1 24 8
def dmRstream (d : List W32) : Nat := fld d 1 18 6
def dmLocal (d : List W32) : Nat := dw d 2
def dmAddr (d : List W32) : Nat := dw d 3 + 2 ^ 32 * fld d 4 0 28
def dmRow (d : List W32) : Nat := fld d 5 0 25
def dmRows (d : List W32) : Nat := fld d 6 0 20
def dmLstride (d : List W32) : Nat := dw d 7
def dmAstride (d : List W32) : Nat := dw d 8
def dmZero (d : List W32) : Bool := dmRow d = 0 || dmRows d = 0
/-- Bytes, and data beats of 128 B (R87). -/
def dmBytes (d : List W32) : Nat := dmRow d * dmRows d
def dmBeats (d : List W32) : Nat := cdiv (dmBytes d) 128

/-! ### The Panel Address map (R493, R251, R267) -/

/-- The unit that holds address `a`: a kind and its number, with the bytes from its base that exist. -/
def State.unitAt (s : State) (a : Nat) : Option (UnitId × Nat × Nat) :=
  if a < 48 * stackSize then some (.res (a / stackSize), a / stackSize * stackSize, stackSize)
  else if 0x100000000000 ≤ a ∧ a < 0x100000000000 + 48 * 0x8000000 then
    let r := (a - 0x100000000000) / 0x8000000
    some (.res r, winBase r, (s.getStack r).win * 0x1000000)
  else if 0x200000000000 ≤ a ∧ a < 0x200000000000 + 576 * 0x1000000 then
    let n := (a - 0x200000000000) / 0x1000000
    some (.core n, scratchAddr n 0, 0x1000000)
  else none

/-- The bytes [a, a + len) lie in one unit. -/
def State.inUnit (s : State) (a len : Nat) : Bool :=
  match s.unitAt a with
  | some u => a + len ≤ u.2.1 + u.2.2
  | none => false

/-- The register space (R493): the range touches it. -/
def regTouch (a len : Nat) : Bool := regBase ≤ a + len - 1 && a ≤ 0x300007FFFFFF

/-- Bytes from the first byte of the address side to the last. -/
def dmSpan (d : List W32) : Nat := (dmRows d - 1) * dmAstride d + dmRow d

/-- The address lies in a core's scratch. -/
def State.isScratch (s : State) (a : Nat) : Bool :=
  match s.unitAt a with
  | some (.core _, _, _) => true
  | _ => false

/-! ### Checks (R77, R80, R86, R87, R166) -/

def dmCheck (s : State) (n : Nat) (d : List W32) : Option Nat :=
  let c := s.getCore n
  let h := dmHandle d
  let span := dmSpan d
  let part1 := firstFail
    [(!resZero d (res0 ++ [(0, 0, 6), (1, 0, 18), (4, 28, 4), (5, 25, 7), (6, 20, 12)] ++ resWords (upTo 9 6) ++ res15),
        eReserved),
      (!dmHall d && fld d 4 16 12 ≠ 0, eDescField),
      (dmCache d && (dmPut d || !dmHall d), eDescField),
      (dmX d && (dmRow d % 128 ≠ 0 || dmRows d % 128 ≠ 0 || dmLstride d < dmRows d), eDescField),
      (16777216 < dmRow d, eDescField),
      (flag d 15 31 && flag d 15 30 && !(dmPut d && !dmHall d && s.isScratch (dmAddr d)), eDescField)]
  match part1 with
  | some e => some e
  | none =>
    if dmZero d then none else
    let loc := if dmX d then (dmRow d - 1) * dmLstride d + dmRows d else (dmRows d - 1) * dmLstride d + dmRow d
    firstFail
      [(!(if dmPut d then c.valid h else c.writable h), eDescHandle),
        (dmLocal d % 32 ≠ 0 || dw d 3 % 32 ≠ 0 || dmRow d % 32 ≠ 0 || dmLstride d % 32 ≠ 0 || dmAstride d % 32 ≠ 0,
          eDescAlign),
        (!dmHall d && regTouch (dmAddr d) span, eAlign),
        (!c.inBuf h (dmLocal d) loc, eDescBounds),
        (!dmHall d && !s.inUnit (dmAddr d) span, eDescBounds)]

/-! ### Issue -/

/-- What DMA_GET and DMA_PUT share (R75, R77). -/
def State.dmaIssue (s : State) (n : Nat) (put : Bool) : Out :=
  s.issue n (fun d => dKind d = 1 && dmPut d = put) fun s d i =>
  if 16 ≤ (s.getCore n).dma.length then .next (s.holdAt n .waitQueue) else
  let s := s.queueHeld n 3
  s.validated n d i (dmCheck s n d) <|
  let cyc := (s.getCore n).issueCycle
  let s := s.issued n cyc
  .next (s.modCore n fun c => { c with
    dma := c.dma ++ [{ desc := d, ord := c.dmaIssued + 1, index := i, entered := cyc }]
    dmaIssued := c.dmaIssued + 1 })

/-- R86: a GET issues. -/
def execDmaGet (core : Nat) (s : State) : Out := s.dmaIssue core false
/-- R86: a PUT issues. -/
def execDmaPut (core : Nat) (s : State) : Out := s.dmaIssue core true

/-! ### Beats (R184, R185) -/

/-- The header beat of a transfer. -/
def headerBeat (n : Nat) (d : List W32) : Beat :=
  let w0 := word [(if dmPut d then 1 else 2, 28, 4), (n, 16, 12), (if dmPut d then 0 else dmRstream d, 10, 6)]
  { data := wordBytes ([w0, d.getD 3 0, d.getD 4 0, d.getD 5 0, d.getD 6 0, d.getD 8 0,
      word [(b2n (dmHall d), 1, 1), (b2n (dmCache d), 0, 1)], d.getD 15 0] ++ List.replicate 24 0)
    poison := 0
    head := true
    last := !dmPut d
    sig := false
    stream := dmStream d }

/-- The local offset of byte `p` of a transfer, in the order of the address side (R166). -/
def localAt (d : List W32) (p : Nat) : Nat :=
  let r := p / dmRow d
  let c := p % dmRow d
  if dmX d then dmLocal d + c * dmLstride d + r else dmLocal d + r * dmLstride d + c

/-- The bytes of beat `k` of a transfer. -/
def beatSpan (total k : Nat) : List Nat := upTo (128 * k) (min 128 (total - 128 * k))

/-- Poison bits of a beat: word i from the bytes that make it (R161). -/
def poisonOf (bad : List Bool) : BitVec 4 :=
  BitVec.ofNat 4 ((List.range 4).foldl (fun a i => if ((bad.drop (32 * i)).take 32).any id then a + 2 ^ i else a) 0)

/-- Data beat `k` of a PUT, read from scratch. -/
def State.putBeat (s : State) (n : Nat) (d : List W32) (k : Nat) : Beat :=
  let as := (beatSpan (dmBytes d) k).map fun p => s.bufAddr n (dmHandle d) (localAt d p)
  let last := k + 1 = dmBeats d
  { data := as.map s.byte
    poison := poisonOf (as.map fun a => s.wordBad (a / 32))
    head := false
    last := last
    sig := last && flag d 15 31 && flag d 15 30
    stream := dmStream d }

/-- The beat of a core that has stopped: poisoned, without its signal (R177). -/
def Beat.spoilIf (b : Beat) (bad : Bool) : Beat := if bad then { b with poison := 15, sig := false } else b

/-- Words of a beat that are poisoned. -/
def Beat.bad (b : Beat) : Nat := ((List.range 4).filter b.poison.getLsbD).length

/-- The transfer of stream `x` that has a beat to send at base-branch cycle `cyc` of a quadrant at RATIO `ratio`: the first of
the stream that has not sent all its beats (R76, R185). Its header goes first; data from the slot after it, and after decode
(R87). -/
def Core.dmaNext (c : Core) (ratio x cyc : Nat) : Option Queued :=
  (c.dma.find? fun q => dmStream q.desc = x && !dmZero q.desc && (!q.started || (dmPut q.desc && q.progress < dmBeats q.desc))).bind
    fun q =>
      let by_ (t : Nat) : Bool := 16 * t ≤ ratio * cyc
      if by_ q.entered && by_ c.dmaHeld && (!q.started || (q.start < cyc && by_ (q.entered + 8))) then some q else none

/-- The core's engine injects the next beat of stream `x` (R193). -/
def State.dmaInject (s : State) (n x cyc : Nat) : Option Beat × State :=
  match (s.getCore n).dmaNext (s.getQuad (coreQuad n)).ratio x cyc with
  | none => (none, s)
  | some q =>
    if !q.started then
      (some (headerBeat n q.desc), s.modCore n fun c => { c with
        dma := c.dma.map fun z => if z.ord = q.ord then { z with started := true, start := cyc } else z })
    else
      let ws := ((beatSpan (dmBytes q.desc) q.progress).map fun p => s.bufAddr n (dmHandle q.desc) (localAt q.desc p) / 32).eraseDups
      let t := s.coreCycle n cyc
      let r := s.portRead n (touchBy pDma (dmHandle q.desc) q.index) t t ws
      let b := (r.2.1.putBeat n q.desc q.progress).spoilIf q.poisoned
      let s := (r.2.2.holdDma n t r.1).countCore n 0x0120 (b.data.length / 32)
      (some b, s.modCore n fun c => { c with
        dma := c.dma.map fun z => if z.ord = q.ord then { z with progress := q.progress + 1 } else z })

/-! ### Completion -/

/-- A zero-count PUT with SIG_REMOTE signals the core whose scratch its address names, in its completion cycle (R498): no beat
carries the signal, and how it travels is not stated (DEDUCED, log entry 114). -/
def State.farSignal (s : State) (d : List W32) : State :=
  match s.unitAt (dmAddr d) with
  | some (.core m, _, _) =>
    if !(dmPut d && dmZero d && flag d 15 31 && flag d 15 30) then s
    else if (s.getCore m).ccb.state = .resetting then s.countPmc 0x0520 1
    else s.semAdd m (fld d 15 16 9) (fld d 15 0 8)
  | _ => s

/-- The transfer at place `slot` leaves the queue at cycle `cyc`; its signal fires (R80, R498). -/
def State.dmaLeave (s : State) (n slot cyc : Nat) : State :=
  match (s.getCore n).dma[slot]? with
  | none => s
  | some q =>
    let s := ((s.at n cyc).itemAt (coreQuad n) (s.baseCycle n cyc)).modCore n fun c => { c with
      dma := c.dma.eraseIdx slot
      dmaDone := c.dmaDone + 1
      dmaLast := tset c.dmaLast (dmStream q.desc) cyc 0
      seq := if 16 ≤ c.dma.length then c.seq.free 3 cyc else c.seq }
    if q.poisoned then s else (s.signal n (dw q.desc 15)).farSignal q.desc

/-- The place of the earliest transfer of stream `x` in the queue. -/
def Core.firstOf (c : Core) (x : Nat) : Option Nat := c.dma.findIdx? fun q => dmStream q.desc = x

/-- Every port that writes the PUT has acknowledged it (R186). -/
def Core.allAcked (c : Core) (q : Queued) : Bool :=
  dmPut q.desc && !dmZero q.desc && tget c.mcast (dmStream q.desc) 1 ≤ q.acks.length

/-- PUTs of stream `x` that were acknowledged before an earlier transfer of the stream had completed complete behind it (R76). -/
def State.dmaSettle (s : State) (n x cyc : Nat) : Nat → State
  | 0 => s
  | k + 1 =>
    let c := s.getCore n
    match (c.firstOf x).bind fun i => (c.dma[i]?).map fun q => (i, q) with
    | some (i, q) => if c.allAcked q then (s.dmaLeave n i cyc).dmaSettle n x cyc k else s
    | none => s

/-- The transfer leaves, and with it what waited behind it on its stream. -/
def State.dmaDone (s : State) (n slot cyc : Nat) : State :=
  match (s.getCore n).dma[slot]? with
  | none => s
  | some q => (s.dmaLeave n slot cyc).dmaSettle n (dmStream q.desc) cyc 16

/-- Data beats of stream `x` among those delivered. -/
def isData (x : Nat) (e : Nat × Nat × Beat) : Bool := !e.2.2.head && e.2.2.stream = x

/-- The bytes and the poison of beats, byte by byte. -/
def beatBytes (bs : List Beat) : List (Byte × Bool) :=
  bs.flatMap fun b => (List.range b.data.length).map fun i => (b.data.getD i 0, b.poison.getLsbD (i / 32))

/-- The words of beat `k` of a GET, in the cycle in which the beat arrives: presented to the port (R163, R165). With the cycle behind the last
that is written. -/
def State.getPort_ (s : State) (n : Nat) (q : Queued) (k t : Nat) : Nat × State :=
  let d := q.desc
  let h := dmHandle d
  let ws := ((beatSpan (dmBytes d) k).map fun p => scratchAddr n (((s.getCore n).cad h).phys (localAt d p)) / 32).eraseDups
  let r := s.portWrite n (touchBy pDma h q.index) t t ws
  (r.1.end_, r.2.holdDma n t r.1.hold)

/-- A GET's data is written to scratch as its beats arrived: words poisoned as they came; collisions checked (R161, R165). With the cycle
by which all of it is written (R87). -/
def State.getWrite (s : State) (n : Nat) (q : Queued) (l : List (Nat × Nat × Beat)) : Nat × State :=
  let d := q.desc
  let h := dmHandle d
  let r := ((List.range l.length).zip l).foldl (fun (r : Nat × State) (e : Nat × Nat × Nat × Beat) =>
    let p := r.2.getPort_ n q e.1 (r.2.coreCycle n e.2.1)
    (max r.1 p.1, p.2)) (0, s)
  let bs := beatBytes (l.map fun e => e.2.2.spoilIf q.poisoned)
  let as := (List.range bs.length).map fun p => scratchAddr n (((s.getCore n).cad h).phys (localAt d p))
  (r.1, (r.2.putMarked (as.zip bs)).countCore n 0x011C (bs.length / 32))

/-- The first `k` data beats of stream `x` leave a port. -/
def dropData (x : Nat) : Nat → List (Nat × Nat × Beat) → List (Nat × Nat × Beat)
  | 0, l => l
  | _, [] => []
  | k + 1, e :: l => if isData x e then dropData x k l else e :: dropData x (k + 1) l

/-- The beats of a GET are the next on RSTREAM: none that sent its header earlier awaits data on it. -/
def Core.getIsNext (c : Core) (q : Queued) : Bool :=
  c.dma.all fun z => dmPut z.desc || dmZero z.desc || dmRstream z.desc ≠ dmRstream q.desc || !z.started || q.start ≤ z.start

/-- R87, R186, R498: the GET at place `slot` has received its last byte, or a zero-count transfer completes. A GET of
hall data completes with the bytes its Fabric I/O die has returned on the mesh. Transfers of one STREAM complete in order (R76). -/
def execDmaComplete (core slot cycle : Nat) (s : State) : Out :=
  unit (coreOk core) "core" <|
  let c := s.getCore core
  match c.dma[slot]? with
  | none => .next s -- nothing, unless a DMA transfer is queued at the place named
  | some q =>
    let d := q.desc
    due s (c.firstOf (dmStream d) = some slot) <| -- earlier transfers of the stream have completed
    if dmZero d then .next (s.dmaDone core slot (max (q.entered + 8) (tget c.dmaLast (dmStream d) 0)))
    else
      let port := tget s.mesh.core core {}
      let x := dmRstream d
      let got := port.rx.filter (isData x)
      due s (!dmPut d && q.started && c.getIsNext q && dmBeats d ≤ got.length &&
          (port.xfers.all fun t => t.stream ≠ x)) <| -- the last byte of the GET has arrived
      let mine := got.take (dmBeats d)
      let s := s.modMesh fun m => { m with core := tset m.core core { port with rx := dropData x (dmBeats d) port.rx } {} }
      let r := s.getWrite core q mine
      .next (r.2.dmaDone core slot (max cycle r.1))

/-! ### Acknowledgements (R186, R211, R212) -/

/-- The place of a unit's port at its node, as DMA_ACK tells it. -/
def ackPlace (u : UnitId) (port : Nat) : Nat :=
  match u with
  | .core n => 8 + coreSlot n
  | _ => port

/-- A unit answers a transfer of core `n` on a stream with DMA_ACK, status 0, or DMA_NAK. -/
def State.sendAck (s : State) (n : Nat) (u : UnitId) (port : Nat) (put : Bool) (stream status : Nat) : State :=
  s.post tyAck (coreQuad n) (unitNode u) [ackBody status stream put (coreSlot n) (ackPlace u port)]

/-- Fields of a DMA_ACK: the place, the core's slot, whether of a PUT, stream, status. -/
def ackFields (m : Msg) : Nat × Nat × Bool × Nat × Nat :=
  let w := (m.body.getD 0 0).toNat
  (bits w 0 4, bits w 4 3, bitOf w 9, bits w 10 6, bits w 16 16)

/-- The message acknowledges, or refuses, the transfer at place `slot` of core `n`: the first on its stream from which its sender's
answer is still due. -/
def Core.ackFor (c : Core) (n slot : Nat) (nak : Bool) (m : Msg) : Bool :=
  match c.dma[slot]? with
  | none => false
  | some q =>
    let f := ackFields m
    let due (z : Queued) : Bool := dmPut z.desc = f.2.2.1 && dmStream z.desc = f.2.2.2.1 && !dmZero z.desc && z.started &&
      !z.acks.contains (m.src, f.1)
    m.type = tyAck && m.dest = coreQuad n && f.2.1 = coreSlot n && due q && (c.dma.take slot).all (fun z => !due z) &&
      (if nak then f.2.2.2.2 ≠ 0 else f.2.2.2.2 = 0)

/-- R186: one acknowledgement of the PUT at place `slot`; the PUT completes when every port that writes its stream has
sent one, and every earlier transfer of the stream has completed. -/
def execDmaAck (core slot : Nat) (cycle : Timed Nat) (s : State) : Out :=
  unit (coreOk core) "core" <|
  let mine := (s.getCore core).ackFor core slot false
  match s.underWay mine, (s.getCore core).dma[slot]? with
  | some m, some q =>
    let s := ((s.received mine).ctlLate (coreQuad core) cycle.late).at core cycle.val
    let s := s.modCore core fun c => { c with
      dma := c.dma.map fun z => if z.ord = q.ord then { z with acks := z.acks ++ [(m.src, (ackFields m).1)] } else z }
    .next (s.dmaSettle core (dmStream q.desc) cycle.val 16)
  | _, _ => .next s -- nothing, unless a DMA_ACK for the transfer at the place named is under way

/-- R168, R186, R261, R263, R272, R407: the transfer at place `slot` is refused: its core stops. -/
def execDmaNak (core slot : Nat) (status : Timed Status) (s : State) : Out :=
  unit (coreOk core) "core" <|
  let mine (m : Msg) : Bool := (s.getCore core).ackFor core slot true m && (ackFields m).2.2.2.2 = status.val.toNat
  match s.underWay mine, (s.getCore core).dma[slot]? with
  | some _, some q => .next (((s.received mine).ctlLate (coreQuad core) status.late).stopFor core status.val.toNat q)
  | _, _ => .next s -- nothing, unless a DMA_NAK for the transfer at the place named is under way

end Sys2Proof.Machine
end

