-- ==== Sys2Proof/Machine/Mesh.lean ====
section
/-! DEFINITION. The routers: slot-table entries and beats (R183 to R193), phases (R91, R194), table banks, their
validation and swap (R190, R195, R196, R217). -/

namespace Sys2Proof.Machine

/-! ### Ports (R15, R19, R183) -/

/-- What hangs on a router port: the router's neighbour, an attached die, the management die, or nothing. -/
inductive Attach where
  | router (n port : Nat)
  | die (u : UnitId) (port : Nat)
  | mgmt
  | none
  deriving DecidableEq, Repr

/-- The Fabric I/O die at a south or north edge of a tile column (R19). -/
def edgeFio (col : Nat) (north : Bool) : Option Nat :=
  match col with
  | 1 => some (if north then 1 else 0)
  | 2 => some (if north then 5 else 4)
  | 3 => some (if north then 7 else 6)
  | 4 => some (if north then 3 else 2)
  | _ => Option.none

def State.fioFitted (s : State) (n : Nat) : Bool := n < 4 || s.sec.f32

/-- The attachment of port `p` (1 N, 2 S, 3 E, 4 W, 6 A) of router `r`. -/
def State.attach (s : State) (r p : Nat) : Attach :=
  let x := coreX r
  let y := coreY r
  let fio (north : Bool) : Attach :=
    match edgeFio (x / 4) north with
    | some n => if s.fioFitted n then .die (.fio n) (x % 4) else .none
    | Option.none => .none
  match p with
  | 1 => if y < 23 then .router (coreAt x (y + 1)) 2 else fio true
  | 2 => if 0 < y then .router (coreAt x (y - 1)) 1 else fio false
  | 3 => if x < 23 then .router (coreAt (x + 1) y) 4
    else if 8 ≤ y && y ≤ 15 then .die (.gate 1) (y - 8) else .none
  | 4 => if 0 < x then .router (coreAt (x - 1) y) 3
    else if 8 ≤ y && y ≤ 15 then .die (.gate 0) (y - 8) else if y = 0 then .mgmt else .none
  | 6 =>
    let cy := y % 6
    if cy = 1 || cy = 2 then .die (.res (coreTile r * 2 + x % 4 / 2)) ((cy - 1) * 2 + x % 2) else .none
  | _ => .none

/-- L of a hop between two routers (R187). -/
def hopTime (a b : Nat) : Nat :=
  if coreQuad a = coreQuad b then 2 else if coreTile a = coreTile b then 56 else 80

/-- The inter-tile link that output `p` of router `r` crosses (R220): tile, link, direction. -/
def linkOf (r p : Nat) : Option (Nat × Nat × Nat) :=
  let x := coreX r
  let y := coreY r
  let t := coreTile r
  match p with
  | 1 => if y % 6 = 5 && y < 23 then some (t, 6 + x % 4, 0) else none
  | 2 => if y % 6 = 0 && 0 < y then some (t - 6, 6 + x % 4, 1) else none
  | 3 => if x % 4 = 3 && x < 23 then some (t, y % 6, 0) else none
  | 4 => if x % 4 = 0 && 0 < x then some (t - 1, y % 6, 1) else none
  | _ => none

def State.getLink (s : State) (t n d : Nat) : Link := tget (s.getTile t).links (2 * n + d) {}
def State.modLink (s : State) (t n d : Nat) (f : Link → Link) : State :=
  s.modTile t fun x => { x with links := tset x.links (2 * n + d) (f (tget x.links (2 * n + d) {})) {} }

/-! ### Ports of dies and cores -/

/-- The perimeter dies of the order code by Contact Sheet row: Fabric I/O dies and Host Gates (R48). -/
def State.perimeter (s : State) : List Nat :=
  ((List.range 8).filter s.fioFitted).map rowFio ++ if s.sec.h2 then [rowGate 0, rowGate 1] else [rowGate 0]

/-- The row of a perimeter die. -/
def perimeterRow : UnitId → Nat
  | .fio n => rowFio n
  | .gate n => rowGate n
  | _ => 0

def State.meshPort (s : State) : UnitId → MeshPort
  | .core n => tget s.mesh.core n {}
  | .res n => tget s.mesh.res n {}
  | .fio n => tget s.mesh.fio n {}
  | .gate n => tget s.mesh.gate n {}
  | .mgmt => s.mesh.mgmt
def State.setMeshPort (s : State) (u : UnitId) (p : MeshPort) : State :=
  s.modMesh fun m => match u with
    | .core n => { m with core := tset m.core n p {} }
    | .res n => { m with res := tset m.res n p {} }
    | .fio n => { m with fio := tset m.fio n p {} }
    | .gate n => { m with gate := tset m.gate n p {} }
    | .mgmt => { m with mgmt := p }

/-- Arrivals in order: by cycle, those of one cycle by port (R255). -/
def rxPut (l : List (Nat × Nat × Beat)) (e : Nat × Nat × Beat) : List (Nat × Nat × Beat) :=
  match l with
  | [] => [e]
  | x :: r => if e.1 < x.1 || (e.1 = x.1 && e.2.1 < x.2.1) then e :: x :: r else x :: rxPut r e

/-- A beat arrives at port `port` of a unit at cycle `cyc`. -/
def State.deliver (s : State) (u : UnitId) (port cyc : Nat) (b : Beat) : State :=
  let p := s.meshPort u
  s.setMeshPort u { p with rx := rxPut p.rx (cyc, port, b) }

/-- The first response beat that a port may send at cycle `cyc` and that `ok` accepts, with the port after it. -/
def takeTx (p : MeshPort) (cyc : Nat) (ok : Nat → Beat → Bool) : Option Beat × MeshPort :=
  match p.tx.findIdx? fun e => ok e.2.1 e.2.2 with
  | none => (none, p)
  | some i =>
    match p.tx[i]? with
    | some e => if e.1 ≤ cyc then (some e.2.2, { p with tx := p.tx.eraseIdx i }) else (none, p)
    | none => (none, p)

/-- An attached die or a core sends its next response beat. -/
def State.respond (s : State) (u : UnitId) (cyc : Nat) (ok : Nat → Beat → Bool) : Option Beat × State :=
  let r := takeTx (s.meshPort u) cyc ok
  (r.1, s.setMeshPort u r.2)

/-! ### Mesh faults (R189) -/

/-- The router's faults are the core's above it: the core is active (R22: exposed), and not dark behind a tripped eFuse (R346). -/
def State.takesMesh (s : State) (r : Nat) : Bool :=
  (s.getCore r).exposed && !((s.getCore r).ccb.state = .dark && (s.getCore r).ccb.reason = whyDarkShort)

/-- A fault raised at router `r`: to the core above it, or to the base tile (R189). -/
def State.meshFault (s : State) (r : Nat) : State :=
  if s.takesMesh r then s.fault r fMesh
  else
    let row := rowTile (coreTile r)
    let k := bits (s.row row).data.toNat 16 16
    (s.rowData row (word [(sat 0xFFFF (k + 1), 16, 16), (r, 0, 10)])).componentTile (coreTile r) row

/-! ### Entries (R191) -/

/-- Outputs by port code with the source code of each. -/
def entryOuts (w : Nat) : List (Nat × Nat) :=
  [(1, bits w 29 3), (2, bits w 26 3), (3, bits w 23 3), (4, bits w 20 3), (5, bits w 17 3), (6, bits w 14 3)]
def entryStream (w : Nat) : Nat := bits w 8 6

/-- The entry in force in cycle `cyc`; idle where the bank holds no table, or its outputs idle (R190, R367). -/
def Router.entry (r : Router) (cyc : Nat) : Nat :=
  if bankNph r.active = 0 || r.idle then 0 else (tget r.active (1024 * r.phase + cyc % 1024) 0).toNat

/-- The streams of the core-port slots at which beats at inputs of routers end: router, port and cycle of each (R193). -/
def State.lands (s : State) : Nat → List (Nat × Nat × Nat) → List Nat
  | 0, _ => []
  | k + 1, l =>
    if l.isEmpty then [] else
    let go (a : Nat × Nat × Nat) : List Nat × List (Nat × Nat × Nat) :=
      let w := (s.getRtr a.1).entry a.2.2
      let outs := ((entryOuts w).filter fun o => o.2 = a.2.1).map (·.1)
      (if outs.contains 5 then [entryStream w] else [],
        outs.filterMap fun o => if o = 5 then none else match s.attach a.1 o with
          | .router m q => some (m, q, a.2.2 + if (linkOf a.1 o).isSome then 80 else hopTime a.1 m)
          | _ => none)
    let rs := l.map go
    rs.flatMap (·.1) ++ s.lands k (rs.flatMap (·.2))

/-- A slot of a Fabric I/O die or a Host Gate at router `r`, port `p`, belongs to the stream that the tables deliver from it; a slot
that leads to no core port, to any. The format of a plate holds no other schedule of these dies: DEDUCED, log entry 115. -/
def State.slotOf (s : State) (r p cyc x : Nat) : Bool :=
  let l := s.lands 64 [(r, p, cyc)]
  l.isEmpty || l.contains x

/-- The beat at input `p` of router `r` in cycle `cyc`: one that arrives, or one that the port's die or core injects. -/
def State.inputBeat (s : State) (r p stream cyc : Nat) (arrived : List Flight) : Option (Beat × Option Nat) × State :=
  match arrived.find? (·.port = p) with
  | some f => (some (f.beat, f.issuer), s)
  | none =>
    if p = 5 then
      match s.dmaInject r stream cyc with
      | (some b, s) => (some (b, some r), s)
      | (none, s) =>
        let x := s.respond (.core r) cyc fun _ b => b.stream = stream
        (x.1.map fun b => (b, none), x.2)
    else match s.attach r p with
      | .die (.res d) k =>
        let x := s.respond (.res d) cyc fun port _ => port = k
        (x.1.map fun b => (b, none), x.2)
      | .die u k =>
        -- a perimeter die that has missed its Shutter injects nothing (R367)
        if s.mesh.stopped.contains (perimeterRow u) || (s.meshPort u).tx.isEmpty then (none, s) else
        let x := s.respond u cyc fun port b => port = k && s.slotOf r p cyc b.stream
        (x.1.map fun b => (b, none), x.2)
      | .mgmt =>
        let x := s.respond .mgmt cyc fun _ _ => true
        (x.1.map fun b => (b, none), x.2)
      | _ => (none, s)

def State.countRtr (s : State) (r off k : Nat) : State := s.countCore r off k

/-- A stray (R192, R193). -/
def State.stray (s : State) (r : Nat) : State := (s.countRtr r 0x0724 1).meshFault r

/-- A beat is forwarded (R218). -/
def State.forwarded (s : State) (r : Nat) (b : Beat) : State :=
  ((s.countRtr r 0x0720 1).countRtr r 0x072C (b2n (b.poison != 0))).itemAt (coreQuad r) s.mesh.cycle

/-- The lane groups that carry data: the 10, or 8, lowest-numbered good ones, without one that retrains (R201, R204); where fewer than 8
work, those that have failed and go on (R203). -/
def Link.carriers (l : Link) : List Nat :=
  let out : Bool := l.retraining || l.passed.isSome
  let gs := (List.range 11).filter fun g => l.good.getLsbD g && !(out && g = l.group)
  match l.mode with
  | 0 => gs.take 10
  | 1 => gs.take 8 ++ if gs.length < 8 then l.kept else []
  | _ => []

/-- A beat crosses an inter-tile link: words of lanes that carry it whose parity fails poison it, and count for their lanes (R200). -/
def State.crossLink (s : State) (t n d : Nat) (b : Beat) : Beat × State :=
  let bad := (s.getLink t n d).upset.filter fun k => (s.getLink t n d).carriers.contains (k / 8)
  if bad.isEmpty then (b, s)
  else
    ({ b with poison := 15 }, (s.countTile t (0x108 + 0x20 * n + 0x10 * d) bad.length).modLink t n d fun l =>
      { l with
        upset := []
        laneErrs := bad.foldl (fun e k => tset e k (tget e k 0 + 1) 0) l.laneErrs })

/-- A beat reaches the crossing FIFO of core `r`, which the core empties at a beat a core cycle; with 16 beats in it, it is a stray
(R358). -/
def State.toCore (s : State) (r cyc : Nat) (b : Beat) : State :=
  let t := cyc * (s.getQuad (coreQuad r)).ratio
  let p := s.meshPort (.core r)
  if t + 16 * 16 ≤ p.busyTo then s.stray r
  else (s.setMeshPort (.core r) { p with busyTo := max t p.busyTo + 16 }).deliver (.core r) 5 (cyc + 2) b

/-- One output sends a beat (R187, R192). A RETIRED link carries nothing (R201). -/
def State.sendBeat (s : State) (r out stream cyc : Nat) (b : Beat) (issuer : Option Nat) : State :=
  let fly (s : State) (n p t : Nat) (b : Beat) : State :=
    (s.forwarded r b).modMesh fun m => { m with flights := m.flights ++ [⟨n, p, t, b, issuer⟩] }
  if out = 5 then (if b.stream = stream then (s.forwarded r b).toCore r cyc b else s.stray r)
  else match s.attach r out with
    | .router n p =>
      match linkOf r out with
      | some l =>
        if (s.getLink l.1 l.2.1 l.2.2).mode = 2 then s
        else
          let x := s.crossLink l.1 l.2.1 l.2.2 b
          fly x.2 n p (cyc + 80) x.1
      | none => fly s n p (cyc + hopTime r n) b
    | .die u k => (s.forwarded r b).deliver u k (cyc + 2) b
    | .mgmt => (s.forwarded r b).deliver .mgmt 0 (cyc + 2) b
    | .none => s

/-- R187, R188, R192, R193: the router's cycle. -/
def execBeatForward (router cycle : Nat) (s : State) : Out :=
  unit (coreOk router) "router" <|
  let r := s.getRtr router
  let here := s.mesh.flights.filter fun f => f.router = router && f.cycle ≤ cycle
  let late := (here.filter fun f => f.cycle < cycle).length
  let now := here.filter fun f => f.cycle = cycle
  let s := s.modMesh fun m => { m with
    flights := m.flights.filter fun f => !(f.router = router && f.cycle ≤ cycle)
    cycle := max m.cycle cycle }
  let s := (s.countRtr router 0x0728 late).modRtr router fun r => { r with round := cycle / 1024 }
  let w := r.entry cycle
  let outs := (entryOuts w).filter fun o => o.2 ≠ 0
  let srcs := (outs.map (·.2)).eraseDups
  let s := srcs.foldl (fun s p =>
      let x := s.inputBeat router p (entryStream w) cycle now
      match x.1 with
      | none => x.2
      | some b =>
        let beat := if r.poisoning then { b.1 with poison := 15 } else b.1
        (outs.filter (·.2 = p)).foldl (fun s o => s.sendBeat router o.1 (entryStream w) cycle beat b.2) x.2) s
  let lost := (now.filter fun f => !srcs.contains f.port).length
  .next ((List.range lost).foldl (fun s _ => s.stray router) s)

/-! ### Phases (R91, R194) -/

/-- The phase-schedule entries of a bank: index, AT_ROUND, PHASE, enabled. -/
def schedOf (b : Tab W32) : List (Nat × Nat × Nat × Bool) :=
  (List.range 16).map fun i =>
    let w := (tget b (16384 + i) 0).toNat
    (i, bits w 16 16, bits w 0 4, bitOf w 15)

/-- R91, R194: the router switches phase at the start of a round: the armed one, else the next schedule entry. -/
def execPhaseSwitch (router : Nat) (s : State) : Out :=
  unit (coreOk router) "router" <|
  let r := s.getRtr router
  match r.armed with
  | some a =>
    let x := cdiv (1024 * a.2 * (s.getQuad (coreQuad router)).ratio) 16
    .next (((s.modRtr router fun r => { r with phase := a.1, round := a.2, armed := none, poisoning := false }).at router
      x).modCore router fun c => { c with seq := c.seq.free 5 x })
  | none =>
    let es := (schedOf r.active).filter fun e => e.2.2.2 && r.sched ≤ e.2.1
    match es with
    | [] => .next s -- nothing, unless a phase is armed or scheduled
    | e :: l =>
      let m := l.foldl (fun a x => if x.2.1 < a.2.1 then x else a) e
      .next (s.modRtr router fun r => { r with phase := m.2.2.1, round := m.2.1, sched := m.2.1 + 1 })

/-! ### Table access (R196, R217) -/

/-- A write of the pending bank disarms the swap. -/
def Router.disarm (r : Router) : Router :=
  if r.arm then { r with arm := false, validating := false, status := 0 } else r

/-- The index moves on after each access to RTR_TBL_DATA (R217). -/
def Router.bump (r : Router) : Router := { r with index := (r.index + 1) % 32768 }

/-- The bank word at INDEX takes a value: in the pending bank, which disarms the swap; the active bank and the indices above
16,400 ignore it. -/
def Router.putData (r : Router) (value : W32) : Router :=
  (if r.bankSel || 16400 < r.index then r
   else { r.disarm with pending := tset r.pending r.index value 0 }).bump

/-- The bank word at INDEX. -/
def Router.data (r : Router) : W32 := if 16400 < r.index then 0 else tget (if r.bankSel then r.active else r.pending) r.index 0

/-- R217, R196: a write to RTR_TBL_DATA. -/
def execRtrTblDataWrite (router : Nat) (value : W32) (s : State) : Out :=
  unit (coreOk router) "router" <| .next ((s.modRtr router fun r => r.putData value).done 0)

/-- R217: a read of RTR_TBL_DATA. -/
def execRtrTblDataRead (router : Nat) (s : State) : Out :=
  unit (coreOk router) "router" <|
  .next ((s.modRtr router Router.bump).answer 0 [(s.getRtr router).data])

/-- The statuses of R216. -/
def eSlotTable : Nat := 0x0801
def eSlotSwapLate : Nat := 0x0802

/-- FRAME16 lies 2 to 32,767 frames ahead (R196). -/
def swapAhead (now f : Nat) : Bool := 2 ≤ (f + 65536 - now) % 65536 && (f + 65536 - now) % 65536 ≤ 32767

/-- A swap is armed for FRAME16 and its validation starts, or it is refused as late (R196). -/
def State.armSwap (s : State) (router : Nat) (frame16 : BitVec 16) : State :=
  if swapAhead s.frame16 frame16.toNat then
    (s.modRtr router fun r => { r with frame16 := frame16, arm := true, validating := true, status := 0 }).done 0
  else
    (s.modRtr router fun r => { r with frame16 := frame16, arm := false, validating := false, status := 3 }).done eSlotSwapLate

/-- R196: a write of RTR_SWAP with ARM = 1. -/
def execSwapArm (router : Nat) (frame16 : BitVec 16) (s : State) : Out :=
  unit (coreOk router) "router" <| .next (s.armSwap router frame16)

/-- A write of RTR_SWAP with ARM = 0 (R196): FRAME16 takes its value (R217). -/
def Router.disarmAt (r : Router) (frame16 : BitVec 16) : Router := { r.disarm with frame16 := frame16 }

/-- R196: a write of RTR_SWAP with ARM = 0. -/
def execSwapDisarm (w : SwapWrite) (s : State) : Out :=
  unit (coreOk w.router) "router" <| .next ((s.modRtr w.router fun r => r.disarmAt w.frame16).done 0)

/-! ### Validation (R195, R202) -/

/-- The failures of one entry under checks 1 to 5. -/
def State.entryFails (s : State) (r w rule : Nat) : Bool :=
  let outs := entryOuts w
  let used := outs.filter fun o => o.2 ≠ 0
  let core := used.any (·.2 = 5)
  let unusedPort (p : Nat) : Bool := p ≠ 5 && p ≠ 0 && s.attach r p = .none
  match rule with
  | 1 => outs.any (·.2 = 7)
  | 2 => used.any fun o => o.1 = o.2
  | 3 => used.any fun o => unusedPort o.1 || unusedPort o.2
  | 4 => core && bits w 17 3 ≠ 0
  | 5 => (entryStream w ≠ 0 && !core && bits w 17 3 = 0) || bits w 0 8 ≠ 0
  | _ => false

/-- The first entry in bank order that breaks check `rule`, as a bank index. -/
def State.firstEntry (s : State) (r : Nat) (b : Tab W32) (rule : Nat) : Option Nat :=
  (b.find? fun e => e.1 < 16384 && s.entryFails r e.2.toNat rule).map (·.1)

/-- Output `p` is busy at a bank index. -/
def busyAt (b : Tab W32) (p i : Nat) : Bool :=
  ((entryOuts (tget b i 0).toNat).find? (·.1 = p)).any fun o => o.2 ≠ 0

/-- The first place that breaks the headroom rule (R202, check 6), as a bank index. -/
def headroomFail (r : Nat) (b : Tab W32) : Option Nat :=
  let ps := [1, 2, 3, 4].filter fun p => (linkOf r p).isSome
  (b.find? fun e => e.1 < 16384 && ps.any fun p =>
    (e.1 % 1024 ≤ 1019 && (upTo e.1 5).all (busyAt b p)) || (e.1 % 1024 = 1023 && busyAt b p e.1)).map (·.1)

/-- The first schedule entry that breaks check 7. -/
def schedFail (bound : Bool) (b : Tab W32) : Option Nat :=
  let es := schedOf b
  (es.find? fun e => e.2.2.2 && (bound || bankNph b ≤ e.2.2.1 ||
    es.any fun x => x.2.2.2 && x.1 < e.1 && x.2.1 = e.2.1)).map (·.1)

/-- The first word outside the entries with a reserved bit (check 5): schedule entries, then BANK_CFG as 16. -/
def reservedFail (b : Tab W32) : Option Nat :=
  match (List.range 16).find? fun i => bits (tget b (16384 + i) 0).toNat 4 11 ≠ 0 with
  | some i => some i
  | none => if bits (tget b 16400 0).toNat 5 27 ≠ 0 then some 16 else none

/-- RTR_TBL_ERR (R217) of a failed check: an entry's bank index, or a schedule or BANK_CFG index. -/
def tblErr (rule : Nat) (entry : Bool) (i : Nat) : W32 :=
  if entry then word [(i / 1024, 28, 4), (i % 1024, 18, 10), (rule, 14, 4), (1, 13, 1)]
  else word [(i, 18, 10), (rule, 14, 4)]

/-- R195: the first check that a bank fails, as RTR_TBL_ERR; `bound` when the router's exposed core has a plate. -/
def State.bankErrorIf (s : State) (bound : Bool) (r : Nat) (b : Tab W32) : Option W32 :=
  let e (rule : Nat) : Option W32 := (s.firstEntry r b rule).map (tblErr rule true)
  (((((((e 1).orElse fun _ => e 2).orElse fun _ => e 3).orElse fun _ => e 4).orElse fun _ => e 5).orElse fun _ =>
    (reservedFail b).map (tblErr 5 false)).orElse fun _ => (headroomFail r b).map (tblErr 6 true)).orElse fun _ =>
    ((schedFail bound b).map (tblErr 7 false)).orElse fun _ =>
      if 16 < bankNph b then some (tblErr 8 false 16) else none

/-- The first check that fails as the router's core stands now. -/
def State.bankError (s : State) (r : Nat) (b : Tab W32) : Option W32 :=
  s.bankErrorIf ((s.getCore r).exposed && (s.getCore r).position.isSome) r b

/-- Of several routers that the PMC armed together one has failed: it disarms the rest (R196). -/
def State.disarmRest (s : State) (router : Nat) : State :=
  let l := (s.pmc.together.filter fun g => g.contains router).flatMap fun g => ndel g router
  (s.each l fun s r => s.modRtr r Router.disarm).modPmc fun p => { p with together := p.together.filter fun g => !g.contains router }

/-- R196: validation of the pending bank ends. -/
def execBankValidationDone (router : Nat) (s : State) : Out :=
  unit (coreOk router) "router" <|
  due s (s.getRtr router).validating <| -- a validation is in progress
  match s.bankError router (s.getRtr router).pending with
  | some e => .next (((s.modRtr router fun r => { r with
      validating := false
      arm := false
      status := 2
      tblErr := e }).disarmRest router).done eSlotTable)
  | none => .next ((s.modRtr router fun r => { r with validating := false, status := 1 }).done 0)

end Sys2Proof.Machine
end

