-- ==== Sys2Proof/Machine/Detour.lean ====
section
/-! DEFINITION. The detour procedure of R206: the streams whose routes use a retired link or core port, their candidate routes, and
the banks that carry them. Beats cannot wait in a router (R192), so a route's slots follow from its injection slots by the
latencies of R187: DEDUCED, log entry 51. -/

namespace Sys2Proof.Machine

/-- Banks by router, those that differ from the banks in force. -/
abbrev Banks := Tab (Tab W32)

/-- The bank of router `r`. -/
def State.bankOf (s : State) (b : Banks) (r : Nat) : Tab W32 :=
  match b.find? (·.1 = r) with
  | some e => e.2
  | none => (s.getRtr r).active

/-- The router and input that output `o` of router `r` leads to, and the latency (R187). -/
def State.hopTo (s : State) (r o : Nat) : Option (Nat × Nat × Nat) :=
  match s.attach r o with
  | .router m q => some (m, q, if (linkOf r o).isSome then 80 else hopTime r m)
  | _ => none

/-- One hop of a route: router, input, output, cycle counted on from the injection's round. -/
structure Hop where
  router : Nat
  inp : Nat
  out : Nat
  cycle : Nat
  deriving DecidableEq, Repr

/-- The hops of beats of phase `ph` at inputs of routers, as the banks forward them. -/
def State.walk (s : State) (b : Banks) (ph : Nat) : Nat → List (Nat × Nat × Nat) → List Hop
  | 0, _ => []
  | k + 1, l =>
    if l.isEmpty then [] else
    let hs := l.flatMap fun a =>
      ((entryOuts (tget (s.bankOf b a.1) (1024 * ph + a.2.2 % 1024) 0).toNat).filter fun o => o.2 = a.2.1).map fun o =>
        (⟨a.1, a.2.1, o.1, a.2.2⟩ : Hop)
    hs ++ s.walk b ph k (hs.filterMap fun h =>
      if h.out = 5 then none else (s.hopTo h.router h.out).map fun n => (n.1, n.2.1, h.cycle + n.2.2))

/-- A stream: the router and input at which it is injected, its number, and its slots by phase and cycle (R191, R197). -/
structure Stream where
  router : Nat
  inp : Nat
  number : Nat
  slots : List (Nat × Nat)
  deriving DecidableEq, Repr

/-- The input is one at which beats enter the mesh. -/
def State.injects (s : State) (r p : Nat) : Bool :=
  p = 5 || match s.attach r p with
    | .die _ _ => true
    | .mgmt => true
    | _ => false

/-- The number of the stream whose slot of phase `ph`, cycle `k` begins at input `p` of router `r`: STREAM of the entry for a core, of
the core-port slot that it reaches for a die. -/
def State.streamAt (s : State) (b : Banks) (r p ph k : Nat) : Nat :=
  if p = 5 then entryStream (tget (s.bankOf b r) (1024 * ph + k) 0).toNat
  else match (s.walk b ph 64 [(r, p, k)]).find? fun h => h.out = 5 with
    | some h => entryStream (tget (s.bankOf b h.router) (1024 * ph + h.cycle % 1024) 0).toNat
    | none => 0

/-- Place a slot with its stream, streams in ascending order of injecting port and number (R206). -/
def addSlot (r p x : Nat) (slot : Nat × Nat) : List Stream → List Stream
  | [] => [⟨r, p, x, [slot]⟩]
  | y :: l =>
    if y.router = r && y.inp = p && y.number = x then { y with slots := y.slots ++ [slot] } :: l
    else if r < y.router || (r = y.router && (p < y.inp || (p = y.inp && x < y.number))) then ⟨r, p, x, [slot]⟩ :: y :: l
    else y :: addSlot r p x slot l

/-- The streams that the banks of some routers inject. -/
def State.streamsOf (s : State) (b : Banks) (rs : List Nat) : List Stream :=
  rs.foldl (fun l r =>
    ((s.bankOf b r).filter fun e => e.1 < 16384).foldl (fun (l : List Stream) e =>
      (((entryOuts e.2.toNat).map (·.2)).eraseDups.filter fun p => p ≠ 0 && s.injects r p).foldl (fun (l : List Stream) p =>
        addSlot r p (s.streamAt b r p (e.1 / 1024) (e.1 % 1024)) (e.1 / 1024, e.1 % 1024) l) l) l) []

/-- The route of one slot of a stream. -/
def State.routeOf (s : State) (b : Banks) (x : Stream) (slot : Nat × Nat) : List Hop :=
  s.walk b slot.1 64 [(x.router, x.inp, slot.2)]

/-- The ends of a route: core ports and dies. -/
def State.ends (s : State) (hs : List Hop) : List (Nat × Nat × Nat) :=
  (hs.filter fun h => h.out = 5 || (s.hopTo h.router h.out).isNone).map fun h => (h.router, h.out, h.cycle)

/-! ### Candidate routes -/

/-- Steps along x, and along y, from one router to another. -/
def stepsX (a z : Nat) : List Nat :=
  List.replicate (coreX z - coreX a) 3 ++ List.replicate (coreX a - coreX z) 4
def stepsY (a z : Nat) : List Nat :=
  List.replicate (coreY z - coreY a) 1 ++ List.replicate (coreY a - coreY z) 2

/-- The route along x first (R197), and along y first. -/
def routeXY (a z : Nat) : List Nat := stepsX a z ++ stepsY a z
def routeYX (a z : Nat) : List Nat := stepsY a z ++ stepsX a z

/-- The hops of a sequence of outputs from router `r`, input `p`, cycle `k`, that ends in output `o`. -/
def State.along (s : State) (o : Nat) : List Nat → Nat → Nat → Nat → Option (List Hop)
  | [], r, p, k => some [⟨r, p, o, k⟩]
  | d :: l, r, p, k =>
    match s.hopTo r d with
    | none => none
    | some n => (s.along o l n.1 n.2.1 (k + n.2.2)).map fun hs => ⟨r, p, d, k⟩ :: hs

/-- Where a sequence of outputs from router `r` first uses a retired one. -/
def State.firstRetired (s : State) (retired : Nat → Nat → Bool) : List Nat → Nat → Option Nat
  | [], _ => none
  | d :: l, r =>
    if retired r d then some 0
    else match s.hopTo r d with
      | none => none
      | some n => (s.firstRetired retired l n.1).map (· + 1)

/-- The output on the other side. -/
def turnBack (d : Nat) : Nat := match d with
  | 1 => 2
  | 2 => 1
  | 3 => 4
  | _ => 3

/-- A route offset by `d` rows or columns around its step `j`. -/
def offsetRoute (ds : List Nat) (j side d : Nat) : List Nat :=
  ds.take j ++ List.replicate d side ++ (ds.drop j).take 1 ++ List.replicate d (turnBack side) ++ ds.drop (j + 1)

/-- The candidate number `i` from router `a` to router `z`: 0 the YX route, then the offset ones, distance 1 to 3, north or east
before south or west, around the first retired link of the XY route; around its last link where the port at its end has moved and none is
retired (log entry 51). A branch that no retired link and no moved port touches stays XY. -/
def State.candidate (s : State) (retired : Nat → Nat → Bool) (moved : Bool) (a z i : Nat) : List Nat :=
  let ds := routeXY a z
  match (s.firstRetired retired ds a).or (if moved then some (ds.length - 1) else none) with
  | none => ds
  | some j =>
    if i = 0 then routeYX a z
    else
      let side := if ds.getD j 0 = 1 || ds.getD j 0 = 2 then (if i % 2 = 1 then 3 else 4) else (if i % 2 = 1 then 1 else 2)
      offsetRoute ds j side ((i + 1) / 2)

/-- The last beat of a stream's slot `k` arrives before drain closes by a route that takes it to cycle `z`: the beat of the last such slot up
to drain open, T − S from the Shutter, drain being open for S − 2 µs (R55, R206; which beat is the last: DESIGN CHOICE, log entry 51). -/
def State.inDrain (s : State) (k z : Nat) : Bool :=
  let o := (s.pmc.t - s.pmc.s) * 2500
  o - (o - k) % 1024 + (z - k) + 2 ≤ o + (s.pmc.s - 2) * 2500

/-! ### Banks that carry a route -/

/-- The lowest bit of the source field of an output. -/
def outBit (o : Nat) : Nat := 32 - 3 * o

/-- An entry with a source for an output, and a stream where the core port is used. -/
def setOut (w : W32) (o src : Nat) (x : Option Nat) : W32 :=
  let v := w.toNat - bits w.toNat (outBit o) 3 * 2 ^ outBit o + src * 2 ^ outBit o
  match x with
  | some n => BitVec.ofNat 32 (v - bits v 8 6 * 2 ^ 8 + n * 2 ^ 8)
  | none => BitVec.ofNat 32 v

/-- The core port is used in an entry: injection or delivery. -/
def corePortUsed (w : Nat) : Bool := (entryOuts w).any fun o => o.2 = 5 || (o.1 = 5 && o.2 ≠ 0)

/-- A bank that holds at least phases up to `ph`. -/
def withPhase (t : Tab W32) (ph : Nat) : Tab W32 :=
  if ph < bankNph t then t else tset t 16400 (BitVec.ofNat 32 (ph + 1)) 0

/-- A hop of phase `ph` is taken out of the banks; STREAM goes with the last use of the core port. -/
def State.clearHop (s : State) (ph : Nat) (b : Banks) (h : Hop) : Banks :=
  let t := s.bankOf b h.router
  let i := 1024 * ph + h.cycle % 1024
  let w := setOut (tget t i 0) h.out 0 none
  let w := if corePortUsed w.toNat then w else BitVec.ofNat 32 (w.toNat - bits w.toNat 8 6 * 2 ^ 8)
  tput b h.router (tset t i w 0)

/-- A hop of stream `x` is put into the banks where its output, and its core port if it uses that, are idle. -/
def State.putHop (s : State) (ph x : Nat) (b : Option Banks) (h : Hop) : Option Banks :=
  b.bind fun b =>
    let t := s.bankOf b h.router
    let i := 1024 * ph + h.cycle % 1024
    let w := (tget t i 0).toNat
    let now := bits w (outBit h.out) 3
    let core := h.out = 5 || h.inp = 5
    if now = h.inp && (!core || entryStream w = x) then some b
    else if now ≠ 0 || h.out = h.inp then none
    else if core && corePortUsed w && !(h.inp = 5 && entryStream w = x && bits w 17 3 = 0) then none
    else some (tput b h.router (tset (withPhase t ph) i (setOut (BitVec.ofNat 32 w) h.out h.inp (if core then some x else none)) 0))

/-- What a computation knows: the retired outputs, and the cores whose ports have moved, each with its new router (R198). -/
structure Retired where
  out : Nat → Nat → Bool
  moved : List (Nat × Nat)

def Retired.at (x : Retired) (r : Nat) : Nat := ((x.moved.find? (·.1 = r)).map (·.2)).getD r

/-- Candidate `i` for one slot: its hops to every end; none where a link or port of it is retired, D exceeds 1,024 cycles, or the last beat
arrives after drain has closed. -/
def State.slotRoute (s : State) (x : Retired) (y : Stream) (i : Nat) (ends : List (Nat × Nat × Nat)) (k : Nat) :
    Option (List Hop) :=
  let a := if y.inp = 5 then x.at y.router else y.router
  ends.foldl (fun acc e =>
    acc.bind fun hs =>
      let z := if e.2.1 = 5 then x.at e.1 else e.1
      let moved : Bool := a ≠ y.router || z ≠ e.1
      (s.along e.2.1 (s.candidate x.out moved a z i) a y.inp k).bind fun r =>
        if r.any (fun h => x.out h.router h.out) || (y.inp = 5 && x.out a 5) ||
            e.2.2 + 1024 < (r.getLast?.map (·.cycle)).getD 0 || !s.inDrain k ((r.getLast?.map (·.cycle)).getD 0) then none
        else some (hs ++ r.filter fun h => !hs.contains h)) (some [])

/-- Stream `y` takes candidate `i` in the banks `b`, from which its old route is gone; the routers crossed keep R202. -/
def State.takeRoute (s : State) (x : Retired) (b : Banks) (y : Stream) (old : List ((Nat × Nat) × List (Nat × Nat × Nat))) (i : Nat) :
    Option Banks :=
  let r := old.foldl (fun (acc : Option (Banks × List Nat)) o =>
    acc.bind fun a => (s.slotRoute x y i o.2 o.1.2).bind fun hs =>
      (hs.foldl (s.putHop o.1.1 y.number) (some a.1)).map fun b => (b, a.2 ++ hs.map (·.router))) (some (b, []))
  r.bind fun a => if a.2.eraseDups.all fun n => (headroomFail n (s.bankOf a.1 n)).isNone then some a.1 else none

/-- One affected stream finds the first candidate that fits (R206). -/
def State.rerouteOne (s : State) (x : Retired) (b : Option Banks) (y : Stream) : Option Banks :=
  b.bind fun b =>
    let hs := y.slots.map fun k => (k, s.routeOf b y k)
    let old := hs.map fun e => (e.1, s.ends e.2)
    let b := hs.foldl (fun b e => e.2.foldl (s.clearHop e.1.1) b) b
    (List.range 7).findSome? (s.takeRoute x b y old)

/-- The stream's route uses a retired output or core port, or a core port that has moved. -/
def State.affected (s : State) (x : Retired) (b : Banks) (y : Stream) : Bool :=
  (y.inp = 5 && (x.out y.router 5 || x.at y.router ≠ y.router)) ||
    y.slots.any fun k => (s.routeOf b y k).any fun h => x.out h.router h.out || (h.out = 5 && x.at h.router ≠ h.router)

/-- R206: the banks that carry every stream of the routers `rs` around what is retired; none where a stream is unroutable. -/
def State.reroute (s : State) (x : Retired) (rs : List Nat) (b : Banks) : Option Banks :=
  ((s.streamsOf b rs).filter (s.affected x b)).foldl (s.rerouteOne x) (some b)

/-- The outputs that carry nothing: links RETIRED or to be, those that wait for detours, routers out of service (R203, R367). -/
def State.retiredOut (s : State) (r p : Nat) : Bool :=
  (s.getRtr r).idle || s.pmc.detours.contains (r, p) ||
    (match linkOf r p with
     | some l => (s.getLink l.1 l.2.1 l.2.2).mode = 2 || (s.getLink l.1 l.2.1 l.2.2).retiring
     | none => false)

/-- Routers with a table in force. -/
def State.tabled (s : State) : List Nat := (s.rtr.filter fun e => !e.2.active.isEmpty).map (·.1)

/-- The detours that stand to be computed, with core ports that move from a router to another. -/
def State.detours (s : State) (moved : List (Nat × Nat)) : Option Banks := s.reroute ⟨s.retiredOut, moved⟩ s.tabled []

end Sys2Proof.Machine
end

