-- ==== Sys2Proof/Machine/Home.lean ====
section
/-! DEFINITION. Memory as its home serves it: reads and writes of stacks and windows with their faults (R251 to R256,
R261, R263, R298), and the reservoir cache (R299). -/

namespace Sys2Proof.Machine

/-- Statuses of R269 and R302. -/
def eHbmFailed : Nat := 0x0A05
def eHbmQuiet : Nat := 0x0A06
def ePublished : Nat := 0x0B01
def eFabUnreachable : Nat := 0x0B02
def eFabRange : Nat := 0x0B03
def eFabSelf : Nat := 0x0B04
def eFabSlice : Nat := 0x0B05

/-- The hall frame number (R62); a panel outside a hall cell counts its own frames (R297). -/
def State.hallFrame (s : State) : W64 := if s.fab.hallIndex.isSome then s.pmc.frame + s.fab.fofs else s.pmc.frame

/-- A publish entry whose lease runs now covers a byte of the range (R297, R298). -/
def State.published (s : State) (a len : Nat) : Bool :=
  s.fab.pub.any fun e => e.2.start ≤ s.hallFrame && s.hallFrame ≤ e.2.stop && e.2.base < a + len && a < e.2.base + e.2.len

/-- The stack that holds an address of the HBM range. -/
def stackOf (a : Nat) : Option Nat := if a < 48 * stackSize then some (a / stackSize) else none

/-- In a host window (R265). -/
def State.inHost (s : State) (h : Nat) : Bool := s.pmc.westTaken.contains h || s.pmc.eastTaken.contains h

/-- Why a write of a plate or of another panel is refused at its home, if it is (R261, R263, R298). -/
def State.writeRefused (s : State) (a len : Nat) : Option Nat :=
  match stackOf a with
  | some h =>
    let t := s.getStack h
    if t.state = 4 then some eHbmFailed
    else if t.quiet && t.state ≠ 3 then some eHbmQuiet
    else if s.published a len then some ePublished
    else none
  | none => if s.published a len then some ePublished else none

/-- Why a read returns poisoned data (R261, R263). -/
def State.readRefused (s : State) (a : Nat) : Bool :=
  match stackOf a with
  | some h => (s.getStack h).state = 4 || ((s.getStack h).quiet && (s.getStack h).state ≠ 3)
  | none => false

/-- An access that a quiet frame turns away counts (R261). -/
def State.quietCount (s : State) (a : Nat) : State :=
  match stackOf a with
  | some h => if (s.getStack h).quiet && (s.getStack h).state ≠ 3 then s.countStack h 0x30 1 else s
  | none => s

/-- Bytes with their poison written at a home: words poisoned as they came, clean words clean (R256). -/
def State.putBytes (s : State) (a : Nat) (bs : List (Byte × Bool)) : State :=
  let s := (s.write a (bs.map (·.1))).unmark a bs.length
  let s := (List.range (bs.length / 32)).foldl (fun s i =>
    if ((bs.drop (32 * i)).take 32).any (·.2) then s.mark (a + 32 * i) 32 else s) s
  match stackOf a with
  | some h => s.countStack h 0x24 (cdiv bs.length 32)
  | none => s

/-- Bytes as they stand, each with its poison. -/
def State.marked (s : State) (a n : Nat) : List (Byte × Bool) := (upTo a n).map fun x => (s.byte x, s.wordBad (x / 32))

/-- A read of sectors counts, and meets what is wrong with them (R256, R271). -/
def State.readBytes (s : State) (a n : Nat) : List (Byte × Bool) × State :=
  (s.marked a n, (match stackOf a with
    | some h => s.countStack h 0x20 (cdiv n 32)
    | none => s).meet (wordsOf a n))

/-- Bytes read at a home, each with its poison: all poisoned where the stack does not serve the read (R261, R263). -/
def State.getBytes (s : State) (a n : Nat) : List (Byte × Bool) × State :=
  if s.readRefused a then ((upTo a n).map fun x => (s.byte x, true), s) else s.readBytes a n

/-- Bytes read at a window offset, each with its poison (R256, R265). -/
def State.winRead (s : State) (site off n : Nat) : List (Byte × Bool) × State :=
  let room := stackSize - off % stackSize
  let a := s.getBytes (s.winAddr site off) (min n room)
  if n ≤ room then a
  else
    let b := a.2.getBytes (s.winAddr site (off + room)) (n - room)
    (a.1 ++ b.1, b.2)

/-- Bytes of a window that the panel itself takes in: ring entries, plates, packages. A byte read poisoned is free (log entry 133). -/
def State.winTake (s : State) (site off n : Nat) : List Byte × State :=
  let r := s.winRead site off n
  if r.1.all fun b => !b.2 then (r.1.map (·.1), r.2)
  else (r.1.mapIdx fun i b => if b.2 then Config.freeByte r.2.fresh i else b.1, { r.2 with fresh := r.2.fresh + 1 })

/-- The panel writes bytes; sectors of a stack count (R271). -/
def State.store (s : State) (a : Nat) (bs : List Byte) : State :=
  match stackOf a with
  | some h => (s.write a bs).countStack h 0x24 (wordsOf a bs.length).length
  | none => s.write a bs

/-! ### Holds (R258, R261, R264) -/

/-- The time of base-branch cycle `c` on the timebase in units of 0.4 ns: each stretched interval has taken a ninth of its time from the
branch (R354, R361). -/
def State.baseTime (s : State) (c : Nat) : Nat := c + 25 * s.clk.used / 9

/-- The time of the next Shutter of a frame that is not extended: T + τ in units of 0.4 ns. -/
def State.shutterCycle (s : State) : Nat := (1000 * (s.pmc.t : Int) + s.fab.tau).toNat * 5 / 2

/-- Cycles left of the refresh slot that holds a stack in cycle `c`: 350 of 0.4 ns at every 5,000 of the timebase, the last cut short by the
Shutter. -/
def State.slotRest (s : State) (c : Nat) : Nat :=
  let t := s.baseTime c
  let r := 350 - t % 5000
  if s.pmc.extended || s.shutterCycle ≤ t then r else min r (s.shutterCycle - t)

/-- Cycles left of a maintenance step that holds the accesses of a stack with no quiet frames: it ends at Shutter + 33 µs. -/
def Stack.stepRest (t : Stack) (c : Nat) : Nat := if t.stepBusy && !t.quiet then 82500 - c else 0

/-- An access arrives at stack `h`, or at the window of its die, in cycle `c`: the cycles for which it is held, each cycle of a slot counted
once. A maintenance step holds what goes to the stack alone (R254, R261). -/
def State.held (s : State) (h : Nat) (hbm : Bool) (c : Nat) : Nat × State :=
  let w := s.slotRest c
  let t := s.getStack h
  (if hbm then max w (t.stepRest c) else w,
    if w = 0 then s
    else (s.countStack h 0x28 (c + w - max c t.heldTo)).modStack h fun t => { t with heldTo := max t.heldTo (c + w) })

/-- An access whose cycle its command does not tell reaches stack `h`: for how many cycles a slot holds it is free (R258): log entry 34. -/
def State.heldFree (s : State) (h : Nat) : State :=
  let c := s.choose 141 351
  c.2.modStack h fun x => { x with cnt := if c.1 = 0 then x.cnt else x.cnt.add 0x28 c.1 }

/-- The beats of a read of a stack are ready: the first at cycle `t`, each later one when its pseudo-channels have moved its sectors,
25/12 cycles a sector (R253, R254). The times are those of beats of 128 bytes at the addresses given (log entry 34). -/
def State.burst (s : State) (h t : Nat) (beats : List (List Nat)) : List Nat × State :=
  let r := beats.foldl (fun (r : List Nat × Tab Nat) as =>
    let pcs := (as.map hbmPc).eraseDups
    let go := pcs.foldl (fun m p => max m (tget r.2 p 0)) (12 * t)
    let n (p : Nat) : Nat := ((as.map (· / 32)).eraseDups.filter fun x => hbmPc (32 * x) = p).length
    (r.1 ++ [cdiv go 12], pcs.foldl (fun f p => tset f p (go + 25 * n p) 0) r.2)) ([], (s.getStack h).pcFree)
  (r.1, s.modStack h fun x => { x with pcFree := r.2 })

/-! ### The reservoir cache (R267, R299) -/

/-- Sets of the cache of a die with window `win`: 16 ways of 256-byte lines. -/
def cacheSets (win : Nat) : Nat := (8 - win) * 0x1000000 / 4096

/-- The line, if the cache holds it with a lease that runs (R299). -/
def State.cacheHit (s : State) (die tag : Nat) : Option Line :=
  (s.getStack die).cache.find? fun l => l.tag = tag && s.hallFrame.setWidth 32 ≤ l.leaseEnd

/-- The line becomes the most recently used. -/
def touchLine (ls : List Line) (tag : Nat) : List Line :=
  (ls.filter (·.tag = tag)) ++ ls.filter (·.tag ≠ tag)

/-- A line is installed: of a full set the least recently used goes. -/
def installLine (win : Nat) (ls : List Line) (x : Line) : List Line :=
  let n := cacheSets win
  if n = 0 then ls else
  let ls := ls.filter (·.tag ≠ x.tag)
  let same := ls.filter fun l => l.tag % n = x.tag % n
  let ls := if 16 ≤ same.length then
      match same.getLast? with
      | some v => ls.filter (·.tag ≠ v.tag)
      | none => ls
    else ls
  x :: ls

/-- A cache line lies in the repair buffer in use, whose 256 lines it takes from the cache (R267). Which lines do is free (log entry 32). -/
def inBuffer (key : Option Nat) (l : Line) : Bool :=
  match key with
  | some k => Config.choice 113 (k + l.tag) % 2 = 1
  | none => false

/-- The tile's reservoir die that caches for a core (R299). -/
def cacheDie (core : Nat) : Nat := coreTile core * 2 + coreX core % 4 / 2

end Sys2Proof.Machine
end

