-- ==== Sys2Proof/Machine/Fabric.lean ====
section
/-! DEFINITION. The Atnar fabric: routes (R288), trains and their egress (R276 to R282), remote transfers (R272, R278,
R293, R295), the home's service (R296, R298), ports and rings (R275, R289 to R291), barriers (R215, R285, R301). -/

namespace Sys2Proof

/-- DATA flits of a train (R277). -/
def Train.ndata (t : Train) : Nat := (t.data.length + 255) / 256

/-- A train's bytes with their poison. -/
def Train.bytes (t : Train) : List (Byte × Bool) :=
  (List.range t.data.length).map fun i => (t.data.getD i 0, t.poison.contains (i / 32))

/-- The bytes that a train carries: LEN of them (R277). -/
def Train.carried (t : Train) : List (Byte × Bool) := t.bytes.take t.len

end Sys2Proof

namespace Sys2Proof.Machine

/-! ### Routes (R288, R290) -/

/-- A port that carries trains. -/
def Port.up (p : Port) : Bool := (p.mode = .x8 || p.mode = .x4lo || p.mode = .x4hi) && !p.miswired

/-- East and west hops from this panel to `dest` on a ring map in eastward order: round a WHOLE ring, one way only on a LINE or a part of a
SPLIT one. -/
def ringHops (whole : Bool) (map : List Nat) (me dest : Nat) : Option (Option Nat × Option Nat) :=
  match map.findIdx? (· = me), map.findIdx? (· = dest) with
  | some i, some j =>
    if whole then some (some ((j + map.length - i) % map.length), some ((i + map.length - j) % map.length))
    else some (if i ≤ j then some (j - i) else none, if i < j then none else some (i - j))
  | _, _ => none

/-- The direction (west?) of a train to `dest` on ring `r`, if the ring reaches it: the fewest hops, ties east; the other way round
where the link that way is down (R288, R293). -/
def State.ringWay (s : State) (r dest : Nat) : Option Bool :=
  let g := s.getRing r
  if g.released || g.bypass then none
  else match ringHops (g.state = 0) g.map s.panelId dest with
    | none => none
    | some h =>
      let east := h.1.isSome && (s.getPort (2 * r + 1)).up
      let west := h.2.isSome && (s.getPort (2 * r)).up
      let short : Bool := match h.1, h.2 with
        | some a, some b => a ≤ b
        | some _, none => true
        | none, _ => false
      if short then (if east then some false else if west then some true else none)
      else (if west then some true else if east then some false else none)

/-- Ring and direction of a train to `dest`: the lowest-numbered ring that reaches it (R288). -/
def State.route (s : State) (dest : Nat) : Option (Nat × Bool) :=
  (List.range 16).findSome? fun r => (s.ringWay r dest).map fun w => (r, w)

/-- The port of a ring and direction: FP(2n) faces west (R288). -/
def portOf (ring : Nat) (west : Bool) : Nat := 2 * ring + b2n (!west)

/-- The virtual lane class: requests 0, responses 2, writes 4, on the even lane (R279). -/
def vlOf (op : Nat) : Nat := if op = 2 || op = 4 then 0 else if op = 1 then 4 else 2

/-- A train to `dest`, with its sectors' poison from bytes. -/
def mkTrain (s : State) (op dest ring : Nat) (west : Bool) (addr xid : Nat) (bs : List (Byte × Bool)) (len : Nat) : Train :=
  { vl := vlOf op, op := op, seq := 0, dest := dest, src := s.panelId, ring := ring, west := west, addr := addr
    xid := xid, status := 0, len := len, leaseEnd := 0, pub := false
    poison := (List.range (bs.length / 32)).filter fun i => ((bs.drop (32 * i)).take 32).any (·.2)
    data := bs.map (·.1), crcOk := true }

/-- A train enters the egress queue of its port. -/
def State.egress (s : State) (t : Train) : State :=
  s.modPort (portOf t.ring t.west) fun p => { p with egress := p.egress ++ [t] }

/-- A response to `dest` by the route that reaches it; none where no ring does. -/
def State.sendBack (s : State) (dest : Nat) (mk : Nat → Bool → Train) : State :=
  match s.route dest with
  | some r => s.egress (mk r.1 r.2)
  | none => s

/-! ### Requests of a core (R272, R278, R282, R295, R299) -/

/-- A hall address is reachable memory of its panel, by what this panel can tell: the pool or a window (R272). -/
def hallRangeOk (a len : Nat) : Bool :=
  a + len ≤ 48 * stackSize ||
    (0x100000000000 ≤ a && a < 0x100000000000 + 48 * 0x8000000 && a % 0x8000000 + len ≤ 0x8000000)

/-- Why a remote transfer is refused at issue, if it is. -/
def State.hallRefused (s : State) (addr len : Nat) : Option Nat :=
  let dest := addr / 2 ^ 48
  if dest = s.panelId then some eFabSelf
  else if !hallRangeOk (addr % 2 ^ 48) len then some eFabRange
  else if (s.route dest).isNone then some eFabUnreachable
  else none

/-- The OUT slice of the plate of core `n` on a port, and what it has placed there (R282). -/
def State.outSlice (s : State) (n port : Nat) : Option (Nat × Nat × Nat) :=
  ((s.getCore n).position.map (·.1)).bind fun w =>
    (s.boundPlate w).map fun img =>
      (w, (((slices img).filter fun x => x.1 = 3 && x.2.1 = port).map fun x => x.2.2.2).foldl (· + ·) 0,
        tget s.fab.placed (port * 96 + w) 0)

/-- The next transaction number. -/
def State.takeXid (s : State) : Nat × State :=
  (s.fab.xidNext % 65536, s.modFab fun f => { f with xidNext := (f.xidNext + 1) % 65536 })

/-- A request or write of core `n` is placed on a port, within the plate's slice; refused once OUT_UNITS flits lie
there. -/
def State.placeTrain (s : State) (n : Nat) (t : Train) : Option Nat × State :=
  let port := portOf t.ring t.west
  match s.outSlice n port with
  | none => (some eFabSlice, s)
  | some x =>
    if x.2.1 ≤ x.2.2 then (some eFabSlice, s)
    else (none, (s.egress { t with plate := some x.1 }).modFab fun f => { f with
      placed := tset f.placed (port * 96 + x.1) (x.2.2 + 1 + t.ndata) 0 })

/-- A PUT train of core `n` to a hall address, of the PUT on stream `x`. A transaction number taken again names the new PUT alone. -/
def State.putTrain (s : State) (n x addr : Nat) (bs : List (Byte × Bool)) : Option Nat × State :=
  let dest := addr / 2 ^ 48
  match s.route dest with
  | none => (some eFabUnreachable, s)
  | some r =>
    let q := (s.getCore n).dma.find? fun q => dmHall q.desc && dmPut q.desc && q.started && dmStream q.desc = x
    let i := s.takeXid
    let p := i.2.placeTrain n (mkTrain s 1 dest r.1 r.2 (addr % 2 ^ 48) i.1 bs bs.length)
    (p.1, if p.1.isSome then p.2 else p.2.modFab fun f => { f with remotes := (f.remotes.filter fun z => !(z.op = 1 && z.xid = i.1)) ++
      [{ xid := i.1, core := n, op := 1, dest := dest, addr := addr % 2 ^ 48, len := bs.length, frame := s.pmc.frame
         retried := false, rstream := x
         desc := match q with
           | some q => (q.desc.getD 0 0).toNat
           | none => 0
         index := match q with
           | some q => q.index
           | none => 0 }] })

/-- A request train of core `n` for `len` bytes: GET 2 or FILL 4. -/
def State.askTrain (s : State) (n op addr len xid : Nat) : Option Nat × State :=
  let dest := addr / 2 ^ 48
  match s.route dest with
  | none => (some eFabUnreachable, s)
  | some r => s.placeTrain n (mkTrain s op dest r.1 r.2 (addr % 2 ^ 48) xid [] len)

/-- The parts of a transfer: (address, length), each of at most `top` bytes, in one row; with `top` = 256 within one
line. -/
def parts (addr rowBytes rows stride top : Nat) : List (Nat × Nat) :=
  (List.range rows).flatMap fun r =>
    let a := addr + r * stride
    let cut (i : Nat) : Nat := if top = 256 then (a / 256 + i) * 256 else a + i * top
    let n := if top = 256 then (a + rowBytes - 1) / 256 - a / 256 + 1 else cdiv rowBytes top
    (List.range n).map fun i =>
      let lo := max a (cut i)
      (lo, min (a + rowBytes) (cut (i + 1)) - lo)

/-- One part of a remote GET: from the cache, as a fill of its line, or uncached (R299). -/
def State.getPart (s : State) (n : Nat) (u : UnitId) (port rs group : Nat) (cached : Bool) (a len : Nat) : Option Nat × State :=
  let x := s.takeXid
  let die := cacheDie n
  let t := s.getStack die
  let r : Remote := { xid := x.1, core := n, op := 2, dest := a / 2 ^ 48, addr := a % 2 ^ 48, len := len
                      frame := s.pmc.frame, retried := false, group := group, unit := u, port := port, rstream := rs, want := len }
  let add (s : State) (r : Remote) : State := s.modFab fun f => { f with remotes := f.remotes ++ [r] }
  if !cached then
    let p := x.2.askTrain n 2 a len x.1
    (p.1, if p.1.isSome then p.2 else add p.2 r)
  else if s.fab.hallIndex.isNone || cacheSets t.win = 0 then
    let p := (x.2.countStack die 0x3C 1).askTrain n 2 a len x.1
    (p.1, if p.1.isSome then p.2 else add p.2 r)
  else match s.cacheHit die (a / 256) with
    | some l =>
      let bs := (upTo (a % 256) len).map fun i => (l.data.getD i 0, l.poison.contains (i / 32))
      (none, (add x.2 { r with op := 0, data := some bs }).modStack die fun t => { t with
        cache := touchLine t.cache (a / 256)
        cnt := t.cnt.add 0x38 1 })
    | none =>
      let p := (x.2.countStack die 0x3C 1).askTrain n 4 (a / 256 * 256) 256 x.1
      (p.1, if p.1.isSome then p.2 else add p.2 { r with op := 4, addr := a / 256 * 256 % 2 ^ 48, len := 256, skip := a % 256 })

/-- Data beats of 128 bytes on a stream. -/
def dataBeats (rs : Nat) (bs : List (Byte × Bool)) : List Beat :=
  (List.range (cdiv bs.length 128)).map fun k =>
    let c := (bs.drop (128 * k)).take 128
    { data := c.map (·.1), poison := poisonOf (c.map (·.2)), head := false, last := k + 1 = cdiv bs.length 128
      sig := false, stream := rs }

/-- Once every part of a transfer has its data, the beats go to the port that returns them, in address order. -/
def State.flushGroup (s : State) (group : Nat) : State :=
  let rs := s.fab.remotes.filter fun r => r.group = group && r.op ≠ 1
  match rs with
  | [] => s
  | r :: _ =>
    if rs.all (·.data.isSome) then
      let bs := rs.flatMap fun r => r.data.getD []
      let p := s.meshPort r.unit
      (s.setMeshPort r.unit { p with tx := p.tx ++ (dataBeats r.rstream bs).map fun b => (0, r.port, b) }).modFab fun f =>
        { f with remotes := f.remotes.filter fun r => !(r.group = group && r.op ≠ 1) }
    else s

/-- A part receives its data. -/
def State.partData (s : State) (xid : Nat) (bs : List (Byte × Bool)) : State :=
  match s.fab.remotes.find? fun r => r.xid = xid && r.op ≠ 1 with
  | none => s
  | some r =>
    (s.modFab fun f => { f with remotes := f.remotes.map fun x =>
      if x.xid = xid && x.op ≠ 1 then { x with data := some ((bs.drop r.skip).take r.want) } else x }).flushGroup r.group

/-! ### Sending flits (R276 to R284) -/

/-- The priority of an EKIND for an express slot (R284). -/
def expressPrio (kind : Nat) : Nat := match kind with
  | 2 | 3 => 1
  | 4 => 2
  | 5 | 7 => 3
  | 6 => 4
  | 1 => 5
  | _ => 6

/-- The words of an express flit (R283): KIND, EKIND, DEST, SRC, the body, and CRC-32C over words 0 to 62. -/
def expressFlit (src : Nat) (e : Express) : List W32 :=
  let ws := word [(0xE, 28, 4), (e.kind, 24, 4), (e.dest, 12, 12), (src, 0, 12)] ::
    ((e.body.take 14 ++ List.replicate (14 - e.body.length) 0) ++ List.replicate 48 0)
  ws ++ [crc32c (wordBytes ws)]

/-- A flit becomes ready: it goes before those of its port that wait with a lower priority, of which there are `k`; `l` is the newest first. -/
def readyFlit (e : Express) : Nat → List Express → List Express
  | _, [] => [e]
  | 0, l => e :: l
  | k + 1, x :: l =>
    if x.port ≠ e.port then x :: readyFlit e (k + 1) l
    else if expressPrio x.kind ≤ expressPrio e.kind then e :: x :: l
    else x :: readyFlit e k l

/-- An express flit is ready at a port: BARRIER, RELEASE and HALL_SHUTTER twice (R283). The slots take ready flits by priority, equal ones in
the order in which they came (R284); how many have gone since the last flit became ready is free (log entry 135). The place of a field in its
body is log entry 112's. -/
def State.express (s : State) (port kind dest : Nat) (body : List W32) : State :=
  let n := if 2 ≤ kind && kind ≤ 4 then 2 else 1
  let w := s.choose 145 ((s.getPort port).waiting + 1)
  let e : Express := ⟨port, kind, dest, body⟩
  ((w.2.countPort port 0x10 n).modPort port fun p => { p with waiting := w.1 + n }).modFab fun f => { f with
    express := ((List.range n).foldl (fun l _ => readyFlit e w.1 l) f.express.reverse).reverse }

/-- It goes to `dest` by the ring that reaches it. -/
def State.expressTo (s : State) (kind dest : Nat) (body : List W32) : State :=
  match s.route dest with
  | some r => s.express (portOf r.1 r.2) kind dest body
  | none => s

/-- Words 12 to 14 of a HEAD flit, words 1 to 3 of CREDIT: the credits returned, 8 bits per VL, ACK_SEQ and NAK (R277, R281, R284). -/
def creditWords (p : Port) : List W32 :=
  let c (v : Nat) : Nat := min 255 (tget p.owed v 0)
  [word [(c 3, 24, 8), (c 2, 16, 8), (c 1, 8, 8), (c 0, 0, 8)], word [(c 5, 8, 8), (c 4, 0, 8)],
    word [(p.ackSeq, 16, 16), (b2n p.nak, 15, 1)]]

/-- The credits that a flit has returned are owed no more. -/
def Port.repaid (p : Port) : Port :=
  { p with owed := (List.range 6).foldl (fun t v => tset t v (tget p.owed v 0 - 255) 0) [] }

/-- With no HEAD flit due to go out, credits and the acknowledgement ride in a CREDIT express flit (R281): at each train that arrives while
none waits to be sent (log entry 135). -/
def State.giveCredit (s : State) (port : Nat) : State :=
  let p := s.getPort port
  if p.egress.isEmpty && p.again.isEmpty then (s.setPort port p.repaid).express port 0x1 p.nbrPanel (creditWords p) else s

/-- The HEAD flit of a train and the CRC over it and its DATA flits (R277). -/
def headFlit (t : Train) (p : Port) : List W32 :=
  let poison (k : Nat) : W32 := word (((List.range 32).filter fun i => t.poison.contains (32 * k + i)).map fun i => (1, i, 1))
  let ws := [word [(1, 28, 4), (t.vl, 25, 3), (t.ndata, 20, 5), (t.op, 16, 4), (t.seq, 0, 16)],
    word [(t.dest, 20, 12), (t.src, 8, 12), (t.ring, 4, 4), (b2n t.west, 3, 1)],
    BitVec.ofNat 32 t.addr, word [(t.addr / 2 ^ 32, 0, 16)], word [(t.xid, 16, 16), (t.status.toNat, 0, 16)],
    word [(t.len, 0, 13)], t.leaseEnd, word [(b2n t.pub, 31, 1)]] ++ (List.range 4).map poison ++ creditWords p ++
    List.replicate 48 0
  ws ++ [crc32c (wordBytes ws ++ t.data ++ List.replicate (256 * t.ndata - t.data.length) 0)]

/-! ### Receiving flits (R280, R283, R290, R294) -/

def State.countBadTrain (s : State) (port : Nat) : State := s.countPort port 0x1C 1

/-- A NAK_RESP for a train goes back to its source. -/
def State.nakBack (s : State) (t : Train) (status : Nat) : State :=
  s.sendBack t.src fun r w => { mkTrain s 6 t.src r w t.addr t.xid [] 0 with status := BitVec.ofNat 16 status }

/-- A train that is not for this panel goes on, or back refused (R288, R290), on the odd lane where it has crossed the dateline into
this panel, the member of the lowest ID (R279: DEDUCED, log entry 120); where the link onward is out of service it goes the other way (R293).
`k` serves one that is. -/
def State.forMe (s : State) (port : Nat) (t : Train) (k : State → State) : State :=
  let map := (s.getRing (port / 2)).map
  if t.dest = s.panelId then (if s.thm.state = 2 || s.thm.state = 3 then s.nakBack t eFabUnreachable else k s)
  else if map.contains t.dest then
    let on := portOf (port / 2) (port % 2 = 1)
    let back := !(s.getPort on).up
    s.modPort (if back then port else on) fun p => { p with
      egress := p.egress ++ [{ t with
        west := if back then !t.west else t.west
        vl := if map.all (s.panelId ≤ ·) then t.vl / 2 * 2 + 1 else t.vl
        plate := none
        turned := false }] }
  else s.nakBack t eFabUnreachable

/-- The ring's other port. -/
def mate (port : Nat) : Nat := if port % 2 = 0 then port + 1 else port - 1

/-- Trains of a port that has left service go the other way round, unacknowledged ones first, in SEQ order, before any new train (R293). -/
def State.repoint (s : State) (port : Nat) : State :=
  let p := s.getPort port
  let turn (b : Bool) (t : Train) : Train := { t with west := !t.west, turned := b }
  let s := s.setPort port { p with egress := [], replay := [], again := [], inFlight := [], seqOut := 0, seqIn := 0 }
  s.modPort (mate port) fun m => { m with egress := p.replay.map (turn true) ++ m.egress ++ p.egress.map (turn false) }

/-- The port starts to retrain (R275, R280, R293). -/
def State.startTraining (s : State) (port : Nat) : State :=
  s.modPort port fun p => { p with mode := .training, changed := s.frame16, tried := true }

/-- Trains up to and including ACK_SEQ leave the replay buffer. -/
def dropAcked (l : List Train) (ack : Nat) : List Train :=
  match l.findIdx? (·.seq = ack) with
  | some i => l.drop (i + 1)
  | none => l

/-- R280, R281: credits and an acknowledgement come back, in a HEAD or a CREDIT flit: acknowledged trains leave the replay buffer, and a NAK has
the rest resent; the eighth in 1 ms retrains the port. -/
def State.takeCredit (s : State) (port : Nat) (credits : List Nat) (ackSeq : Nat) (nak : Bool) : State :=
  let p := s.getPort port
  let left := dropAcked p.replay ackSeq
  let now := s.nowCycles
  let naks := (p.nakTimes.filter fun t => now ≤ t + 2500000) ++ [now]
  let s := s.setPort port { p with
    inFlight := (List.range 6).foldl (fun t v => tset t v (tget t v 0 - credits.getD v 0) 0) p.inFlight
    replay := left
    again := if nak then left else p.again.filter left.contains
    nakTimes := if nak then naks else p.nakTimes }
  if nak && 8 ≤ naks.length then (s.repoint port).startTraining port else s

/-- R280: a train in order with a good CRC is accepted; a bad one, and all after it until it comes again, are not. One whose OP is not
used is discarded (R278); one with a reserved bit set is rejected (R9), and a request or a write gets that answer back. -/
def State.accept (s : State) (port : Nat) (t : Train) (k : State → Out) : Out :=
  unit (port < 32) "port" <|
  due s (s.getPort port).up <| -- the port receives trains
  if !t.crcOk then .next ((s.modPort port fun p => { p with nak := true, errs := p.errs + 1 }).giveCredit port)
  else
    let s := s.takeCredit port t.credits t.ackSeq t.nak
    let p := s.getPort port
    if !p.up || t.seq ≠ p.seqIn then .next s
    else
    let s := (s.setPort port { p with
      ackSeq := t.seq
      seqIn := (t.seq + 1) % 65536
      nak := false
      owed := tset p.owed t.vl (tget p.owed t.vl 0 + 1 + t.ndata) 0 }).giveCredit port
    if t.op = 0 || 7 ≤ t.op then .next (s.countBadTrain port)
    else if t.resv then .next (if t.op = 1 || t.op = 2 || t.op = 4 then s.nakBack t eReserved else s)
    else k s

/-- An express flit arrives: one that fails CRC is discarded and counted (R283), one with a reserved bit set is rejected (R9). `twice` are the
words of a flit that is sent twice, empty for others: its second copy is discarded when the first was good (R283). -/
def flit (s : State) (port : Nat) (x : Flit) (twice : List W32) (k : State → Out) : Out :=
  unit (port < 32) "port" <|
  if !x.crcOk then .next ((s.countPort port 0x18 1).modPort port fun p => { p with errs := p.errs + 1, first := [] })
  else if !twice.isEmpty && (s.getPort port).first = twice then .next (s.modPort port fun p => { p with first := [] })
  else
    let s := if (s.getPort port).first = twice then s else s.modPort port fun p => { p with first := twice }
    if x.resv then .next (s.done eReserved) else k s

/-- A flit for another panel is relayed with the body `body` (R285, R286). -/
def relayed (s : State) (x : Flit) (kind : Nat) (body : List W32) (k : Out) : Out :=
  if x.dest = s.panelId then k else .next (s.expressTo kind x.dest body)

/-- The words that tell one flit sent twice from another: EKIND, DEST and body. -/
def copyOf (x : Flit) (kind : Nat) (body : List W32) : List W32 := word [(kind, 12, 4), (x.dest, 0, 12)] :: body

/-- A 64-bit number in two words, the low one first. -/
def twoWords (v : W64) : List W32 := [v.setWidth 32, (v >>> 32).setWidth 32]

/-- The home range of a remote access: the pool or a window in force (R272). -/
def State.homeRange (s : State) (a len : Nat) : Bool :=
  match s.unitAt a with
  | some (.res h, base, size) =>
    if a < 48 * stackSize then a + len ≤ 48 * stackSize && !s.inHost h && !s.inHost ((a + len - 1) / stackSize) else a + len ≤ base + size
  | _ => false

/-- A range of at most 4,096 bytes as its stacks have it: one run, or two where it crosses from a stack into the next. -/
def homeRuns (a len : Nat) : List (Nat × Nat) :=
  let room := stackSize - a % stackSize
  if 48 * stackSize ≤ a || len ≤ room then [(a, len)] else [(a, room), (a + room, len - room)]

/-- R295: a GET_RESP brings a part's data. -/
def execGetResp (port : Nat) (t : Train) (s : State) : Out :=
  s.accept port t fun s => .next (s.forMe port t fun s => s.partData t.xid t.carried)

/-- R299: a FILL_RESP brings a line; published, with a lease that runs, it is installed. -/
def execFillResp (port : Nat) (t : Train) (s : State) : Out :=
  s.accept port t fun s => .next (s.forMe port t fun s =>
    match s.fab.remotes.find? fun r => r.xid = t.xid && r.op = 4 with
    | none => s
    | some r =>
      let die := cacheDie r.core
      let line : Line := { tag := (r.dest * 2 ^ 48 + r.addr) / 256, data := t.data, poison := t.poison, leaseEnd := t.leaseEnd }
      let s := if t.pub && s.hallFrame.setWidth 32 ≤ t.leaseEnd then s.modStack die fun x =>
          if inBuffer x.buffer line then x -- its place is the repair buffer's (R267)
          else { x with cache := installLine (match x.winNext with
              | some n => if r.early then x.win else max x.win n.1
              | none => x.win) x.cache line }
        else s
      s.partData t.xid t.carried)

/-- R272, R298, R302: a NAK_RESP refuses a transaction. FAB_PUT_NAK and FAB_PUT_NAK_FRAME record a PUT's. A write into a published region sets
DESCRIPTOR in its core's cell (R298); any other refused PUT stops its core with the status, by DMA_NAK while the PUT is still open, like a
refused GET (R272). -/
def execNakResp (port : Nat) (t : Train) (s : State) : Out :=
  s.accept port t fun s => .next (s.forMe port t fun s =>
    match s.fab.remotes.find? fun r => r.xid = t.xid with
    | none => s
    | some r =>
      let drop (s : State) : State := s.modFab fun f => { f with remotes := f.remotes.filter fun x =>
        !(x.xid = t.xid) && !(r.op ≠ 1 && x.op ≠ 1 && x.group = r.group) }
      if r.op = 1 then
        let s := (drop s).modFab fun f => { f with
          putNak := word [(t.status.toNat, 16, 16), (t.xid, 0, 16)]
          putNakFrame := s.frame32 }
        if t.status.toNat = ePublished then s.fault r.core fDescriptor
        else if (s.getCore r.core).dma.any fun q =>
            dmHall q.desc && dmPut q.desc && q.started && q.index = r.index && dmStream q.desc = r.rstream then
          s.sendAck r.core r.unit r.port true r.rstream t.status.toNat
        else (s.countHolds r.core).reject r.core t.status.toNat r.desc r.index
      else
        -- the Fabric I/O die refuses the core's GET (R186)
        match (s.getCore r.core).dma.find? fun q => dmHall q.desc && !dmPut q.desc && q.started && dmRstream q.desc = r.rstream with
        | some q => (drop s).sendAck r.core r.unit r.port false (dmStream q.desc) t.status.toNat
        | none => drop s)

/-! ### Sending (R279 to R282) -/

/-- Flits in flight beyond 8 on a lane, summed: the shared pool in use. -/
def sharedUse (f : Tab Nat) : Nat := (f.map fun e => e.2 - 8).foldl (· + ·) 0

/-- A train of `n` flits on lane `vl` fits the receiver's buffer. -/
def creditFits (f : Tab Nat) (vl n : Nat) : Bool := sharedUse (tset f vl (tget f vl 0 + n) 0) ≤ 752

/-- Who a train counts to in the round robin of R282: its plate's work cell + 1; 0 where no plate of this panel sends it. -/
def trainOwner (t : Train) : Nat :=
  match t.plate with
  | some w => w + 1
  | none => 0

/-- Flits of trains. -/
def flitsOf (l : List Train) : Nat := (l.map fun t => 1 + t.ndata).foldl (· + ·) 0

/-- The quantum of a plate, its OUT_UNITS on the port (R282). Trains of no plate have one of the longest train: DESIGN CHOICE, log
entry 120. -/
def State.quantum (s : State) (port owner : Nat) : Nat :=
  if owner = 0 then 17
  else match s.boundPlate (owner - 1) with
    | some img => (((slices img).filter fun x => x.1 = 3 && x.2.1 = port).map fun x => x.2.2.2).foldl (· + ·) 0
    | none => 17

/-- The turn passes to the next owner that has a train, in ascending order; it takes its quantum. -/
def State.passTurn (s : State) (port : Nat) (p : Port) : Port :=
  let o := (((List.range 97).map fun i => (p.turn + 1 + i) % 97).find? fun o => p.egress.any fun t => trainOwner t = o).getD 0
  { p with turn := o, deficit := tset p.deficit o (tget p.deficit o 0 + max 1 (s.quantum port o)) 0 }

/-- The flits of a train from position `pos` on: its HEAD, and its DATA flits in the next positions that are not express slots, which take the
express flits of `ready` that wait, or idle ones; with the next position and the flits still waiting (R276, R284). -/
def placeFlits (seq : Nat) : Nat → Nat → Nat → List Nat → List (Nat × Place) × Nat × Nat
  | _, 0, pos, ready => ([], pos, ready.length)
  | k, n + 1, pos, ready =>
    let put (p : Nat) : Nat × Place := (p, if k = 0 then .head seq else .data seq (k - 1))
    if pos % 16 = 15 then
      let slot : Nat × Place := (pos, match ready with
        | e :: _ => .express e
        | [] => .idle)
      let r := placeFlits seq (k + 1) n (pos + 2) ready.tail
      (slot :: put (pos + 1) :: r.1, r.2)
    else
      let r := placeFlits seq (k + 1) n (pos + 1) ready
      (put pos :: r.1, r.2)

/-- The EKINDs of the express flits of a port that wait for a slot, in the order in which the slots take them. -/
def State.readyKinds (s : State) (port : Nat) : List Nat :=
  let l := (s.fab.express.filter fun e => e.port = port).map (·.kind)
  l.drop (l.length - (s.getPort port).waiting)

/-- The train `t` is sent at a port: how many idle flits have gone before it is free (log entry 135). The answer is its HEAD flit, with the
credits and the acknowledgement that the port owes (R277, R281). -/
def State.putOnLine (s : State) (port : Nat) (t : Train) : State :=
  let p := s.getPort port
  let c := s.choose 146 65536
  let r := placeFlits t.seq 0 (1 + t.ndata) (p.pos + c.1) (s.readyKinds port)
  ((c.2.setPort port { p.repaid with pos := r.2.1, line := r.1, waiting := r.2.2 }).countPort port 0x10 (1 + t.ndata)).answer 0 (headFlit t p)

/-- Deficit round robin (R282): the owner whose turn it is sends while its deficit lasts; then the next one
takes its quantum. -/
def State.nextOwner (s : State) (port : Nat) (p : Port) : Nat → Port
  | 0 => p
  | k + 1 =>
    match p.egress.find? fun t => trainOwner t = p.turn with
    | some t =>
      if 1 + t.ndata ≤ tget p.deficit p.turn 0 then p
      else State.nextOwner s port (s.passTurn port p) k
    | none => State.nextOwner s port (s.passTurn port { p with deficit := tset p.deficit p.turn 0 0 }) k

/-- The train of an egress queue whose turn it is, with its place, and the port once the round robin has come to it: one that was re-pointed
goes first (R293). -/
def State.nextTrain (s : State) (port : Nat) : Option (Nat × Train × Port) :=
  let p := s.getPort port
  match p.egress.findIdx? (·.turned) with
  | some i => (p.egress[i]?).map fun t => (i, t, p)
  | none =>
    let q := s.nextOwner port p 2048
    (p.egress.findIdx? fun t => trainOwner t = q.turn).bind fun i => (p.egress[i]?).map fun t =>
      (i, t, { q with deficit := tset q.deficit q.turn (tget q.deficit q.turn 0 - (1 + t.ndata)) 0 })

/-- A train fits the credit and the replay buffer of a port that carries trains (R279, R280). -/
def Port.fits (p : Port) (t : Train) : Bool :=
  p.up && creditFits p.inFlight t.vl (1 + t.ndata) && flitsOf p.replay + (1 + t.ndata) ≤ 800

/-- A train of the egress queue is sent: it takes the next SEQ, and waits in the replay buffer for its acknowledgement. -/
def State.sendNew (s : State) (port i : Nat) (t : Train) (q : Port) : State :=
  let p := s.getPort port
  let t := { t with seq := p.seqOut, turned := false }
  (s.setPort port { q with
    egress := p.egress.eraseIdx i
    replay := p.replay ++ [t]
    seqOut := (p.seqOut + 1) % 65536
    inFlight := tset p.inFlight t.vl (tget p.inFlight t.vl 0 + 1 + t.ndata) 0 }).putOnLine port t

/-- The first train to be resent is sent, and counts in FAB_CNT_REPLAY (R280). -/
def State.resend (s : State) (port : Nat) (t : Train) (l : List Train) : State :=
  ((s.modPort port fun p => { p with again := l, replays := p.replays + 1 }).countPort port 0x14 1).putOnLine port t

/-- R276, R277, R279 to R282: the port sends a train: the first to be resent, else the one whose turn it is; the answer is the HEAD flit. -/
def execTrainSend (port : Nat) (s : State) : Out :=
  unit (port < 32) "port" <|
  match (s.getPort port).again with
  | t :: l => due s (s.getPort port).up <| .next (s.resend port t l) -- the port carries trains
  | [] =>
    match s.nextTrain port with
    | none => .next s -- nothing, unless a train waits in the egress queue
    | some (i, t, q) => due s ((s.getPort port).fits t) <| .next (s.sendNew port i t q) -- the train fits credit and the replay buffer

/-- R280, R281: CREDIT brings credits and an acknowledgement. -/
def execCredit (rx : Rx) (credits : List Nat) (ackSeq : Nat) (nak : Bool) (s : State) : Out :=
  flit s rx.port rx.flit [] fun s => .next (s.takeCredit rx.port credits ackSeq nak)

/-- A remote GET or fill ends with poisoned data (R293). -/
def State.endPoisoned (s : State) (xid : Nat) : State :=
  match s.fab.remotes.find? fun r => r.xid = xid && (r.op = 2 || r.op = 4) && r.data.isNone with
  | none => s
  | some r =>
    let e := s.fresh
    ({ s with fresh := e + 1 }).partData xid ((List.range r.len).map fun i => (Config.freeByte e i, true))

/-- R293: a remote GET or fill has had no answer for 100 µs: it is asked for once more, then ends poisoned. -/
def execRemoteFetchTimeout (xid : Nat) (s : State) : Out :=
  match s.fab.remotes.find? fun r => r.xid = xid && (r.op = 2 || r.op = 4) && r.data.isNone with
  | none => .next s -- nothing, unless a remote fetch is outstanding
  | some r =>
    if !r.retried then
      let s1 := s.modFab fun f => { f with remotes := f.remotes.map fun x =>
        if x.xid = xid && x.op ≠ 1 then { x with retried := true } else x }
      .next (match s.route r.dest with
        | some t => s1.egress (mkTrain s r.op r.dest t.1 t.2 r.addr xid [] r.len)
        | none => s1)
    else .next (s.endPoisoned xid)

/-- The first element of a list that `f` accepts goes. -/
def dropFirst {α : Type} (f : α → Bool) (l : List α) : List α := match l.findIdx? f with
  | some i => l.eraseIdx i
  | none => l

/-- R293, R296: a train of transaction `xid` not complete by Shutter a + 2 is discarded and counted at the port, and the transfer ends: a
GET or fill of this panel with poisoned data, a PUT as it stands. Of several trains of one number this panel's own goes, else the first: when
another panel's was issued it does not say. -/
def execLateTrainDiscard (port xid : Nat) (s : State) : Out :=
  unit (port < 32) "port" <|
  let p := s.getPort port
  let mine := s.fab.remotes.find? fun r => r.xid = xid && r.op ≠ 0
  let own (t : Train) : Bool := t.xid = xid && t.src = s.panelId && (t.op = 1 || t.op = 2 || t.op = 4)
  let hit (t : Train) : Bool := if mine.isSome then own t else t.xid = xid && !own t
  due s (match mine with
    | some r => decide (r.frame + 2 ≤ s.pmc.frame)
    | none => (p.egress ++ p.replay).any hit) <| -- the transfer, or a train of another panel, is late
  let s := (s.countBadTrain port).modPort port fun p => { p with
    egress := dropFirst hit p.egress
    replay := dropFirst hit p.replay
    again := dropFirst hit p.again }
  .next ((s.endPoisoned xid).modFab fun f => { f with remotes := f.remotes.filter fun r => !(r.op = 1 && r.xid = xid && mine.isSome) })

/-! ### Ports (R275, R281, R293) -/

/-- A port's row follows its mode (R393); MISWIRED shows as DEGRADED: DESIGN CHOICE, log entry 121. -/
def State.portRow (s : State) (port : Nat) : State :=
  let p := s.getPort port
  let bad := p.localFault || p.spanFault
  s.rowState (rowPort port) (match p.mode with
    | .x8 => if p.miswired then 2 else 1
    | .x4lo => 2
    | .x4hi => 2
    | .training => 6
    | .absent => 0
    | .down => 5) (if bad then 0x2D else 0)

/-- IDENT's body (R289): panel ID, port, ring, dimension, hall index and mode, then the serial. -/
def State.sendIdent (s : State) (port : Nat) : State :=
  let p := s.getPort port
  s.express port 0x5 p.nbrPanel
    ([word [(s.panelId, 20, 12), (port, 15, 5), (port / 2, 11, 4), ((s.getRing (port / 2)).dim, 9, 2)],
      word [(s.fab.hallIndex.getD 0x3FF, 22, 10), (if p.mode = .x8 then 1 else if p.mode = .x4lo then 2 else 3, 19, 3)]] ++
      twoWords s.sec.serial)

/-- R275, R281: training ends. -/
def execPortTrained (port : Nat) (mode : PortMode) (rtt : Nat) (s : State) : Out :=
  unit (port < 32) "port" <|
  due s ((s.getPort port).mode = .training || (s.getPort port).mode = .down) <| -- the port trains
  let up := mode = .x8 || mode = .x4lo || mode = .x4hi
  let s := s.modPort port fun p => { p with
    mode := if up then mode else .down
    changed := s.frame16
    rtt := if up then sat 0xFFFF rtt else p.rtt
    rttLong := up && 970 < rtt
    localFault := if up then false else p.localFault
    spanFault := if up then false else p.spanFault
    seqIn := 0
    seqOut := 0
    ackSeq := 65535 -- nothing has been received (log entry 135)
    inFlight := []
    again := []
    pos := 0
    line := []
    nak := false
    owed := []
    first := []
    nakTimes := []
    tried := true
    loopback := !up }
  let s := s.portRow port
  let s := if up then s.sendIdent port else s
  let g := s.getRing (port / 2)
  let both := (s.getPort (mate port)).up
  .next (if up && !g.released && (both || !g.bypass) then
      s.setRing (port / 2) { g with bypass := false, forming := some [s.panelId], probing := 1 }
    else s)

/-- The map of a ring at whose member `me` the link east, or west, has broken: of a WHOLE ring a line that ends at this panel, of a line the
part on its side of the break (R290, R293). -/
def brokenMap (g : Ring) (me : Nat) (east : Bool) : List Nat :=
  match g.map.findIdx? (· = me) with
  | none => g.map
  | some i =>
    if g.state = 0 then (if east then g.map.drop (i + 1) ++ g.map.take (i + 1) else g.map.drop i ++ g.map.take i)
    else if east then g.map.take (i + 1) else g.map.drop i

/-- R275, R293: no valid flit for 1 µs. -/
def execPortDown (port : Nat) (s : State) : Out :=
  unit (port < 32) "port" <|
  due s ((s.getPort port).mode ≠ .absent && (s.getPort port).mode ≠ .down) <| -- the port is in service
  let s := (s.repoint port).modPort port fun p => { p with mode := .down, changed := s.frame16, loopback := true }
  let s := s.portRow port
  let s := s.modRing (port / 2) fun g => { g with
    map := brokenMap g s.panelId (port % 2 = 1)
    state := if g.state = 0 && (s.getPort (mate port)).up then 1 else if g.state = 3 then 3 else 2 }
  .next (s.event evLink (s.componentId (rowPort port)) (s.row (rowPort port)).state 0)

/-- R427: a port passes its self-test in the cold start: with both of a ring they train. -/
def State.bootPort (s : State) (port : Nat) : State :=
  let s := s.modPort port fun p => { p with loopback := false }
  let m := s.getPort (mate port)
  if m.loopback || m.localFault || (s.getRing (port / 2)).released then s
  else ((s.startTraining port).portRow port).startTraining (mate port) |>.portRow (mate port)

/-- The bypass of a ring closes: this panel is no member of it (R291). -/
def State.closeBypass (s : State) (ring : Nat) : State :=
  s.modRing ring fun g => { g with
    bypass := true, state := 3, map := [], members := 0, forming := none, probing := 0, leaving := [], fromWest := [], fromEast := [] }

/-- A port of a bypassed ring sees no flit any more: it is DOWN, and runs its self-test (R275, R291). -/
def State.cutOff (s : State) (port : Nat) : State :=
  if (s.getPort port).mode = .absent || (s.getPort port).mode = .down then s
  else (s.modPort port fun p => { p with
    mode := .down, changed := s.frame16, loopback := true, egress := [], replay := [], again := [], inFlight := [] }).portRow port

/-- R275, R291, R427: the loopback self-test ends: the fault is the port's own, and its ring is released, or the span's. The first self-test
of a cold start comes before any training. -/
def execLoopbackDone (port : Nat) (pass : Bool) (s : State) : Out :=
  unit (port < 32) "port" <|
  due s ((s.getPort port).loopback && 4 ≤ s.boot.step) <| -- the loopback self-test runs
  if pass && s.boot.step = 4 && !(s.getPort port).tried then .next (s.bootPort port) else
  let s := s.modPort port fun p => { p with loopback := false, localFault := !pass, spanFault := pass }
  let s := s.rowFault (rowPort port) (if pass then 5 else 4) 0x2D
  .next (if pass then s else (s.closeBypass (port / 2)).cutOff (mate port))

/-- R275: a port with a span fault retrains every 100 ms. -/
def execSpanRetrainTimer (port : Nat) (s : State) : Out :=
  unit (port < 32) "port" <|
  due s ((s.getPort port).mode = .down && (s.getPort port).spanFault) <| -- the port is down with a span fault
  .next (((s.startTraining port).rowAttempt (rowPort port)).portRow port)

/-- R293: the PMC retrains the port while the ring carries traffic the other way. -/
def execPortPeriodicRetrain (port : Nat) (s : State) : Out :=
  unit (port < 32) "port" <|
  due s (s.getPort port).up <| -- the port is in service
  .next (((s.repoint port).startTraining port).portRow port)

/-! ### Rings (R289 to R291) -/

/-- This panel has the lowest ID of the members that it knows of a ring: those of its map and its neighbours (R290). -/
def State.lowest (s : State) (ring : Nat) : Bool :=
  let nbrs := [2 * ring, 2 * ring + 1].filterMap fun p => if (s.getPort p).nbrValid then some (s.getPort p).nbrPanel else none
  ((s.getRing ring).map ++ nbrs).all (s.panelId ≤ ·)

/-- A PROBE goes out with this panel's ID. -/
def State.sendProbe (s : State) (ring : Nat) (west : Bool) : State :=
  s.express (portOf ring west) 0x6 (s.getPort (portOf ring west)).nbrPanel [BitVec.ofNat 32 s.panelId]

/-- R290 step 2: after IDENT in both directions the member of the lowest ID sends PROBE east. An end of a line sends one along it (DEDUCED
from R290's PROBEs of both ends: log entry 136). -/
def State.startProbe (s : State) (ring : Nat) : State :=
  let w := s.getPort (2 * ring)
  let e := s.getPort (2 * ring + 1)
  if (s.getRing ring).probing ≠ 1 then s
  else if w.up && e.up then (if w.nbrValid && e.nbrValid && s.lowest ring then s.sendProbe ring false else s)
  else if e.up && e.nbrValid then s.sendProbe ring false
  else if w.up && w.nbrValid then s.sendProbe ring true
  else s

/-- R289, R294: a neighbour identifies itself. A known serial with a new panel ID invalidates the lines of the old. -/
def execIdent (rx : Rx) (body : IdentBody) (s : State) : Out :=
  let port := rx.port
  flit s port rx.flit [] fun s =>
  let old := s.fab.known.find? fun e => e.1 = body.serial && e.2 ≠ body.panel
  let s := match old with
    | some e => s.stack.foldl (fun (s : State) (x : Nat × Stack) => s.modStack x.1 fun t => { t with
        cache := t.cache.filter fun l => l.tag / 2 ^ 40 ≠ e.2 }) s
    | none => s
  let s := s.modFab fun f => { f with known := (f.known.filter fun (e : W64 × Nat) => e.1 ≠ body.serial) ++ [(body.serial, body.panel)] }
  let s := s.modPort port fun p => { p with
    nbrPanel := body.panel
    nbrPort := body.port
    nbrValid := true
    nbrHall := body.hall
    nbrSerial := body.serial
    miswired := body.ring ≠ port / 2 || body.dim ≠ (s.getRing (port / 2)).dim }
  .next ((s.portRow port).startProbe (port / 2))

/-- R291: a member leaves a ring at a Shutter. -/
def execLeave (rx : Rx) (panel : Nat) (frame : W64) (s : State) : Out :=
  flit s rx.port rx.flit [] fun s =>
  .next (s.modRing (rx.port / 2) fun g => { g with leaving := g.leaving ++ [(panel, frame)] })

/-- A PROBE with its IDs goes on in its direction. -/
def State.passProbe (s : State) (ring : Nat) (west : Bool) (ids : List Nat) : State :=
  let on := portOf ring west
  if (s.getPort on).up then s.express on 0x6 (s.getPort on).nbrPanel (ids.map (BitVec.ofNat 32)) else s

/-- A ring map is complete: it is adopted at the next Shutter, and the ring is WHOLE (R290). -/
def Ring.complete (g : Ring) (map : List Nat) : Ring :=
  { g with forming := some map, state := 0, probing := 0, fromWest := [], fromEast := [] }

/-- A list of members that a PROBE has brought; the longest counts. -/
def Ring.heard (g : Ring) (west : Bool) (ids : List Nat) : Ring :=
  if west then { g with fromEast := if g.fromEast.length ≤ ids.length then ids else g.fromEast }
  else { g with fromWest := if g.fromWest.length ≤ ids.length then ids else g.fromWest }

/-- R290: a PROBE arrives. A member whose ID it lacks appends it, keeps what it brings of the ring on that side, and passes it on. Back at its
sender it has the whole map, and goes round once more; a member that finds its own ID in it adopts that map (DEDUCED: log entry 136). -/
def execProbe (port : Nat) (ids : List Nat) (x : Flit) (s : State) : Out :=
  flit s port x [] fun s =>
  let ring := port / 2
  let west : Bool := port % 2 = 1
  due s (!(s.getRing ring).bypass) <| -- the ring is not bypassed
  let map := if west then ids.reverse else ids
  let s :=
    if !ids.contains s.panelId then (s.modRing ring fun g => g.heard west ids).passProbe ring west (ids ++ [s.panelId])
    else if ids.head? = some s.panelId && (s.getRing ring).probing = 0 then s -- its second round has ended
    else (s.modRing ring fun g => g.complete map).passProbe ring west ids
  .next (s.answer 0 (ids.map (BitVec.ofNat 32)))

/-- R290: a PROBE has not come back: it goes the other way; then the ring is a line, whose map the PROBEs of both ends give, or a part of a
SPLIT ring, where members of the map before are missing (DEDUCED: log entry 136). -/
def execProbeTimeout (ring : Nat) (s : State) : Out :=
  unit (ring < 16) "ring" <|
  due s ((s.getRing ring).probing ≠ 0) <| -- a PROBE is out
  let s := if (s.getRing ring).probing = 1 && s.lowest ring then s.sendProbe ring true else s
  .next (s.modRing ring fun g => if g.probing = 1 then { g with probing := 2 } else
    let m := (g.fromWest ++ s.panelId :: g.fromEast.reverse).eraseDups
    { g with forming := some m, probing := 0, state := if g.map.all m.contains then 1 else 2, fromWest := [], fromEast := [] })

/-! ### Barriers (R215, R285, R301) -/

/-- Whether barrier `id` is a hall barrier of this panel's hall cell: the spec gives a barrier's ID no form, so this is
free (log entry 27). -/
def State.hallBarrier (s : State) (id : Nat) : Bool := s.fab.hallIndex.isSome && Config.choice 200 id % 2 = 1

def State.getBarrier (s : State) (id : Nat) : Option Barrier := s.fab.barriers.find? fun b => b.id = id
def State.putBarrier (s : State) (b : Barrier) : State :=
  s.modFab fun f => { f with barriers := (f.barriers.filter fun x => x.id ≠ b.id) ++ [b] }

/-- The participant that arrived last (R415). -/
def lastArrival (l : List (Nat × Nat)) : Option Nat :=
  match l with
  | [] => none
  | a :: r => some (r.foldl (fun m x => if m.2 < x.2 then x else m) a).1

/-- Lateness of a participant of a hall barrier, ns (R301). -/
def State.lateOf (s : State) (a : Nat × Nat) (earliest : Nat) : Nat := ((a.2 : Int) + s.fab.offset - earliest).toNat

/-- R415: the last core of each work cell, where it came more than 1 µs late. -/
def State.lastOfCells (s : State) (b : Barrier) (earliest : Nat) : List Nat :=
  let cells := (b.arrived.filterMap fun a => (s.getCore a.1).position.map (·.1)).eraseDups
  cells.filterMap fun w =>
    let mine := b.arrived.filter fun a => (s.getCore a.1).position.map (·.1) = some w
    (lastArrival mine).bind fun n =>
      if mine.any fun a => a.1 = n && 1000 < s.lateOf a earliest then some n else none

/-- The lateness of a hall barrier's local participants (R301): the largest of the frame for each work cell and for the
panel (entry 96), in ns; and the last cores (R415). -/
def State.noteLateness (s : State) (b : Barrier) (earliest : Nat) : State :=
  let l := s.lastOfCells b earliest
  let s := b.arrived.foldl (fun (s : State) a =>
    let late := s.lateOf a earliest
    let up (t : Tab Nat) (i : Nat) : Tab Nat := tset t i (max (tget t i 0) late) 0
    let mine := match (s.getCore a.1).position with
      | some p => up s.fab.lateNow p.1
      | none => s.fab.lateNow
    s.modFab fun f => { f with lateNow := up mine 96 }) s
  s.modHlt fun h => { h with lastCores := h.lastCores ++ l }

/-- The body of BARRIER and RELEASE: hall cell, barrier ID, arrivals, earliest arrival. -/
def barrierBody (s : State) (id arrivals earliest : Nat) : List W32 :=
  [word [(s.fab.hallIndex.getD 0x3FF, 0, 10)], BitVec.ofNat 32 id, BitVec.ofNat 32 arrivals] ++ twoWords (BitVec.ofNat 64 earliest)

/-- R285: on the hall master, RELEASE follows once every member's arrivals are in. -/
def State.tryRelease (s : State) (b : Barrier) : State :=
  let master := s.fab.hallIndex.isSome && s.fab.hallMembers.foldl min s.panelId = s.panelId
  if b.hall && master && !b.released && s.fab.hallMembers.all b.panels.contains then
    let s := s.fab.hallMembers.foldl (fun (s : State) m =>
      if m = s.panelId then s else s.expressTo 0x3 m (barrierBody s b.id b.arrived.length b.earliest)) s
    (s.putBarrier { b with released := true }).noteLateness b b.earliest
  else s.putBarrier b

/-- R215, R285: a participant arrives. The declared count releases a panel barrier; on a hall member it is forwarded. -/
def execBarrierArrival (id core count time : Nat) (s : State) : Out :=
  unit (coreOk core) "core" <|
  let b := (s.getBarrier id).getD
    { id := id, count := count, arrived := [], panels := [], earliest := time, released := false, hall := s.hallBarrier id }
  let b := if b.arrived.isEmpty then { b with count := count } else b -- a member's BARRIER may have come first
  due s (!b.released && b.arrived.length < b.count && s.reaches (coreQuad core) nodePmc) <| -- the barrier waits for arrivals
  let l := b.arrived ++ [(core, time)]
  let full := b.count ≤ l.length
  let b := { b with
    arrived := l
    earliest := min b.earliest time
    panels := if full && b.hall then nadd b.panels s.panelId else b.panels
    released := full && !b.hall }
  let m := s.fab.hallMembers.foldl min s.panelId
  .next ((if full && b.hall && m ≠ s.panelId then s.expressTo 0x2 m (barrierBody s id b.arrived.length b.earliest) else s).tryRelease b)

/-- R215: the release of a barrier reaches a participant. -/
def execBarrierRelease (id : Nat) (core : Timed Nat) (s : State) : Out :=
  unit (coreOk core.val) "core" <|
  match s.getBarrier id with
  | none => .next s -- nothing, unless the barrier is released
  | some b =>
    due s (b.released && (b.arrived.any fun a => a.1 = core.val) && s.reaches nodePmc (coreQuad core.val)) <|
    -- the barrier is released to a participant; a message that would cross a failed link is lost (R213)
    .next ((s.ctlLate (coreQuad core.val) core.late).modCore core.val fun c => { c with released := c.released ++ [id] })

/-- R285: a member's BARRIER reaches the hall master: RELEASE follows once every member has arrived. The count of local participants is what
they declare. -/
def execExpressBarrier (rx : Rx) (id src : Nat) (arrivals : HallArrivals) (s : State) : Out :=
  let body := barrierBody s id arrivals.count arrivals.earliest
  flit s rx.port rx.flit (copyOf rx.flit 0x2 body) fun s =>
  relayed s rx.flit 0x2 body <|
  due s (s.fab.hallIndex.isSome && s.fab.hallMembers.foldl min s.panelId = s.panelId) <| -- this panel is the hall master
  let b := (s.getBarrier id).getD
    { id := id, count := 0, arrived := [], panels := [], earliest := arrivals.earliest, released := false, hall := true }
  .next ((s.tryRelease { b with panels := nadd b.panels src, earliest := min b.earliest arrivals.earliest }).answer 0
    [BitVec.ofNat 32 id])

/-- R285, R301: the master's RELEASE reaches a member. -/
def execExpressRelease (rx : Rx) (release : HallRelease) (s : State) : Out :=
  let body := barrierBody s release.id 0 release.earliest
  flit s rx.port rx.flit (copyOf rx.flit 0x3 body) fun s =>
  relayed s rx.flit 0x3 body <|
  match s.getBarrier release.id with
  | none => .next s -- nothing, unless the hall barrier waits for its release
  | some b =>
    due s (b.hall && !b.released) <| -- the hall barrier waits for its release
    .next ((s.putBarrier { b with released := true, earliest := release.earliest }).noteLateness b release.earliest)

end Sys2Proof.Machine
end

