-- ==== Sys2Proof/Machine/Remote.lean ====
section
/-! DEFINITION. The receiving end of DMA transfers: a destination writes a PUT (R164 to R168, R186, R407), a responder
serves a GET (R186, R254), and a Fabric I/O die turns hall transfers into trains (R278, R295). -/

namespace Sys2Proof.Machine

/-! ### Headers (R185) -/

/-- Word `i` of a header beat. -/
def Beat.head32 (b : Beat) (i : Nat) : Nat := leNat ((b.data.drop (4 * i)).take 4)
/-- TYPE. -/
def Beat.kind (b : Beat) : Nat := bits (b.head32 0) 28 4

/-- The transfer that a header opens. -/
def Beat.xfer (b : Beat) : Xfer :=
  { src := bits (b.head32 0) 16 12
    stream := b.stream
    rstream := bits (b.head32 0) 10 6
    addr := b.head32 1 + 2 ^ 32 * bits (b.head32 2) 0 28
    rowBytes := bits (b.head32 3) 0 25
    rows := bits (b.head32 4) 0 20
    addrStride := b.head32 5
    hall := bitOf (b.head32 6) 1
    cache := bitOf (b.head32 6) 0
    signal := BitVec.ofNat 32 (b.head32 7)
    moved := 0
    refused := none }

def Xfer.total (x : Xfer) : Nat := x.rowBytes * x.rows
/-- The address of byte `p`. -/
def Xfer.at (x : Xfer) (p : Nat) : Nat := x.addr + p / x.rowBytes * x.addrStride + p % x.rowBytes

/-! ### Writing a PUT (R164, R165, R168, R186) -/

/-- A valid resident entry of core `n` holds scratch byte `a` (R168). -/
def Core.residentAt (c : Core) (a : Nat) : Bool :=
  c.scr.valid.any fun h =>
    let e := c.cad h
    e.resident && e.base ≤ a && a < e.base + e.size

/-- One 32-byte word of a PUT that arrives in base-branch cycle `cyc` is written, or refused with a status. -/
def State.putWord (s : State) (cyc a : Nat) (bs : List (Byte × Bool)) : Option Nat × State :=
  match s.unitAt a with
  | some (.core n, base, _) =>
    let c := s.getCore n
    if c.ccb.state = .resetting then (some stCellReset, s)
    else if c.residentAt (a - base) then (some eScrResident, s.countCore n 0x0534 1)
    else
      let t := s.coreCycle n cyc
      let r := s.portWrite n touchFar t t [a / 32]
      (none, (r.2.holdDma n t r.1.hold).putBytes a bs)
  | some _ =>
    match s.writeRefused a bs.length with
    | some e => (some e, s)
    | none => (none, s.putBytes a bs)
  | none => (some eDescBounds, s)

/-- The words of a beat are written in order; the first refusal is kept, and a quiet frame counts the access once. -/
def State.putWords (s : State) (cyc : Nat) (x : Xfer) (p : Nat) (bs : List (Byte × Bool)) : Xfer × State :=
  (List.range (cdiv bs.length 32)).foldl (fun (r : Xfer × State) i =>
    let a := r.1.at (p + 32 * i)
    let w := r.2.putWord cyc a ((bs.drop (32 * i)).take 32)
    match w.1, r.1.refused with
    | some e, none => ({ r.1 with refused := some (BitVec.ofNat 16 e) }, w.2.quietCount a)
    | _, _ => (r.1, w.2)) (x, s)

/-- Full trains of a hall PUT go out: at most 4,096 bytes each, all in one row (R277, R278). -/
def State.putTrains (s : State) (x : Xfer) : Nat → Xfer × State
  | 0 => (x, s)
  | k + 1 =>
    let sent := x.moved - x.buf.length
    let n := min 4096 (x.rowBytes - sent % x.rowBytes)
    if x.buf.isEmpty || x.buf.length < n then (x, s)
    else
      let r := s.putTrain x.src x.stream (x.at sent) (x.buf.take n)
      let x := { x with buf := x.buf.drop n }
      match r.1 with
      | some e => ({ x with refused := some (BitVec.ofNat 16 e), buf := [] }, r.2)
      | none => State.putTrains r.2 x k

/-- The signal of a SIG beat, applied after its data (R80, R407). -/
def State.remoteSignal (s : State) (x : Xfer) : State :=
  match s.unitAt (x.addr) with
  | some (.core n, _, _) =>
    if (s.getCore n).ccb.state = .resetting then s.countPmc 0x0520 1
    else if x.refused.isSome then s
    else s.semAdd n (bits x.signal.toNat 16 9) (bits x.signal.toNat 0 8)
  | _ => s

/-- A data beat of a PUT reaches its destination in base-branch cycle `cyc`. -/
def State.putData (s : State) (cyc : Nat) (x : Xfer) (b : Beat) : Xfer × State :=
  let bs := beatBytes [b]
  if x.hall then
    let x := { x with moved := x.moved + bs.length, buf := if x.refused.isSome then [] else x.buf ++ bs }
    s.putTrains x 256
  else
    let r := s.putWords cyc x x.moved bs
    ({ r.1 with moved := x.moved + bs.length }, if b.sig then r.2.remoteSignal r.1 else r.2)

/-- The arrival whose turn it is (R255): the earliest header, or data of a transfer that a PUT header opened at the port. Data that the
unit's own GETs await is none. -/
def MeshPort.turn (p : MeshPort) : Option Nat :=
  p.rx.findIdx? fun e => e.2.2.head || p.xfers.any fun x => x.port = e.2.1 && x.stream = e.2.2.stream

/-- The last byte lies below the first of its own rows: the bytes that a transfer spans. -/
def Xfer.span (x : Xfer) : Nat := (x.rows - 1) * x.addrStride + x.rowBytes

/-- The transfer's address as the receiving unit takes it: a core writes and reads its own scratch, a reservoir die its own stack and
window, so that each destination of a multicast has its copy (R186): DEDUCED, log entry 116. -/
def localAddr (u : UnitId) (a : Nat) : Nat :=
  match u with
  | .core n => if 0x200000000000 ≤ a && a < 0x200000000000 + 576 * 0x1000000 then scratchAddr n (a % 0x1000000) else a
  | .res h =>
    if a < 48 * stackSize then stackAddr h (a % stackSize)
    else if 0x100000000000 ≤ a && a < 0x100000000000 + 48 * 0x8000000 then winBase h + a % 0x8000000
    else a
  | _ => a

/-- The transfer as unit `u` opens it at port `port`. -/
def Xfer.open (x : Xfer) (u : UnitId) (port : Nat) : Xfer := { x with port := port, addr := if x.hall then x.addr else localAddr u x.addr }

/-- An arrival at a port reads or writes the die's stack, not its window. -/
def MeshPort.toStack (p : MeshPort) (port : Nat) (b : Beat) : Bool :=
  if b.head then b.xfer.addr < 48 * stackSize
  else (p.xfers.find? fun z => z.port = port && z.stream = b.stream).any fun z => z.addr < 48 * stackSize

/-- An arrival is taken: at a core, its event; at a reservoir die, the holds of its stack (R254, R258, R264). -/
def State.taken (s : State) (u : UnitId) (i port cyc : Nat) (b : Beat) : Nat × State :=
  let p := s.meshPort u
  let s := s.setMeshPort u { p with rx := p.rx.eraseIdx i }
  match u with
  | .core n => (0, (s.at n (s.coreCycle n cyc)).itemAt (coreQuad n) cyc)
  | .res h => s.held h (p.toStack port b) cyc
  | _ => (0, s)

/-- The arrival whose turn it is at a unit, with its place in the queue. -/
def MeshPort.front (p : MeshPort) : Option (Nat × Nat × Nat × Beat) := p.turn.bind fun i => (p.rx[i]?).map fun e => (i, e)

/-- R164, R165, R168, R186, R255: the destination takes a beat of a PUT, the arrival `i` of its queue. Behind the last beat it sends DMA_ACK,
or DMA_NAK where the write was refused. -/
def State.takePut (s : State) (dest : UnitId) (i : Nat) (e : Nat × Nat × Beat) : State :=
  let s := (s.taken dest i e.2.1 e.1 e.2.2).2
  let p := s.meshPort dest
  if e.2.2.head then
    let x := e.2.2.xfer.open dest e.2.1
    let x := if x.hall then { x with refused := (s.hallRefused x.addr x.span).map (BitVec.ofNat 16) } else x
    (s.setMeshPort dest { p with xfers := p.xfers ++ [x] }).answer 0
  else
    let mine (z : Xfer) : Bool := z.port = e.2.1 && z.stream = e.2.2.stream
    match p.xfers.find? mine with
    | none => s -- the turn is that of an open transfer
    | some x =>
      let r := s.putData e.1 x e.2.2
      let y := r.1
      let q := r.2.meshPort dest
      if e.2.2.last || y.total ≤ y.moved then
        let s := r.2.setMeshPort dest { q with xfers := q.xfers.filter fun z => !mine z }
        (s.sendAck y.src dest y.port true y.stream (y.refused.getD 0).toNat).answer (y.refused.getD 0)
      else
        (r.2.setMeshPort dest { q with xfers := q.xfers.map fun z => if mine z then y else z }).answer 0

/-- R186: the destination takes the next beat of a PUT, where its turn has come. -/
def execPutWrite (dest : UnitId) (s : State) : Out :=
  match (s.meshPort dest).front with
  | none => .next s -- nothing, unless the next arrival is a PUT's
  | some (i, e) => due s (!e.2.2.head || e.2.2.kind = 1) <| .next (s.takePut dest i e) -- the next arrival is a PUT's

/-! ### Serving a GET (R186, R254) -/

/-- The bytes of a transfer in the order of its header, row by row. -/
def State.getRows (s : State) (x : Xfer) : List (Byte × Bool) × State :=
  (List.range x.rows).foldl (fun (r : List (Byte × Bool) × State) i =>
    let b := r.2.getBytes (x.addr + i * x.addrStride) x.rowBytes
    (r.1 ++ b.1, b.2)) ([], s)

/-- The same for a GET of another core that reads the scratch of core `n` from core cycle `t` on, through the mesh port (R161 to R165). -/
def State.getScratch (s : State) (n : Nat) (x : Xfer) (t : Nat) : Nat × List (Byte × Bool) × State :=
  let ws := ((List.range x.total).map fun p => x.at p / 32).eraseDups
  let r := s.portReads n t (t + 2 * cdiv ws.length 8) [(touchFar, ws)]
  (r.1, (r.2.1.getRows x).1, r.2.2.holdDma n t r.1)

/-- The cycles in which the beats of a GET whose header arrived in `cyc`, held for `wait`, are ready (R186, R254). Whether the page is
open is free, and so is the time of a die for which the spec states none (log entry 34). -/
def State.getReady (s : State) (responder : UnitId) (x : Xfer) (cyc wait n : Nat) : List Nat × State :=
  let flow (t : Nat) : List Nat := upTo t n
  match responder with
  | .core _ => (flow (cyc + wait + 32), s)
  | .res h =>
    if x.addr < 48 * stackSize then
      let c := s.choose 100 2
      c.2.burst h (cyc + wait + if c.1 = 0 then 200 else 280)
        ((List.range n).map fun k => (beatSpan x.total k).map fun p => x.at p - h * stackSize)
    else (flow (cyc + wait + 48), s)
  | _ =>
    let c := s.choose 101 65536
    (flow (cyc + c.1), c.2)

/-- The parts of a remote GET are asked for; a refusal drops them all. -/
def State.getHall (s : State) (responder : UnitId) (port : Nat) (x : Xfer) : Option Nat × State :=
  let group := s.fab.xidNext % 65536
  let ps := parts x.addr x.rowBytes x.rows x.addrStride (if x.cache then 256 else 4096)
  let r := ps.foldl (fun (r : Option Nat × State) p =>
    match r.1 with
    | some _ => r
    | none => r.2.getPart x.src responder port x.rstream group x.cache p.1 p.2) (none, s)
  match r.1 with
  | some e => (some e, r.2.modFab fun f => { f with remotes := f.remotes.filter fun z => !(z.op ≠ 1 && z.group = group) })
  | none => (none, r.2.flushGroup group)

/-- The port at which a unit returns the data of a GET whose header arrived at `port`: RSTREAM names it at a reservoir die (R254).
Another die answers where it was asked (R186; which of its ports that is the spec does not say: log entry 115). -/
def backPort (u : UnitId) (x : Xfer) (port : Nat) : Nat :=
  match u with
  | .res _ => x.rstream / 16
  | .core _ => 0
  | _ => port

/-- Why a unit refuses a GET, if it does: hall data that cannot be reached (R272), a core in RESETTING (R407). -/
def State.getRefused (s : State) (u : UnitId) (x : Xfer) : Option Nat :=
  if x.hall then s.hallRefused x.addr x.span
  else match u with
    | .core n => if (s.getCore n).ccb.state = .resetting then some stCellReset else none
    | _ => none

/-- R186, R254, R255, R261, R263, R295, R407: a responder takes a GET header, the arrival `i` of its queue, and readies its data beats; it
sends DMA_NAK where it refuses the transfer. -/
def State.takeGet (s : State) (responder : UnitId) (i : Nat) (e : Nat × Nat × Beat) : State :=
  let x := e.2.2.xfer.open responder e.2.1
  let w := s.taken responder i e.2.1 e.1 e.2.2
  let s := w.2
  let port := backPort responder x e.2.1
  let nak (s : State) (st : Nat) : State := (s.sendAck x.src responder e.2.1 false x.stream st).done st
  match s.getRefused responder x with
  | some st => nak s st
  | none =>
    if x.hall then
      let r := s.getHall responder port x
      match r.1 with
      | some st => nak r.2 st
      | none => r.2.done 0
    else
      let b := match responder with
        | .core n =>
          let r := s.getScratch n x (s.coreCycle n e.1)
          (s.baseCycle n (2 * r.1), r.2) -- the holds of the port (R163)
        | _ => (w.1, (s.quietCount x.addr).getRows x)
      let s := b.2.2
      let bs := dataBeats x.rstream b.2.1
      let d := s.getReady responder x e.1 b.1 bs.length
      let q := d.2.meshPort responder
      let tx := (d.1.zip bs).map fun (k : Nat × Beat) => (k.1, port, k.2)
      (d.2.setMeshPort responder { q with tx := q.tx ++ tx }).done 0

/-- R186: a responder takes the next GET header, where its turn has come. -/
def execGetRequest (responder : UnitId) (s : State) : Out :=
  match (s.meshPort responder).front with
  | none => .next s -- nothing, unless the next arrival is a GET header
  | some (i, e) => due s (e.2.2.head && e.2.2.kind = 2) <| .next (s.takeGet responder i e) -- the next arrival is a GET header

/-! ### Order at a reservoir die (R255) -/

/-- The mesh accesses that have arrived at a unit and wait are served, in their order. -/
def State.catchUp (s : State) (u : UnitId) : State :=
  (s.meshPort u).rx.foldl (fun (s : State) _ =>
    match (s.meshPort u).front with
    | none => s
    | some (i, e) => if e.2.2.head && e.2.2.kind = 2 then s.takeGet u i e else s.takePut u i e) s

/-- An access from outside the mesh reaches the die of an address: behind what has arrived there (R255), and held by a slot (R258). -/
def State.reachHome (s : State) (a : Nat) : State :=
  match s.unitAt a with
  | some (.res h, _, _) =>
    let s := s.catchUp (.res h)
    if a < 48 * stackSize then s.heldFree h else s
  | _ => s


/-! ### Remote accesses at their home (R278, R296 to R298) -/

/-- What a remote read finds at its home, run by run. -/
def State.homeBytes (s : State) (a len : Nat) : List (Byte × Bool) × State :=
  (homeRuns a len).foldl (fun (x : List (Byte × Bool) × State) r =>
    let b := x.2.getBytes r.1 r.2
    (x.1 ++ b.1, b.2)) ([], s)

/-- R296, R298: an incoming PUT. -/
def execFabPut (port : Nat) (t : Train) (s : State) : Out :=
  s.accept port t fun s => .next (s.forMe port t fun s =>
    let s := s.reachHome t.addr
    let runs := homeRuns t.addr t.len
    if !s.homeRange t.addr t.len then s.nakBack t eFabRange
    else match runs.findSome? fun r => s.writeRefused r.1 r.2 with
      | some e =>
        let s := if e = ePublished then s.countBadTrain port else s.quietCount t.addr
        s.nakBack t e
      | none => (runs.foldl (fun (x : State × List (Byte × Bool)) r =>
          (x.1.putBytes r.1 (x.2.take r.2), x.2.drop r.2)) (s, t.carried)).1)

/-- R278: an incoming GET_REQ is answered with GET_RESP. -/
def execGetReq (port : Nat) (t : Train) (s : State) : Out :=
  s.accept port t fun s => .next (s.forMe port t fun s =>
    let s := s.reachHome t.addr
    if !s.homeRange t.addr t.len then s.nakBack t eFabRange
    else
      let r := (s.quietCount t.addr).homeBytes t.addr t.len
      r.2.sendBack t.src fun ring w => mkTrain s 3 t.src ring w t.addr t.xid r.1 r.1.length)

/-- R278, R297: an incoming FILL_REQ is answered with the line, PUB and LEASE_END. -/
def execFillReq (port : Nat) (t : Train) (s : State) : Out :=
  s.accept port t fun s => .next (s.forMe port t fun s =>
    let s := s.reachHome t.addr
    if !s.homeRange t.addr t.len then s.nakBack t eFabRange
    else
      let r := (s.quietCount t.addr).homeBytes t.addr t.len
      let p := s.fab.pub.find? fun e => e.2.start ≤ s.hallFrame && s.hallFrame ≤ e.2.stop && e.2.base ≤ t.addr &&
        t.addr + t.len ≤ e.2.base + e.2.len
      r.2.sendBack t.src fun ring w => { mkTrain s 5 t.src ring w t.addr t.xid r.1 r.1.length with
        pub := p.isSome
        leaseEnd := match p with
          | some e => e.2.stop.setWidth 32
          | none => 0 })

end Sys2Proof.Machine
end

