-- ==== Sys2Proof/Machine/Memory.lean ====
section
/-! DEFINITION. The stack controllers: refresh slots and modes (R258, R259), temperature (R260), maintenance (R261 to
R264), HBM_COPY's end (R318) and the host's CXL.mem accesses (R256, R264, R307). -/

namespace Sys2Proof.Machine

/-- A STACK event (R328): the tile, HBM ID and STATE. -/
def State.stackEvent (s : State) (h : Nat) : State := s.event evStack (s.ccbId (.tile (h / 2))) h (s.getStack h).state

/-- A stack that is in use: READY or HOST. -/
def Stack.alive (t : Stack) : Bool := t.state = 2 || t.state = 3

/-- The sectors written back corrected hold no single-bit error any more (R256). -/
def State.wroteBack (s : State) (h : Nat) (l : List Nat) : State :=
  { s with flips := s.flips.filter fun e => e.2 || !(l.any fun x => 32 * e.1 = stackAddr h (32 * x)) }

/-- The fewest sectors that a scrub slot takes, one slot in 4 µs, for a whole stack in 2 s (R259). -/
def scrubLeast : Nat := cdiv (stackSize / 32) 500000

/-- The patrol scrub reads `n` sectors on from where it stands, round the stack: single-bit errors are corrected and written back, the others
met (R256, R259). -/
def State.scrubbed (s : State) (h n : Nat) : State :=
  let a := (s.getStack h).scrubAt
  let all := stackSize / 32
  let mine (e : Nat × Bool) : Bool := 32 * e.1 / stackSize = h && (32 * e.1 % stackSize / 32 + all - a) % all < n
  let ws := ((s.flips.filter mine).map (·.1)).eraseDups
  let s := (s.meet ws).wroteBack h (ws.map fun w => 32 * w % stackSize / 32)
  (s.modStack h fun t => { t with
    scrubAt := (a + n) % all
    writeBack := t.writeBack.filter fun x => !ws.contains (h * all + x) }).countStack h 0x34 n

/-- R258, R259, R256: a refresh slot. Hot mode takes effect here; in cold mode alternate slots scrub. How many sectors a
slot scrubs beyond what the rule asks is free (log entry 25). -/
def execRefreshSlot (stack : Nat) (s : State) : Out :=
  unit (stack < 48) "stack" <|
  due s (s.getStack stack).alive <| -- the stack is trained
  let t := s.getStack stack
  if t.hot || 85 < t.temp then .next (s.setStack stack { t with hot := true, scrubSlot := false })
  else if t.scrubSlot then
    let n := s.choose 102 65536
    .next (((n.2.setStack stack { t with scrubSlot := false, writeBack := [] }).wroteBack stack t.writeBack).scrubbed stack
      (scrubLeast + n.1))
  else .next (s.setStack stack { t with scrubSlot := true })

/-- R260: 20 µs after the Shutter no valid reading has come. -/
def execHbmTempDeadline (stack : Nat) (s : State) : Out :=
  unit (stack < 48) "stack" <|
  due s (!(s.getStack stack).tempRead) <| -- no reading has come since the Shutter
  let t := s.getStack stack
  let n := t.staleFrames + 1
  -- a stack forced hot is cold again after 1,000 cold readings (R259)
  let s := s.setStack stack { t with
    tempStale := true, tempRead := true, staleFrames := n, hot := t.hot || 3 ≤ n
    coldReads := if 3 ≤ n then 0 else t.coldReads }
  .next (if 3 ≤ n then s.rowState (rowStack stack) (s.row (rowStack stack)).state 0x26 else s)

/-- A valid reading of a stack's temperature (R259, R260). -/
def Stack.reading (t : Stack) (temp frame : Nat) : Stack :=
  { t with
    temp := temp
    tempFrame := frame
    tempRead := true
    tempStale := false
    staleFrames := 0
    coldReads := if temp ≤ 83 then t.coldReads + 1 else 0 }

/-! ### Maintenance (R261 to R264) -/

/-- Frames in 24 h. -/
def dayFrames (t : Nat) : Nat := cdiv 86400000000 t

/-- How many maintenance steps a stack runs in this frame: those of a quiet frame (R262), else one (R261, R264). -/
def State.stepCount (s : State) (t : Stack) : Nat := if t.quiet then max 1 ((s.pmc.t - 5) / 30) else 1

/-- The work of a step (R262): 16 a repair, a channel to retrain, or 17 the margin checks. What failed in this frame waits for the next
quiet frame (R263). -/
def Stack.work (t : Stack) : Nat :=
  if !t.repairs.isEmpty && !t.failedNow.contains 16 then 16
  else match t.hotChannels.find? fun c => !t.failedNow.contains c with
    | some c => c
    | none => if t.nextChannel < 16 && !t.failedNow.contains t.nextChannel then t.nextChannel else 17

/-- R264: a stack in a host window has a step once per 10 s at most. -/
def Stack.hostStepOk (t : Stack) : Bool := t.state ≠ 3 || t.hostWait = 0

/-- The addresses of the four lines of a page of stack `h` (R253). -/
def pageLines (h page : Nat) : List Nat :=
  (List.range 4).map fun i =>
    let r := page / 512 / 4 * 256 + page / 512 % 4 * 64 + page / 32 % 16 * 4 + i
    stackAddr h (256 * (r * 32 + (page % 32 ^^^ r / 32 % 32)))

/-- The controller reads a page, line by line (R256). -/
def State.pageBytes (s : State) (h page : Nat) : List (Byte × Bool) × State :=
  (pageLines h page).foldl (fun (r : List (Byte × Bool) × State) a =>
    let x := r.2.readBytes a 256
    (r.1 ++ x.1, x.2)) ([], s)

/-- Before a repair the row's page goes to the repair buffer, the first 64 KiB of the die: where in it is free (log entry 36). Where they are
cache lines no address shows it (R257, R267). -/
def State.toBuffer (s : State) (h page : Nat) : State :=
  let r := s.pageBytes h page
  if (s.getStack h).win = 0 then r.2
  else
    let o := r.2.choose 144 64
    o.2.putBytes (winBase h + 1024 * o.1) r.1

/-- After the repair the page is written back into the new row: words that were poisoned stay so (R257). -/
def State.fromBuffer (s : State) (h page : Nat) : State :=
  let s := (pageLines h page).foldl (fun (s : State) a => s.putBytes a (s.marked a 256)) s
  s.modStack h fun t => { t with
    dberr := t.dberr.filter fun e => hbmPage (32 * e.1) ≠ page
    writeBack := t.writeBack.filter fun x => hbmPage (32 * x) ≠ page }

/-- R261, R262, R264: a maintenance step starts, with the work that it finds. A pass of full retraining restarts after 24 h. A repair uses the
repair buffer (R257, R267): log entry 36. -/
def execMaintenanceStep (stack : Nat) (s : State) : Out :=
  unit (stack < 48) "stack" <|
  let t := s.getStack stack
  due s (t.alive && !t.stepBusy && t.steps < s.stepCount t && t.hostStepOk && (t.state = 3 || t.quiet || (s.declared stack).isEmpty)) <| -- a step may run on the stack
  let again : Bool := 16 ≤ t.nextChannel && dayFrames s.pmc.t ≤ (s.pmc.frame - t.passFrame).toNat
  let t := { t with nextChannel := if again then 0 else t.nextChannel }
  let s := if t.work = 16 then s.toBuffer stack (t.repairs.headD 0) else s
  .next (s.modStack stack fun x => { x with
    stepBusy := true
    stepWork := t.work
    steps := x.steps + 1
    lastStep := s.frame16
    hostWait := if t.state = 3 then 10000000 else t.hostWait
    nextChannel := t.nextChannel
    passFrame := if again then s.pmc.frame else t.passFrame })

/-- A stack becomes FAILED (R263). -/
def State.stackFails (s : State) (h : Nat) : State :=
  ((s.modStack h fun t => { t with state := 4, stepBusy := false }).rowFault (rowStack h) 4 0x2C).stackEvent h

/-- A repair that passed is done and logged in the stack's row (R257): REASON keeps, DATA takes the page (log entry 134). -/
def State.repaired (s : State) (h : Nat) (l : List Nat) (page : Nat) : State :=
  ((s.fromBuffer h page).modStack h fun t => { t with repairs := l, repairLog := t.repairLog ++ [page] }).rowData (rowStack h) (BitVec.ofNat 32 page)

/-- A channel has passed its retraining. -/
def Stack.retrained (t : Stack) (c : Nat) : Stack :=
  { t with
    stepFails := tset t.stepFails c 0 0
    hotChannels := ndel t.hotChannels c
    nextChannel := if t.hotChannels.contains c then t.nextChannel else min 16 (t.nextChannel + 1) }

/-- R257, R262, R263: a maintenance step ends. Whether a repair failed for want of a spare row is free (log entry 41):
then the row is UNREPAIRABLE and the STACK event gives its page (R409). -/
def execMaintenanceStepDone (stack : Nat) (pass : Bool) (s : State) : Out :=
  unit (stack < 48) "stack" <|
  due s (s.getStack stack).stepBusy <| -- a step runs
  let s := s.modStack stack fun t => { t with stepBusy := false }
  let t := s.getStack stack
  let k := t.stepWork
  let wait (s : State) : State := s.modStack stack fun t => { t with failedNow := nadd t.failedNow k }
  if k = 16 then
    match t.repairs with
    | [] => .next s
    | page :: l =>
      if pass then .next (s.repaired stack l page)
      else
        let c := s.choose 103 2
        .next (if c.1 = 0 then wait c.2
          else ((c.2.setStack stack { t with repairs := l }).rowState (rowStack stack) (s.row (rowStack stack)).state 0x2B).event
            evStack (s.ccbId (.tile (stack / 2))) stack page)
  else if k = 17 then .next s
  else if pass then .next (s.setStack stack (t.retrained k))
  else if 3 ≤ tget t.stepFails k 0 + 1 then .next (s.stackFails stack)
  else .next (wait (s.setStack stack { t with stepFails := tset t.stepFails k (tget t.stepFails k 0 + 1) 0 }))

/-! ### The host's side -/

/-- R255, R256, R258, R264, R307: the host reads or writes its window. A FAILED stack discards writes and reads as poison
(R263). -/
def execCxlMemAccess (site : Nat) (isWrite : Bool) (offset len : Nat) (data : List Byte) (s : State) : Out :=
  unit (site < 2) "Host Site" <|
  let n := if isWrite then data.length else len
  due s ((s.getSite site).state = 2 || (s.getSite site).state = 3) <| -- CXL.mem is available
  unit (offset + n ≤ s.winSize site) "host window" <|
  let hs := ([offset, offset + n - 1].map fun o => (s.winStacks site).getD (o / stackSize) 0).eraseDups
  let s := s.each hs fun s h => (s.catchUp (.res h)).heldFree h
  if isWrite then .next ((s.winWrite site offset data).answer 0)
  else
    let r := s.winRead site offset n
    .next { r.2 with resp := { status := 0, data := bytesWords (r.1.map (·.1)), poison := r.1.any (·.2) } }

end Sys2Proof.Machine
end

