-- ==== Sys2Proof/Machine/Policy.lean ====
section
/-! DEFINITION. What the PMC's policies share: MANUAL settings and DECISION events (R317), quotas in force (R244,
R324, R401), the choice of variant, RATIO and VSET (R337, R339, R359, R360, R377), and warnings (R380). -/

namespace Sys2Proof.Machine

/-! ### Settings (R317) -/

/-- Policies: 0 sparing, 1 re-planning, 2 margins, 3 thermal response, 4 power staging, 5 admission quotas. -/
def State.manual (s : State) (policy : Nat) : Bool := s.pmc.manual.contains policy
/-- The four policies that set RATIO are MANUAL (R359). -/
def State.allManual (s : State) : Bool := [1, 2, 3, 4].all s.manual
/-- A DECISION event: the policy and the action it would have taken. One that stands already is not written again: the PMC waits for the
override (R317). -/
def State.decision (s : State) (policy : Nat) (cell : CellId) (action : Nat) : State :=
  let e := (policy, s.ccbId cell, action)
  if s.pmc.asked.contains e then s
  else (s.modPmc fun p => { p with asked := p.asked ++ [e] }).event evDecision (s.ccbId cell) policy action
/-- The decisions of a policy for a cell that no longer stand are forgotten: those whose action `keep` leaves out. -/
def State.settled (s : State) (policy : Nat) (cell : CellId) (keep : Nat → Bool) : State :=
  let gone (e : Nat × W32 × Nat) : Bool := e.1 = policy && e.2.1 = s.ccbId cell && !keep e.2.2
  if s.pmc.asked.any gone then s.modPmc fun p => { p with asked := p.asked.filter fun e => !gone e } else s

/-- The thermal warning and ALERT_N (R331, R357, R380, R383): asserted while any cause stands. -/
def State.alert (s : State) : State :=
  { s with pins := { s.pins with alertN := !(!s.pwr.mainOk || !s.pwr.backupOk || s.clk.sel = 2 || s.thm.state ≠ 0 ||
      s.boot.err ≠ 0 || !s.mtr.metering) } }

/-! ### Reasons of cells (R28) -/

def State.setReason (s : State) (n why : Nat) : State :=
  s.modCore n fun c => { c with ccb := { c.ccb with reason := why } }
/-- The cores of quadrant `q` take a reason. -/
def State.quadReason (s : State) (q why : Nat) : State := s.each (quadCores q) fun s n => s.setReason n why
/-- The cores of quadrant `q` lose a reason. -/
def State.quadClear (s : State) (q why : Nat) : State :=
  s.each (quadCores q) fun s n => if (s.getCore n).ccb.reason = why then s.setReason n whyNone else s

/-! ### Stopping a quadrant (R339, R362, R364, R367, R383) -/

/-- The cores of a list stop as R78 stops one. -/
def State.stopCores (s : State) (l : List Nat) : State := s.each l State.stopCore

/-- Cores in a state that runs. -/
def State.live (s : State) (n : Nat) : Bool :=
  match (s.getCore n).ccb.state with
  | .starting | .ready | .running | .degraded | .faulted => true
  | _ => false

/-- The quadrant's cores stop and a fault bit sets in each. -/
def State.faultQuad (s : State) (q bit : Nat) : State := (s.stopCores (quadCores q)).faultAll (quadCores q) bit

/-! ### Quotas (R324) -/

/-- The quotas of classes 0 to 7 with at most `cap` in sum, taken from class 7 first. -/
def cutQuotas (cap : Nat) : List Nat → List Nat
  | [] => []
  | q :: r => min cap q :: cutQuotas (cap - q) r

def Work.getCls (w : Work) (c : Nat) : Cls := tget w.cls c {}
def State.modCls (s : State) (w c : Nat) (f : Cls → Cls) : State :=
  s.modWork w fun x => { x with cls := tset x.cls c (f (tget x.cls c {})) {} }

/-- The quota that R324 leaves in force for a class. -/
def Cls.inForce (c : Cls) : Nat := c.reduced.getD c.quota

/-- The quota in force at a cut: 0 in recovery (R401) and while gated (R377). -/
def State.quotaIn (s : State) (w c : Nat) : Nat :=
  let x := s.getWork w
  if x.mode ≠ 0 || x.quads.any fun q => (s.getQuad q).capGated then 0 else (x.getCls c).inForce

/-- One class's quota in force becomes `want`: a QUOTA event, or a DECISION event where admission quotas are MANUAL (R317, R324). -/
def State.quotaTo (w : Nat) (want : Nat) (s : State) (c : Nat) : State :=
  let k := (s.getWork w).getCls c
  let act := c * 2 ^ 24 + want % 2 ^ 24
  let s := s.settled 5 (.work w) fun a => a / 2 ^ 24 ≠ c || (a = act && k.inForce ≠ want)
  if k.inForce = want then s
  else if s.manual 5 then s.decision 5 (.work w) act
  else (s.modCls w c fun k => { k with reduced := if want = k.quota then none else some want }).event evQuota
    (s.ccbId (.work w)) c want

/-- The PMC re-quotes a work cell by its losses: reductions from class 7 on, restored in the reverse order (R244, R324). -/
def State.requote (s : State) (w : Nat) : State :=
  let x := s.getWork w
  let qs := (List.range 8).map fun c => (x.getCls c).quota
  let cut := match x.losses with
    | [] => qs
    | e :: r => cutQuotas (r.foldl (fun (a : Nat) (y : Nat × Nat) => min a y.2) e.2) qs
  let less (c : Nat) : Bool := cut.getD c 0 < (x.getCls c).inForce
  let order := ((List.range 8).reverse.filter less) ++ (List.range 8).filter fun c => !less c
  order.foldl (fun (s : State) c => s.quotaTo w (cut.getD c 0) c) s

/-- The quotas in force of a work cell are 0 from now on, or no longer, in recovery or while the thermal cap gates it: a QUOTA event for
each class that it changes (R324, R377, R401). -/
def State.zeroQuotas (s : State) (w : Nat) : State :=
  let x := s.getWork w
  let z := x.mode ≠ 0 || x.quads.any fun q => (s.getQuad q).capGated
  if z = x.zeroed then s
  else
    let s := s.modWork w fun x => { x with zeroed := z }
    let order := if z then (List.range 8).reverse else List.range 8
    (order.filter fun c => (x.getCls c).inForce ≠ 0).foldl (fun (s : State) c =>
      s.event evQuota (s.ccbId (.work w)) c (if z then 0 else (x.getCls c).inForce)) s

/-- A loss of capacity of a cause appears, changes or ends. -/
def State.setLoss (s : State) (w cause : Nat) (cap : Option Nat) : State :=
  (s.modWork w fun x => { x with losses :=
    match cap with
    | some k => (x.losses.filter fun e => e.1 < cause) ++ (cause, k) :: x.losses.filter fun e => cause < e.1
    | none => x.losses.filter fun e => e.1 ≠ cause }).requote w

/-- A loss whose capacity the spec does not state: a free value below CAP (log entry 42). -/
def State.freeLoss (s : State) (w cause : Nat) (img : List Byte) : State :=
  let c := s.choose 104 (costCap img)
  c.2.setLoss w cause (some c.1)

/-! ### Placement (R242, R397) -/

/-- Positions of a binding with their cores. -/
def Binding.cores (b : Binding) : List (Nat × Nat) := (List.range b.place.length).zip b.place

/-- Positions placed outside the work cell's own quadrants: position and core. -/
def State.borrowed (s : State) (w : Nat) : List (Nat × Nat) :=
  let x := s.getWork w
  match x.bound with
  | some b => b.cores.filter fun e => !x.quads.contains (coreQuad e.2)
  | none => []

/-- The quadrants whose caps and limits choose a work cell's variant (R397). -/
def State.workQuads (s : State) (w : Nat) : List Nat :=
  ((s.getWork w).quads ++ (s.borrowed w).map fun e => coreQuad e.2).eraseDups

/-- Plate quadrant of position `p`. -/
def posQuad (img : List Byte) (p : Nat) : Nat × Nat := (p / plCpq img % plW img, p / plCpq img / plW img)

/-- The work cell's quadrants, all of which change RATIO together (R359). -/
def State.ratioQuads (s : State) (q : Nat) : List Nat :=
  match s.workOfQuad q with
  | some w => s.workQuads w
  | none => [q]

/-- The share, in 5 A units, that quadrant `q` lends in variant `v` to a plate (R397). -/
def State.lent (s : State) (w : Nat) (img : List Byte) (v q : Nat) : Nat :=
  (((s.borrowed w).filter fun e => coreQuad e.2 = q).map fun e =>
    let x := posQuad img e.1
    cdiv (curPeak img v x.1 x.2) (max 1 (plCpq img))).foldl (· + ·) 0

/-- PEAK of the plate on panel quadrant `q` of a work cell. -/
def peakOn (quads : List Nat) (img : List Byte) (v q : Nat) : Nat :=
  let o := swCorner quads
  let x := quadXY q
  curPeak img v (x.1 - o.1) (x.2 - o.2)

/-- PEAK of the plate bound on quadrant `q`, if any, in the variant in force. -/
def State.peakOf (s : State) (q : Nat) : Nat :=
  match s.workOfQuad q with
  | none => 0
  | some w =>
    match (s.getWork w).bound, s.boundPlate w with
    | some b, some img => peakOn (s.getWork w).quads img b.variant q
    | _, _ => 0

/-! ### RATIO and VSET (R337, R339, R359, R360, R377) -/

/-- The RATIO limit of a quadrant (R359). -/
def State.ratioLimit (s : State) (q : Nat) : Nat :=
  let x := s.getQuad q
  if s.allManual then min x.cap x.manualRatio
  else min (min x.cap x.tlimit) (min (min x.powerRatio x.rampRatio) x.marginRatio)

/-- R339: a variant keeps within the current limit of each quadrant of the work cell; a lending quadrant covers its
share (R397). -/
def State.currentFits (s : State) (w : Nat) (img : List Byte) (v : Nat) : Bool :=
  let x := s.getWork w
  (x.quads.all fun q => peakOn x.quads img v q + 3 ≤ (s.getQuad q).limit) &&
    (s.borrowed w).all fun e =>
      let q := coreQuad e.2
      s.peakOf q + s.lent w img v q ≤ (s.getQuad q).limit

/-- The highest-RATIO variant at or below a RATIO that `ok` takes. -/
def bestVariant (img : List Byte) (top : Nat) (ok : Nat → Bool) : Option Nat :=
  (upTo 1 (plNvar img)).find? fun v => varRatio img v ≤ top && ok v

/-- The lowest cap, and the lowest limit, of a work cell's quadrants. -/
def State.workCap (s : State) (w : Nat) : Nat := ((s.workQuads w).map fun q => (s.getQuad q).cap).foldl min 16
def State.workLimit (s : State) (w : Nat) : Nat := ((s.workQuads w).map s.ratioLimit).foldl min 16

/-- VSET in force at a Shutter: V_base of the highest RATIO among the frame before, the frame and a rise of the next,
and MARGIN, in 5 mV steps within 650 to 850 mV (R337, R360; the rounding: log entry 46). -/
def State.setVset (s : State) (q was : Nat) : State :=
  s.modQuad q fun x =>
    let soon := match x.ratioNext with
      | some n => if n.2 = s.pmc.frame + 1 then n.1 else 0
      | none => 0
    let v : Int := Config.vbase (max was (max x.ratio soon)) + x.margin
    let mv := cdiv v.toNat 5 * 5
    { x with vset := max 650 (min 850 mv), vclamp := mv < 650 || 850 < mv }

/-- Quadrants go to RATIO `r` at this Shutter: a fall at once, a rise at the next, or now where it was due (R360). -/
def State.toRatio (s : State) (qs : List Nat) (r : Nat) : State :=
  s.each qs fun s q =>
    let x := s.getQuad q
    let now : Bool := match x.ratioNext with
      | some n => n.2 ≤ s.pmc.frame
      | none => false
    if r < x.ratio || (x.ratio < r && now) then
      s.setQuad q { x with ratio := r, ratioChanged := s.frame16, ratioNext := if now then none else x.ratioNext }
    else if x.ratio < r && x.ratioNext.isNone then s.setQuad q { x with ratioNext := some (r, s.pmc.frame + 1) }
    else if now then s.setQuad q { x with ratioNext := none }
    else s

/-- CLOCK_SET's RATIO becomes the one set, where its Shutter has come. -/
def State.takeManual (s : State) (q : Nat) : State :=
  s.modQuad q fun x => match x.ratioNext with
    | some n => if s.allManual && n.2 ≤ s.pmc.frame then { x with manualRatio := n.1 } else x
    | none => x

/-- A work cell is gated: no variant lies at or below its cap (R377). -/
def State.gateWork (s : State) (w : Nat) (img : List Byte) : State :=
  let x := s.getWork w
  let was : Bool := x.quads.any fun q => (s.getQuad q).capGated
  let none? := (bestVariant img (s.workCap w) fun _ => true).isNone
  let s := s.each x.quads fun s q => s.modQuad q fun y => { y with capGated := none? }
  let cores := (x.bound.map (·.place)).getD []
  if none? then
    let s := if was then s else s.stopCores cores
    s.each cores fun s n =>
      let s := (s.hold n fThermal).setReason n whyThermalCap
      if (s.getCore n).ccb.fault.getLsbD fThermal && (s.getCore n).ccb.state = .faulted then s else s.fault n fThermal
  else if was then s.each cores fun s n => s.release n fThermal
  else s

/-- A bound work cell takes its variant (R339, R343, R359). With no variant within the other limits it runs the lowest
and its classes are cut (R207, R343). -/
def State.variantWork (s : State) (w : Nat) (img : List Byte) : State :=
  let s := s.gateWork w img
  let free := bestVariant img (s.workLimit w) fun _ => true
  let plan := bestVariant img (s.workLimit w) (s.currentFits w img)
  let s := s.settled 1 (.work w) fun a => s.manual 1 && free ≠ plan && a = plan.getD 0
  let s := if s.manual 1 && free ≠ plan then s.decision 1 (.work w) (plan.getD 0) else s
  let ok (v : Nat) : Bool := s.manual 1 || s.currentFits w img v
  match bestVariant img (s.workLimit w) ok with
  | some v =>
    let s := s.toRatio (s.workQuads w) (varRatio img v)
    let now := (s.workQuads w).foldl (fun a q => min a (s.getQuad q).ratio) 16
    let k := (bestVariant img now fun _ => true).getD v
    let was := ((s.getWork w).bound.map (·.variant)).getD 1
    let s := s.modWork w fun x => { x with bound := x.bound.map fun b => { b with variant := k } }
    let s := if k = was then s else if k = 1 then s.setLoss w 0 none else s.freeLoss w 0 img
    if !s.pwr.staged && (s.getWork w).losses.any fun e => e.1 = 3 then s.setLoss w 3 none else s
  | none =>
    -- a RATIO that no variant lists is never applied (R238)
    let low := varRatio img (plNvar img)
    let s := if low ≤ s.workCap w then s.toRatio (s.workQuads w) low else s
    if (s.getWork w).losses.any fun e => e.1 = 3 then s else s.freeLoss w 3 img

/-- The RATIOs that CLOCK_SET has set for the next Shutter are prepared (R360), once those of this one are in force. -/
def State.prepareClocks (s : State) : State :=
  let due (e : Override × W64) : Option (Nat × Nat) := match e.1 with
    | .clock q r => if e.2 ≤ s.pmc.frame + 1 then some (q, r) else none
    | _ => none
  let l := s.pmc.overrides.filterMap due
  let f := s.pmc.frame + 1
  let s := s.modPmc fun p => { p with overrides := p.overrides.filter fun e => (due e).isNone }
  l.foldl (fun (s : State) e => s.modQuad e.1 fun x => { x with ratioNext := some (e.2, f) }) s

/-- Every quadrant's RATIO, set-point and variant at a Shutter. -/
def State.setRatios (s : State) : State :=
  let was := (List.range 96).map fun q => (s.getQuad q).ratio
  let s := s.each (List.range 96) State.takeManual
  let s := s.bounds.foldl (fun (s : State) e => s.variantWork e.1 e.2) s
  let free := (List.range 96).filter fun q => !s.bounds.any fun e => (s.workQuads e.1).contains q
  let s := s.each free fun s q =>
    let x := s.getQuad q
    s.toRatio [q] (min x.cap (if s.allManual then x.manualRatio else x.tlimit))
  s.prepareClocks.each (List.range 96) fun s q => s.setVset q (was.getD q 16)

/-- The next lower, or higher, listed RATIO of the plate on a quadrant; steps of one where no plate is bound. -/
def State.nextRatio (s : State) (q : Nat) (up : Bool) (r : Nat) : Nat :=
  match (s.workOfQuad q).bind s.boundPlate with
  | some img =>
    let l := (upTo 1 (plNvar img)).map (varRatio img)
    if up then (l.filter fun x => r < x).getLast?.getD 16 else (l.find? fun x => x < r).getD r
  | none => if up then min 16 (r + 1) else max 8 (r - 1)

end Sys2Proof.Machine
end

