-- ==== Sys2Proof/Machine/Power.lean ====
section
/-! DEFINITION. Supplies and power delivery: inputs and selection (R330 to R333), converters and phases (R334, R338,
R339), load notices and droop (R340, R341, R361, R362), the input cap (R343), ramps (R344, R345), eFuses (R346, R347)
and Host Site rails (R306). -/

namespace Sys2Proof.Machine

/-- PHASE of PMC_FRM_STAT from drain open to the Shutter. -/
def phStopBath : Nat := 3

/-! ### Inputs (R330 to R333) -/

def rowSupply : Supply → Nat
  | .main => rowInput 0
  | .backup => rowInput 1

/-- The input that R331 connects: 0 none, 1 MAIN, 2 BACKUP. A MAIN on its return hold takes over where BACKUP becomes invalid, as the
other valid input does. -/
def Power.pick (p : Power) : Nat :=
  if p.mainOk && !p.mainHold then 1 else if p.backupOk then 2 else if p.mainOk then 1 else 0

/-- The OR-ing stage connects the input of R331. Going from one input to the other is a switch-over, whose bridge time is
free, 1 to 10 µs, or 0 where the two bridge (log entry 48). -/
def State.connect (s : State) (smooth : Bool) : State :=
  let inp := s.pwr.pick
  if inp = s.pwr.source then s.alert
  else if inp = 0 || s.pwr.source = 0 then
    (s.modPwr fun p => { p with source := inp, changed := s.frame16, mainHold := p.mainHold && inp ≠ 1 }).alert
  else
    let b := if smooth then (0, s) else
      let c := s.choose 148 10
      (c.1 + 1, c.2)
    ((b.2.countPmc 0x0220 1).modPwr fun p => { p with
      source := inp
      changed := s.frame16
      mainHold := p.mainHold && inp ≠ 1
      switch := word [(s.frame16, 16, 16), (b.1, 0, 8)] }).alert

/-- An input becomes valid or invalid. -/
def State.setInput (s : State) (inp : Supply) (ok : Bool) : State :=
  match inp with
  | .main => s.modPwr fun p => { p with mainOk := ok, mainHold := ok && p.source = 2 }
  | .backup => s.modPwr fun p => { p with backupOk := ok }
def State.inputOk (s : State) (inp : Supply) : Bool :=
  match inp with
  | .main => s.pwr.mainOk
  | .backup => s.pwr.backupOk

/-- R330: 10 ms in range. A MAIN that returns while BACKUP carries the load is held for 10 s (R331). -/
def execInputValid (inp : Supply) (s : State) : Out :=
  due s (!s.inputOk inp) <| -- the input is invalid
  let s := (s.setInput inp true).modPwr fun p => match inp with
    | .main => { p with mainOc := false }
    | .backup => { p with backupOc := false }
  .next ((s.rowState (rowSupply inp) 1 0).connect false)

/-- R330, R331: out of range for 1 µs. -/
def execInputInvalid (inp : Supply) (s : State) : Out :=
  due s (s.inputOk inp) <| -- the input is valid
  .next (((s.setInput inp false).rowState (rowSupply inp) 5 0).connect false)

/-- R330: above the current limit for 1 ms. -/
def execInputOvercurrent (inp : Supply) (s : State) : Out :=
  due s (s.inputOk inp) <| -- the input is valid
  let s := (s.setInput inp false).modPwr fun p => match inp with
    | .main => { p with mainOc := true }
    | .backup => { p with backupOc := true }
  .next (((s.rowState (rowSupply inp) 5 0x23).countPmc 0x022C 1).connect false)

/-- R331: the Stop Bath after MAIN's hold. -/
def execMainReturn (s : State) : Out :=
  due s (s.pwr.mainOk && s.pwr.mainHold && s.pmc.phase = phStopBath) <| -- MAIN is on its return hold, and a Stop Bath runs
  .next ((s.modPwr fun p => { p with mainHold := false }).connect true)

/-- R333: with neither input valid, one that re-enters its range is connected at once. -/
def execInputReconnect (inp : Supply) (s : State) : Out :=
  due s (!s.pwr.mainOk && !s.pwr.backupOk && !s.pwr.failed) <| -- neither input is valid
  let oc := match inp with
    | .main => s.pwr.mainOc
    | .backup => s.pwr.backupOc
  due s (!oc) <| -- the input is not disconnected for overcurrent
  .next (((s.setInput inp true).rowState (rowSupply inp) 1 0).connect false)

/-! ### Power failure (R333) -/

/-- A quadrant loses its rails. -/
def Quad.unpower (q : Quad) : Quad :=
  { q with
    rail := 0
    step := 0
    rampF1 := none
    rampDue := false
    notices := []
    activePh := 0
    stretching := false }

/-- The bins and the highest tile temperature go to configuration flash (R386). -/
def State.flashThermal (s : State) : State :=
  s.each (List.range 24) fun s t => s.modTile t fun x => { x with flashCyc := x.cyc, flashTmax := x.tmax }

/-- Every ring bypass is driven closed (R291). -/
def State.bypassAll (s : State) : State := s.each (List.range 16) fun s r => s.modRing r fun g => { g with bypass := true }

/-- R333, R386, R291: power failure. Every rail but the standby's falls, every bypass closes, and the power-loss record is
written, with MAIN's voltage as measured, which is free. -/
def execPowerFailure (bulk : Bool) (s : State) : Out :=
  due s (!s.pwr.mainOk && !s.pwr.backupOk && !s.pwr.failed) <| -- neither input is valid
  let v := s.free
  let s := v.2.flashThermal
  let s := s.modBoot fun b => { b with
    lossRec := some (s.pmc.frame, word [(v.1.toNat, 16, 16), (if bulk then 2 else 1, 0, 4)]) }
  let s := s.each (List.range 96) fun s q => s.modQuad q fun x =>
    { x.unpower with source := 5, standby := 5, locked := false, gated := 7, dieFwd := 0 }
  let s := s.each (List.range 24) fun s t => s.modTile t fun x => { x with
    convW := if x.convW = 1 then 1 else 2
    convE := if x.convE = 1 then 1 else 2
    feedW := false
    feedE := false }
  let s := s.each (List.range 48) fun s h => s.modStack h fun x => { x with state := 0 }
  let s := s.each (List.range 576) fun s n => (s.stopCore n).modCore n fun c => { c with ccb := { c.ccb with state := .off } }
  let s := s.each (List.range 32) fun s p => s.modPort p fun x => { x with mode := .down, egress := [], replay := [] }
  let s := s.each [0, 1] fun s g => s.modSite g fun x => { x with state := if x.state = 5 then 5 else 0 }
  let s := s.bypassAll.modMesh fun m => { m with flights := [] }
  .next { s with
    pwr := { s.pwr with failed := true, source := 0 }
    pins := { s.pins with panelOk := false } }

/-! ### Converters and phases (R334, R338, R339) -/

/-- POWER in the cores of a quadrant whose rail is lost holds until the rail is back and their die has passed its test (R39). -/
def State.holdPower (s : State) (q : Nat) : State := (s.faultQuad q fPower).each (quadCores q) fun s n => s.hold n fPower

/-- Quadrants on the bus of quadrant `q`: Q0 and Q2 on IB_W, Q1 and Q3 on IB_E, all four when tied (R334). -/
def State.busQuads (s : State) (q : Nat) : List Nat :=
  if (s.getTile (q / 4)).tied then tileQuads (q / 4) else [q / 4 * 4 + q % 2, q / 4 * 4 + q % 2 + 2]

def Quad.ramping (x : Quad) : Bool := x.rail = 1 || x.rail = 2

/-- Step 7 of the cold start is over once no quadrant has still to ramp: the memories train (R423). -/
def State.rampsOver (s : State) : State :=
  if s.boot.step ≠ 2 || (List.range 96).any fun q => (s.getQuad q).rampDue || (s.getQuad q).ramping then s
  else
    let s := s.modBoot fun b => { b with step := 3 }
    let s := s.each (List.range 48) fun s h => s.modStack h fun t => if t.state = 4 then t else { t with state := 1 }
    s.each (List.range 576) fun s n => s.modCore n fun c =>
      if c.ccb.state = .hold then { c with ccb := { c.ccb with state := .starting, reason := whyNone } } else c

/-- The quadrant's rail is lost: its cores stop with POWER, and it is DARK with reason NONE (R338). -/
def State.railLost (s : State) (q : Nat) : State :=
  let s := (s.holdPower q).modQuad q fun x => { x.unpower with rail := 6 }
  s.each (quadCores q) fun s n => s.modCore n fun c =>
    match c.ccb.state with
    | .retired | .off => c
    | _ => { c with ccb := { c.ccb with state := .dark, reason := whyNone } }

/-- The lowest-numbered `n` good phases. -/
def activeMask (failed : BitVec 8) (n : Nat) : BitVec 8 :=
  (((List.range 8).filter fun p => !failed.getLsbD p).take n).foldl (fun a p => a ||| BitVec.ofNat 8 (2 ^ p)) 0

/-- What pending notices add to the present current, in 5 A units: the DELTAs of each step time that is still to come, summed, where the sum is
positive (R340). -/
def pendingUp (now : Nat) (l : List (Int × Nat)) : Nat :=
  (((l.map (·.2)).eraseDups.filter fun t => now < t).map fun t =>
    ((l.filter fun e => e.2 = t).foldl (fun (a : Int) e => a + e.1) 0).toNat).foldl (· + ·) 0

/-- The phases that the regulator controller of quadrant `q` keeps active (R340); which of the good ones switch is a design choice (log
entry 50). -/
def State.callPhases (s : State) (q : Nat) : State :=
  let now := s.nowBase
  s.modQuad q fun x => { x with activePh :=
    if x.rail = 3 then activeMask x.failedPh (max 2 (cdiv ((x.iNow + pendingUp now x.notices) * 5) 20 + 1)) else 0 }

/-- R334: a converter fails; the tie joins the half-buses. With both failed the tile's quadrant rails are lost: DEDUCED,
log entry 49. -/
def execConverterFail (tile : Nat) (side : Side) (s : State) : Out :=
  unit (tile < 24) "tile" <|
  let i : Nat := match side with
    | .w => 0
    | .e => 1
  let t := s.getTile tile
  let other := if i = 0 then t.convE else t.convW
  let s := s.modTile tile fun x => { x with
    convW := if i = 0 then 1 else x.convW
    convE := if i = 1 then 1 else x.convE
    tied := other = 0 }
  let s := s.rowFault (rowConv tile i) 4 0
  .next (if other = 0 then s.rowState (rowConv tile (1 - i)) 2 0 else (s.each (tileQuads tile) State.railLost).rampsOver)

/-- Set bits of a byte. -/
def popcount (b : BitVec 8) : Nat := ((List.range 8).filter b.getLsbD).length

/-- R338: a phase is shed. Its cause is not part of the command: overcurrent or a driver fault, free (log entry 48). -/
def execPhaseShed (q phase : Nat) (s : State) : Out :=
  unit (q < 96 && phase < 10) "phase" <|
  let x := s.getQuad q
  let good := if phase < 8 then !x.failedPh.getLsbD phase else x.sramGood.getLsbD (phase - 8)
  due s good <| -- the phase is good
  let x := if phase < 8 then { x with failedPh := x.failedPh ||| BitVec.ofNat 8 (2 ^ phase) }
    else { x with sramGood := x.sramGood &&& ~~~ BitVec.ofNat 2 (2 ^ (phase - 8)) }
  let n := 8 - popcount x.failedPh
  let s := s.setQuad q { x with good := n, activePh := x.activePh &&& ~~~ x.failedPh }
  let c := s.choose 149 2
  let s := (c.2.countQuad q 0x009C 1).rowFault (rowPhase q phase) 4 (0x23 + c.1)
  let s := (s.rowData (rowPhase q phase) (BitVec.ofNat 32 (0x23 + c.1))).rowNow (rowPhase q phase)
  .next (if n = 0 || x.sramGood = 0 then (s.railLost q).rampsOver else s.callPhases q)

/-- The current limit of a quadrant by its good phases, in 5 A units (R338). -/
def phaseLimit (good : Nat) : Nat := if 6 ≤ good then 24 else 4 * good

/-- The limit in force from a Shutter on: a quadrant without a good VSRAM phase is as one without a VCORE phase (R338, R339). -/
def Quad.derated (x : Quad) : Quad := { x with limit := if x.sramGood = 0 then 0 else phaseLimit x.good }

/-- R339, R341: more than the limit for 20 µs. -/
def execQuadrantOvercurrentStop (q : Nat) (s : State) : Out :=
  unit (q < 96) "quadrant" <| .next (s.faultQuad q fPower)

/-! ### Notices, steps and stretches (R340, R341, R361, R362) -/

/-- R340, R211: a load notice; its step time is its lead, in 0.1 µs, after now. The present current is measured, so free (log
entry 48). -/
def execNoticeMessage (core : Nat) (delta : Int) (lead : Timed Nat) (s : State) : Out :=
  unit (coreOk core) "core" <|
  let q := coreQuad core
  let mine (m : Msg) : Bool := m.type = tyNotice && m.src = q && m.body = [noticeBody (coreSlot core) delta lead.val]
  due s (s.underWay mine).isSome <| -- a NOTICE of the core is under way
  let s := (s.received mine).ctlLate q lead.late
  let c := s.choose 107 49
  let at? := c.2.nowBase + 250 * lead.val
  .next (((c.2.countQuad q 0x0090 1).modQuad q fun x => { x with iNow := c.1, notices := x.notices ++ [(delta, at?)] }).callPhases q)

/-- R341: a step that no notice covers. -/
def execUnannouncedStep (q : Nat) (s : State) : Out :=
  unit (q < 96) "quadrant" <| .next (s.countQuad q 0x0094 1)

/-- A stretch ends: its time in the frame is measured, so free from `least` on, in 10 ns, within the limit (R361, R362: log entry 48). -/
def State.endStretch (s : State) (least : Nat) : State :=
  if !s.clk.active then s
  else
    let c := s.choose 108 2001
    c.2.modClk fun k => { k with active := false, crossed := false, used := min 2000 (k.used + least + c.1) }

/-- The stretch line is released; each quadrant that still requests stops its cores with POWER (R362). -/
def State.denyStretch (s : State) : State :=
  let l := (List.range 96).filter fun q => (s.getQuad q).stretching
  let s := s.endStretch 0
  s.each l fun s q => ((s.modQuad q fun x => { x with stretching := false }).countPmc 0x0314 1).faultQuad q fPower

/-- R341, R361, R362: VCORE falls below VSET − 30 mV: the quadrant requests a stretch. -/
def execVcoreDroop (q : Nat) (s : State) : Out :=
  unit (q < 96) "quadrant" <|
  let s := ((s.countQuad q 0x0098 1).countQuad q 0x0114 1).modQuad q fun x => { x with stretching := true }
  .next (if s.pmc.phase = phStopBath || 2000 ≤ s.clk.used then s.denyStretch
    else if s.clk.active then s
    else (s.modClk fun c => { c with active := true, crossed := false, firstQd := q }).countPmc 0x0310 1)

/-- R361: VCORE has recovered for 1 µs. -/
def execStretchWithdraw (q : Nat) (s : State) : Out :=
  unit (q < 96) "quadrant" <|
  due s (s.getQuad q).stretching <| -- the quadrant requests a stretch
  .next (s.modQuad q fun x => { x with stretching := false })

/-- R361: 1 µs after the last withdrawal, so the stretch has lasted for 1 µs or more, unless it ran across the Shutter. -/
def execStretchEnd (s : State) : Out :=
  due s (s.clk.active && (List.range 96).all fun q => !(s.getQuad q).stretching) <| -- every request is withdrawn
  .next (s.endStretch (if s.clk.crossed then 0 else 100))

/-- R362: 20 µs of stretch in the frame, or, from drain open on, a request. -/
def execStretchLimit (s : State) : Out :=
  due s s.clk.active <| -- a stretch is in force
  let s := if s.pmc.phase = phStopBath then s else s.modClk fun k => { k with used := 2000 }
  .next s.denyStretch

/-! ### Ramps (R344, R345) -/

/-- R344, R345: the ramp starts at Shutter + 5 µs; F1 is the first frame whose Shutter lies 3.2 ms or more later. In the cold start no core
runs before its last step, and the ramp plans no first frame (R423). -/
def execQuadrantRamp (q : Nat) (s : State) : Out :=
  unit (q < 96) "quadrant" <|
  due s ((s.getQuad q).rampDue && (s.getQuad q).rail = 0) <| -- a ramp is due
  .next (s.modQuad q fun x => { x with
    rail := 1
    step := 0
    pause := 0
    defers := 0
    rampDue := false
    tested := if s.boot.step = 2 then x.tested else 0
    passed := 0
    rampF1 := if s.boot.step = 2 then none else some (s.pmc.frame + BitVec.ofNat 64 (cdiv 3205 (max 1 s.pmc.t))) })

/-- F1 moves on by a frame (R345). At the eighth deferral the running quadrants of the bus are lowered by one variant, or
a DECISION event is written. -/
def State.deferRamp (s : State) (q : Nat) : State :=
  let n := (s.getQuad q).defers + 1
  let s := s.modQuad q fun x => { x with defers := sat 15 n, rampF1 := x.rampF1.map (· + 1) }
  let s := s.quadReason q whyPowerDeferred
  if n ≠ 8 then s
  else if s.manual 4 then s.decision 4 (.quad q) 8
  else (s.countPmc 0x0228 1).each ((s.busQuads q).filter fun p => p ≠ q && (s.getQuad p).rail = 3) fun s p =>
    s.modQuad p fun x => { x with rampRatio := s.nextRatio p false x.ratio }

/-- At a Shutter a quadrant lowered for a ramp is restored where no such ramp goes on beside it (R345). -/
def State.rampRestore (s : State) (q : Nat) : State :=
  if (s.getQuad q).rampRatio = 16 then s
  else if (s.busQuads q).any fun p => p ≠ q && (s.getQuad p).ramping && 8 ≤ (s.getQuad p).defers then s
  else s.modQuad q fun x => { x with rampRatio := 16 }

/-- The ramp is complete. -/
def State.rampDone (s : State) (q : Nat) : State :=
  (((s.modQuad q fun x => { x with rail := 3, step := 0 }).callPhases q).settled 4 (.quad q) fun _ => false).rampsOver

/-- What a running quadrant may still draw before the Develop deadline, in mW, above its present draw (R344). -/
def State.reserveOf (s : State) (q draw : Nat) : Nat :=
  match s.workOfQuad q with
  | none => 0
  | some w =>
    match (s.getWork w).bound, s.boundPlate w with
    | some b, some img =>
      let o := swCorner (s.getWork w).quads
      let x := quadXY q
      let now := s.nowBase * (s.getQuad q).ratio / 16
      let stop := s.deadlineCycle q
      if stop ≤ now then 0
      else curReach img b.variant (x.1 - o.1) (x.2 - o.2) now stop * 5 * (s.getQuad q).vset - draw
    | _, _ => 0

/-- P_res of the bus of quadrant `q`, in mW. -/
def State.busReserve (s : State) (q : Nat) (draws : List Nat) : Nat :=
  let l := (s.busQuads q).filter fun p => (s.getQuad p).rail = 3
  (((List.range l.length).zip l).map fun e => s.reserveOf e.2 (draws.getD e.1 0)).foldl (· + ·) 0

/-- R344, R345: the bus controller grants a step, or the ramp pauses for 1 µs. Ramps of one bus run one at a time. -/
def execRampStep (q pMeas : Nat) (draws : List Nat) (s : State) : Out :=
  unit (q < 96) "quadrant" <|
  let x := s.getQuad q
  due s x.ramping <| -- the quadrant ramps
  let first := (s.busQuads q).all fun p => q ≤ p || !(s.getQuad p).ramping
  if first && pMeas + s.busReserve q draws + 12000 ≤ 300000 then
    let s := s.setQuad q { x with rail := 1, step := x.step + 1 }
    .next (if 16 ≤ x.step + 1 then s.rampDone q else s)
  else
    let s := s.setQuad q { x with rail := 2, pause := x.pause + 1 }
    .next (if x.pause = 2000 then s.deferRamp q else s)

/-! ### eFuses (R346, R347) -/

/-- The last passed probe lies within 1 h (R347). -/
def State.probedLately (s : State) (q : Nat) : Bool :=
  match (s.getQuad q).probedAt with
  | some f => (s.pmc.frame - f).toNat * s.pmc.t < 3600000000
  | none => false

/-- R346: the eFuse trips: both rails off; the quadrant's cells fault with POWER and are DARK from the next Shutter. -/
def execEfuseTrip (q : Nat) (s : State) : Out :=
  unit (q < 96) "quadrant" <|
  due s ((s.getQuad q).rail = 3 || (s.getQuad q).ramping) <| -- the rail is on
  let again := s.probedLately q
  let s := (s.holdPower q).modQuad q fun x => { x with
    rail := 0
    step := 0
    rampF1 := none
    tripped := true
    probeDue := !again
    activePh := 0 }
  .next (((s.rowState (rowPhase q 0) (s.row (rowPhase q 0)).state 0x23).component (rowPhase q 0)).rowNow (rowPhase q 0)).rampsOver

/-- R347: the probe. -/
def execEfuseProbe (q : Nat) (pass : Bool) (s : State) : Out :=
  unit (q < 96) "quadrant" <|
  due s ((s.getQuad q).probeDue && s.thm.state < 2) <| -- a probe is due
  let s := s.rowAttempt (rowPhase q 0)
  .next (s.modQuad q fun x =>
    if pass then { x with rail := 0, probeDue := false, tripped := false, rampDue := true, probedAt := some s.pmc.frame }
    else { x with rail := 4, probeDue := false })

/-- R335, R347: a VFAB_T feed's eFuse trips; the other feed carries the tile. -/
def execVfabTFeedTrip (tile : Nat) (side : Side) (s : State) : Out :=
  unit (tile < 24) "tile" <|
  match side with
  | .w => .next ((s.modTile tile fun x => { x with feedW := false }).rowFault (rowFeed tile 0) 4 0x23)
  | .e => .next ((s.modTile tile fun x => { x with feedE := false }).rowFault (rowFeed tile 1) 4 0x23)

/-! ### Host Sites (R305, R306, R308, R309) -/

/-- The requests of a site among a list. -/
def ofSite (site : Nat) (l : List Req) : List Req := l.filter fun q => q.site = site
def notSite (site : Nat) (l : List Req) : List Req := l.filter fun q => q.site ≠ site

/-- The entries of a site that await a final answer, and the work cells without them. -/
def State.siteReqs (s : State) (site : Nat) : List Req :=
  s.pmc.work.flatMap fun e => ofSite site e.2.out ++ e.2.cls.flatMap fun c => ofSite site c.2.queue
def Work.dropSite (site : Nat) (w : Work) : Work :=
  { w with out := notSite site w.out, cls := w.cls.map fun c => (c.1, { c.2 with queue := notSite site c.2.queue }) }

/-- Modules trained at either width. -/
def Site.trained (g : Site) : Nat := (g.modules.filter fun m => m.2 = .x64 || m.2 = .x32).length

/-- A site goes DOWN: its entries end LOST SITE_DOWN, answers held (R309, R323); SITE_DOWN is raised on the other site (R308). -/
def State.siteDown (s : State) (site : Nat) : State :=
  let l := s.siteReqs site
  let s := s.modSite site fun g => { g with state := 4, changed := s.frame16 }
  let s := (s.each (s.pmc.work.map (·.1)) fun s w => s.modWork w (Work.dropSite site)).lose l lostSiteDown
  (s.rowState (rowSite site) 5 0).eventOn [1 - site] evSiteDown (s.componentId (rowSite site)) (s.getSite site).trained 0

/-- R306: a Host Site rail is above 1.2 times its rating for 1 ms. -/
def execHostSiteRailOff (site : Nat) (s : State) : Out :=
  unit (site < 2) "Host Site" <|
  due s ((s.getSite site).state ≠ 5 && !(s.getSite site).railOff) <| -- the rail is on
  let s := s.modSite site fun g => { g with railOff := true }
  let s := if (s.getSite site).state = 4 then s else s.siteDown site
  .next (s.rowState (rowSite site) 5 0x23)

/-- R305: the site sets VHS_CORE, 0.65 V to 0.95 V. -/
def execSidebandVidMessage (site millivolt : Nat) (s : State) : Out :=
  unit (site < 2) "Host Site" <|
  .next (s.modSite site fun g => { g with vid := if 650 ≤ millivolt ∧ millivolt ≤ 950 then millivolt else g.vid })

/-! ### The input cap (R343) -/

/-- Quadrants that run a plate. -/
def State.platedQuads (s : State) : List Nat := s.bounds.flatMap fun e => (s.getWork e.1).quads

/-- One quadrant is staged down, or, with no lower variant, its classes are cut. -/
def State.stageDown (s : State) (q : Nat) : State :=
  let r := (s.getQuad q).ratio
  let n := s.nextRatio q false r
  if n < r then s.modQuad q fun x => { x with powerRatio := n }
  else match s.workOfQuad q with
    | some w =>
      match s.boundPlate w with
      | some img => s.freeLoss w 3 img
      | none => s
    | none => s

/-- Quadrants in the order of their measured power, the highest first, on equal power the lowest number first. What they draw is measured, so
free (log entry 48). -/
def State.byPower (s : State) (l : List Nat) : List Nat × State :=
  let k := s.fresh
  let p (q : Nat) : Nat := Config.choice 147 (k + q)
  ((l.mergeSort fun a b => p b < p a || (p a = p b && a ≤ b)), { s with fresh := k + 96 })

/-- Quadrants lowered by staging go up by one variant, those of one work cell together; of which one is free (R343, R359: log
entry 48). -/
def State.stageUp (s : State) : State :=
  let low := (List.range 96).filter fun q => (s.getQuad q).powerRatio < 16
  let c := s.choose 110 low.length
  let q := low.getD c.1 0
  let least := ((c.2.ratioQuads q).map fun p => (c.2.getQuad p).powerRatio).foldl min 16
  let s := c.2.each (c.2.ratioQuads q) fun s p => s.modQuad p fun x =>
    if x.powerRatio = least then { x with powerRatio := s.nextRatio p true least } else x
  s.modPwr fun p => { p with
    stageFrames := 0
    staged := (List.range 96).any fun q => (s.getQuad q).powerRatio < 16 }

/-- R343: the Stop Bath's comparison. The frame's input power is measured, so free; the prediction has no stated form, so how many quadrants,
from that of the highest power on, have to be lowered before it is within LIMIT is free too (log entry 48). -/
def State.powerCheck (s : State) : State :=
  let c := s.choose 109 65536
  let s := c.2.modPwr fun p => { p with pLf := c.1 }
  if c.1 ≤ s.pwr.limit then
    let low := c.1 * 100 ≤ s.pwr.limit * 95
    let s := (s.modPwr fun p => { p with
      overLimit := false
      overFrames := 0
      stageFrames := if p.staged && low then p.stageFrames + 1 else 0 }).settled 4 .panel fun a => a = 2 && s.pwr.staged
    if s.pwr.staged && 100 ≤ s.pwr.stageFrames then (if s.manual 4 then s.decision 4 .panel 2 else s.stageUp) else s
  else
    let n := s.pwr.overFrames + 1
    let s := (s.modPwr fun p => { p with overLimit := true, overFrames := n, stageFrames := 0 }).countPmc 0x0224 1
    if n < 2 then s
    else if s.manual 4 then s.decision 4 .panel 1
    else
      let s := (s.countPmc 0x0228 1).modPwr fun p => { p with staged := true }
      let l := s.byPower s.platedQuads
      let k := l.2.choose 139 l.1.length
      k.2.each (l.1.take (k.1 + 1)) State.stageDown

end Sys2Proof.Machine
end

