-- ==== Sys2Proof/Machine/Clocks.lean ====
section
/-! DEFINITION. Clocks: references (R355, R357), loss of lock and of a die's clock (R364, R365), rejoin (R366), and the
streams that a retired link or core port leaves to detours (R206). -/

namespace Sys2Proof.Machine

/-! ### References (R357) -/

/-- SEL when the presence of the references has changed. -/
def Clock.pick (c : Clock) : Nat :=
  if c.sel = 0 && c.refA then 0 else if c.sel = 1 && c.refB then 1
  else if c.sel = 2 then 2 else if c.refA then 0 else if c.refB then 1 else 2

def State.setSel (s : State) (n : Nat) : State :=
  if s.clk.sel = n then s.alert else (s.modClk fun c => { c with sel := n, changed := s.frame16 }).alert

def rowOfRef : Ref → Nat
  | .a => rowRef 0
  | .b => rowRef 1

/-- R357: a reference is absent for 1 µs. -/
def execReferenceLoss (r : Ref) (s : State) : Out :=
  due s (match r with
    | .a => s.clk.refA
    | .b => s.clk.refB) <| -- the reference is present
  let s := s.modClk fun c => match r with
    | .a => { c with refA := false }
    | .b => { c with refB := false }
  .next ((s.rowState (rowOfRef r) 5 0x2F).setSel s.clk.pick)

/-- R357: a reference returns. While SEL = FREE it is selected at the next Stop Bath. -/
def execReferenceReturn (r : Ref) (s : State) : Out :=
  .next ((s.modClk fun c => match r with
    | .a => { c with refA := true }
    | .b => { c with refB := true }).rowState (rowOfRef r) 1 0)

/-- The Stop Bath selects a returned reference. -/
def State.refSelect (s : State) : State :=
  if s.clk.sel ≠ 2 then s else if s.clk.refA then s.setSel 0 else if s.clk.refB then s.setSel 1 else s

/-! ### Detours needed (R206) -/

/-- The streams that use a retired output or core port of router `r` wait for detours. -/
def State.needDetour (s : State) (r p : Nat) : State :=
  s.modPmc fun m => { m with detours := (m.detours ++ [(r, p)]).eraseDups }

/-! ### Loss of clock (R364, R365) -/

/-- Cores stop, take CLOCK and stay FAULTED until they rejoin. -/
def State.clockFault (s : State) (l : List Nat) : State :=
  let s := (s.stopCores l).faultAll l fClock
  s.each l fun s n => s.hold n fClock

/-- A quadrant loses lock: the base branch goes to the standby, or stops, and the dies are gated (R364). -/
def State.loseLock (s : State) (q : Nat) : State :=
  let x := s.getQuad q
  let s := (s.countQuad q 0x0110 1).modQuad q fun y => { y with
    locked := false
    relocked := none
    source := x.standby
    gated := 7
    passed := 0
    attempts := 0 }
  if x.standby ≠ 5 then s
  else s.each (quadCores q) fun s r =>
    (s.modRtr r fun y => { y with idle := true }).each [1, 2, 3, 4, 5, 6] fun s p => s.needDetour r p

/-- R364: a quadrant loses lock. -/
def execLossOfLock (q : Nat) (s : State) : Out :=
  unit (q < 96) "quadrant" <|
  due s (s.getQuad q).locked <| -- the quadrant is locked
  .next ((s.loseLock q).clockFault (quadCores q))

/-- Bit `d` of a quadrant's die masks. -/
def dieBit (die : Nat) : BitVec 3 := BitVec.ofNat 3 (2 ^ (die % 3))

/-- A die loses its clock, or takes a fatal reset: it is gated, then fed from the die beside it (R365). -/
def State.loseDie (s : State) (die : Nat) : State :=
  (s.modQuad (die / 3) fun y => { y with
    gated := y.gated ||| dieBit die
    dieFwd := y.dieFwd ||| dieBit die
    passed := y.passed &&& ~~~ dieBit die
    absent := y.absent &&& ~~~ dieBit die
    attempts := 0 }).clockFault (dieCores die)

/-- R365: a die loses its clock. -/
def execDieClockLoss (die : Nat) (s : State) : Out :=
  unit (die < 288) "compute die" <|
  due s (!(s.getQuad (die / 3)).gated.getLsbD (die % 3)) <| -- the die is clocked
  .next (s.loseDie die)

/-- R365: the reset of a die was planned: it is gated and marked expected-absent, and follows R366. -/
def Quad.expectAbsent (die : Nat) (x : Quad) : Quad :=
  { x with
    gated := x.gated ||| dieBit die
    passed := x.passed &&& ~~~ dieBit die
    absent := x.absent ||| dieBit die
    attempts := 0 }

/-- The reason of a die's cells while they run on a forwarded clock (R366). -/
def Quad.forwarded (x : Quad) (die : Nat) : Bool := x.dieFwd.getLsbD (die % 3) || (x.source ≠ 0 && x.source ≠ 5 && !x.locked)

/-- R366: a relocked quadrant's base branch waits for its return. -/
def execOscillatorRelock (q : Nat) (s : State) : Out :=
  unit (q < 96) "quadrant" <|
  due s (!(s.getQuad q).locked) <| -- the quadrant has lost lock
  .next (s.modQuad q fun x => { x with locked := true, relocked := some s.nowCycles })

/-- R366 step 3: the die is ungated, on the mesh or forwarded, and its self-test starts. -/
def execDieUngate (die : Nat) (s : State) : Out :=
  unit (die < 288) "compute die" <|
  let x := s.getQuad (die / 3)
  due s (x.gated.getLsbD (die % 3) && x.source ≠ 5) <| -- the die is gated and a clock is there
  let s := s.modQuad (die / 3) fun y => { y with gated := y.gated &&& ~~~ dieBit die, tested := y.tested &&& ~~~ dieBit die }
  let s := s.rowState (rowDie die) 6 (s.row (rowDie die)).reason
  .next (if x.forwarded die then s.each (dieCores die) fun s n => s.setReason n whyClockForwarded else s)

/-- R345, R366 steps 4: the self-test of a die ends. After a pass the die rejoins at the next Shutter; the third failure retires its cores
(R396). -/
def execDieSelfTestDone (die : Nat) (pass : Bool) (s : State) : Out :=
  unit (die < 288) "compute die" <|
  let q := die / 3
  let x := s.getQuad q
  due s (!x.gated.getLsbD (die % 3) && !x.tested.getLsbD (die % 3)) <| -- a self-test of the die runs
  if pass then
    .next ((s.modQuad q fun y => { y with tested := y.tested ||| dieBit die, passed := y.passed ||| dieBit die }).rowState
      (rowDie die) 1 0)
  else
    let s := (s.modQuad q fun y => { y with attempts := sat 3 (y.attempts + 1), gated := y.gated ||| dieBit die }).rowAttempt
      (rowDie die)
    let s := s.each (dieCores die) fun s n => s.setFault n fSelfTest
    .next (if x.attempts + 1 < 3 then s
      else (s.rowState (rowDie die) 4 0x0A).each (dieCores die) fun s n =>
        s.modCore n fun c => { c with failed := some 0x0A })

/-! ### The Stop Bath's part (R364, R366) -/

/-- Neighbouring quadrants: N, S, E, W with their source codes. -/
def quadNeighbours (q : Nat) : List (Nat × Nat) :=
  let c := quadXY q
  (if c.2 < 7 then [(1, quadAt c.1 (c.2 + 1))] else []) ++ (if 0 < c.2 then [(2, quadAt c.1 (c.2 - 1))] else []) ++
    (if c.1 < 11 then [(3, quadAt (c.1 + 1) c.2)] else []) ++ if 0 < c.1 then [(4, quadAt (c.1 - 1) c.2)] else []

/-- PHASE of a quadrant, in 1/128 UI: measured, so free; of a locked one within 0.4 UI (R356: log entry 48). -/
def State.measurePhase (s : State) (q : Nat) : State :=
  let f := s.free
  f.2.modQuad q fun x => { x with phase := if x.locked then (f.1.toNat % 103 : Int) - 51 else toSigned 8 f.1.toNat }

/-- R364: the standby is the mesh-locked neighbour with the smallest measured phase, by its size; of equal ones the first of north, south,
east and west (DEDUCED, log entry 141). -/
def State.nameStandby (s : State) (q : Nat) : State :=
  let l := (quadNeighbours q).filter fun e => (s.getQuad e.2).locked && (s.getQuad e.2).source = 0
  let best := l.foldl (fun (a : Option (Nat × Nat)) e => match a with
    | none => some e
    | some b => if (s.getQuad e.2).phase.natAbs < (s.getQuad b.2).phase.natAbs then some e else a) none
  s.modQuad q fun x => { x with standby := (best.map (·.1)).getD 5 }

/-- R366: the base branch returns from a forwarded clock, once relocked for 1 ms at this Stop Bath, which ends with the frame. -/
def State.baseReturn (s : State) (q : Nat) : State :=
  match (s.getQuad q).relocked with
  | some f =>
    if f + 2500000 ≤ 2 * s.pmc.timebase.toNat + s.shutterCycle then
      (s.modQuad q fun x => { x with source := 0, relocked := none }).each (quadCores q) fun s n =>
        if (s.getCore n).ccb.reason = whyClockForwarded && !(s.getQuad q).dieFwd.getLsbD (coreDie n % 3) then
          s.setReason n whyNone
        else s
    else s
  | none => s

/-- The clocks' part of a Stop Bath. -/
def State.clockBath (s : State) : State :=
  let s := s.refSelect
  let s := s.each (List.range 96) State.baseReturn
  (s.each (List.range 96) State.measurePhase).each (List.range 96) State.nameStandby

end Sys2Proof.Machine
end

