-- ==== Sys2Proof/Machine/Thermal.lean ====
section
/-! DEFINITION. Thermal sensing and cooling: sensor samples (R371, R372), pairs (R373 to R375), the stacked-die cap
(R376), inlet and fans (R378), thermal resistance and warnings (R379 to R381), rainflow counts (R386), Safelight hold
(R382 to R385) and the start of its resume (R433). Sensors 0 to 442 are the pairs of R370; the model numbers stack h as
443 + h, the Host Sites 491 and 492, and the inlet thermistors 493 and 494 (log entry 52). -/

namespace Sys2Proof.Machine

/-! ### Sensors (R370, R372) -/

/-- Throttle threshold and trip of a sensor, 1/16 °C. -/
def sensorLimits (n : Nat) : Int × Int :=
  if n < 384 then (if n % 4 < 3 then (1600, 1840) else (1520, 1760))
  else if n < 432 then (1600, 1840)
  else if n < 443 then (1520, 1760)
  else if n < 491 then (1520, 1680)
  else (1680, 1760)

/-- Base pairs. -/
def isBase (n : Nat) : Bool := n < 384 && n % 4 = 3

/-- The tile of a Fabric I/O die's attachment (R19). -/
def fioTile (n : Nat) : Nat :=
  let col := if n < 2 then 1 else if n < 4 then 4 else if n < 6 then 2 else 3
  if n % 2 = 0 then col else 18 + col

/-- The tiles on which a sensor acts (R372). -/
def sensorTiles (n : Nat) : List Nat :=
  if n < 384 then [n / 16]
  else if n < 432 then [(n - 384) / 2]
  else if n < 440 then [fioTile (n - 432)]
  else if n = 440 then [6, 12]
  else if n = 441 then [11, 17]
  else if n = 442 then [0]
  else if n < 491 then [(n - 443) / 2]
  else if n = 491 then [6, 12]
  else [11, 17]

/-- Sensors of one kind (R370). -/
def sensorKind (n : Nat) : Nat :=
  if n < 384 then (if n % 4 < 3 then 0 else 1) else if n < 432 then 2 else if n < 443 then 3 else if n < 491 then 4 else 5

def State.pair (s : State) (n : Nat) : Pair := tget s.thm.pairs n {}
def State.setPair (s : State) (n : Nat) (p : Pair) : State := s.modThm fun t => { t with pairs := tset t.pairs n p {} }

/-! ### THERMAL faults (R372, R374) -/

/-- A fault bit that the cell of a composite holds itself, for the component of a row (R22, R32). -/
def State.tileFault (s : State) (t bit row : Nat) : State :=
  (s.modComp (384 + t) fun c => { c with fault := c.fault ||| faultBit bit }).latch s
    ((.tile t, s.componentId row) :: s.ids (s.aboveTile t))
def State.panelFault (s : State) (bit row : Nat) : State :=
  (s.modComp 408 fun c => { c with fault := c.fault ||| faultBit bit }).latch s
    ((.panel, s.componentId row) :: (if s.fab.hallIndex.isSome then [(.hall, s.ccbId .panel)] else []))

/-- The cores of the cell that holds a sensor: of its die, or of a Base pair's quadrant; none where the sensor is a component's. -/
def sensorCores (n : Nat) : List Nat :=
  if 384 ≤ n then [] else if n % 4 < 3 then dieCores (n / 4 * 3 + n % 4) else quadCores (n / 4)

/-- The Contact Sheet row of the component that holds a sensor outside the compute dies and base tiles (R22). -/
def sensorRow (n : Nat) : Nat :=
  if n < 432 then rowRes (n - 384) else if n < 440 then rowFio (n - 432) else if n < 442 then rowGate (n - 440)
  else if n = 442 then rowPmc else if n < 491 then rowStack (n - 443) else rowSite (n - 491)

/-- CCB_FAULT.THERMAL sets in the cells that hold the sensors of a list (R372). -/
def State.thermalFaults (s : State) (l : List Nat) : State :=
  let s := s.faultAll (l.flatMap sensorCores).eraseDups fThermal
  s.each (l.filter (384 ≤ ·)) fun s n =>
    if n < 432 || (443 ≤ n && n < 491) then s.tileFault ((sensorTiles n).getD 0 0) fThermal (sensorRow n)
    else s.panelFault fThermal (sensorRow n)

/-- The sensors at trip: two consecutive samples have reached it (R372). -/
def State.atTrip (s : State) : List Nat := (s.thm.pairs.filter fun e => 2 ≤ e.2.tripRun).map (·.1)

/-- The core's position belongs to a work cell that the stacked-die cap gates (R377). -/
def State.capHeld (s : State) (n : Nat) : Bool :=
  match (s.getCore n).position with
  | some p => (s.getWork p.1).quads.any fun q => (s.getQuad q).capGated
  | none => false

/-- At a Shutter THERMAL holds in the cells whose sensors are still at trip, and sets again (R39, R58). -/
def State.thermalShutter (s : State) : State :=
  let l := s.atTrip
  let hot := (l.flatMap sensorCores).eraseDups
  let s := s.each ((s.core.filter fun e => e.2.ccb.holding.getLsbD fThermal).map (·.1)) fun s n =>
    if hot.contains n || s.capHeld n then s else s.release n fThermal
  (s.each hot fun s n => s.hold n fThermal).thermalFaults (l.filter (384 ≤ ·))

/-! ### Estimates (R375) -/

/-- The HEALTHY pairs from which an ESTIMATED pair is read: of its kind, and Base pairs where fewer than 4 are. -/
def State.candidates (s : State) (n : Nat) : List (Nat × Int) :=
  let ok (e : Nat × Pair) : Bool := e.1 < 443 && e.1 ≠ n && e.2.state = 0 && e.2.recent ≠ []
  let same := s.thm.pairs.filter fun e => ok e && sensorKind e.1 = sensorKind n
  let more := if same.length < 4 then s.thm.pairs.filter fun e => ok e && isBase e.1 && sensorKind n ≠ 1 else []
  (same ++ more).map fun e => (e.1, e.2.temp)

/-- O: the mean over 1,000 HEALTHY frames, 0 where there are fewer. -/
def Pair.offset (p : Pair) : Int := if p.offsets.length < 1000 then 0 else p.offsets.foldl (· + ·) 0 / 1000

/-- E + O. -/
def State.estimated (s : State) (n : Nat) : Int := Config.estimate n (s.candidates n) + (s.pair n).offset

/-! ### Samples (R371, R372) -/

/-- A valid element: −20 °C to 150 °C. -/
def validTemp (t : Option Int) : Option Int :=
  match t with
  | some x => if -320 ≤ x ∧ x ≤ 2400 then some x else none
  | none => none

/-- The higher of the valid elements. -/
def governing (d r : Option Int) : Option Int :=
  match d, r with
  | some a, some b => some (max a b)
  | some a, none => some a
  | none, b => b

/-- A reading takes part in the limits. -/
def Pair.take (p : Pair) (n : Nat) (temp : Int) : Pair :=
  let l := sensorLimits n
  { p with
    temp := temp
    trip := l.2 ≤ temp
    overT := l.1 < temp
    tripRun := if l.2 ≤ temp then p.tripRun + 1 else 0
    recent := (temp :: p.recent).take 200 }

/-- One pair's sample. With both elements invalid it is ESTIMATED at once (R373). -/
def State.samplePair (s : State) (n : Nat) (d r : Option Int) : State :=
  let p := s.pair n
  let d := validTemp d
  let r := validTemp r
  let both := d.isSome && r.isSome
  let diff : Int := d.getD 0 - r.getD 0
  let dead := d.isNone && r.isNone
  let p := { p with
    samples := p.samples + 1
    disagree := p.disagree + b2n (both && 48 < diff.natAbs)
    oneBad := p.oneBad || (!both && !dead)
    bothBad := p.bothBad || dead
    diff := if both then diff else p.diff
    state := if dead then 2 else p.state }
  let s := if dead && (s.pair n).state ≠ 2 then ((s.countPmc 0x0414 1).setPair n p).rowState (rowPair n) 8 0x26 else s.setPair n p
  if p.state = 2 then s.setPair n (p.take n (s.estimated n))
  else match governing d r with
    | some t => s.setPair n (p.take n t)
    | none => s

/-- A single sensor's reading: a stack or a Host Site. -/
def State.sampleSingle (s : State) (n : Nat) (t : Int) : State := s.setPair n ((s.pair n).take n t)

/-- A Base reading counts toward the frame's highest and the second's mean. -/
def State.baseReading (s : State) (n : Nat) : State :=
  if !isBase n then s else
  let t := (s.pair n).temp
  (s.modQuad (n / 4) fun q => { q with baseMax := some (match q.baseMax with
      | some m => max m t
      | none => t) }).modTile (n / 16) fun x => { x with tSum := x.tSum + t, tN := x.tN + 1 }

/-- The least-squares slope of the last 200 readings, newest first, exceeds `c` / 16 °C per second (R382, R385). -/
def slopeAbove (l : List Int) (c : Int) : Bool :=
  let n := l.length
  let d (i : Nat) : Int := (n : Int) - 1 - 2 * i
  let num := ((List.range n).zip l).foldl (fun a e => a + d e.1 * e.2) 0
  let den := (List.range n).foldl (fun a i => a + d i * d i) 0
  n = 200 && c * den < 20000 * num

/-! ### Warnings (R378, R380) -/

/-- The inlet temperature in 1/16 °C (R378). -/
def Thermal.inlet (t : Thermal) : Int :=
  if t.inlet0Bad && t.inlet1Bad then 560
  else if t.inlet0Bad then t.inlet1 else if t.inlet1Bad then t.inlet0 else max t.inlet0 t.inlet1

/-- The tile with the highest 10-minute R_t, ties to the lower ID. -/
def State.worstTile (s : State) : Nat :=
  (List.range 24).foldl (fun a t => if (s.getTile a).rth < (s.getTile t).rth then t else a) 0

def State.thermalState (s : State) (n : Nat) : State :=
  (s.modThm fun t => { t with state := n, changed := s.frame16 }).alert

/-- A warning that comes to stand is raised; one whose conditions have ended is cleared (R380). -/
def State.refreshWarning (s : State) : State :=
  let s := s.modThm fun t => { t with inputWarn := 560 < t.inlet || t.inlet0Bad || t.inlet1Bad || t.fan0 || t.fan1 }
  let stands := s.thm.inputWarn || s.thm.rthWarn
  if s.thm.state = 0 && stands then
    let w := s.worstTile
    let t := s.getTile w
    (s.thermalState 1).event evCooling (s.ccbId .panel) t.rth (w * 2 ^ 24 + t.base % 2 ^ 24)
  else if s.thm.state = 1 && !stands then s.thermalState 0
  else s

/-! ### Safelight hold (R382 to R385) -/

/-- A quadrant is DARK: its eFuse tripped, or its cells are forced DARK (R346, R316). -/
def State.isDark (s : State) (q : Nat) : Bool :=
  let x := s.getQuad q
  let is (n : Nat) : Bool := (s.getCore n).ccb.state = .dark
  x.rail = 4 || x.rail = 6 || x.tripped || ((quadCores q).any is &&
    (quadCores q).all fun n => is n || (s.getCore n).ccb.state = .off || (s.getCore n).ccb.state = .retired)

/-- R383: entry, all its steps (log entry 43). What a pool stack in self-refresh shows is OFF: DEDUCED, log entry 53. -/
def State.enterHold (s : State) (cause : Nat) : State :=
  if s.thm.state = 2 || s.thm.state = 3 then s else
  let dark := (List.range 96).filter s.isDark
  let s := s.modThm fun t => { t with cause := cause, resumeAt := none, darkAtEntry := dark }
  let ws := s.pmc.work.map (·.1)
  let s := s.each ws fun s w => (s.loseQueued w lostHold).loseOut w lostHold
  let s := s.each ws State.voidFrame
  let s := s.stopCores (List.range 576)
  let s := s.each ((List.range 96).filter fun q => !dark.contains q) fun s q => s.modQuad q Quad.unpower
  let s := s.each (List.range 48) fun s h => s.modStack h fun t => { t with state := if t.state = 2 then 0 else t.state }
  let s := s.each (List.range 576) fun s n => s.modCore n fun c =>
    match c.ccb.state with
    | .off | .dark | .retired => c
    | _ => { c with ccb := { c.ccb with state := .hold, reason := whyCoolingLoss } }
  let s := s.modBoot fun b => { b with step := if 1 < b.step && b.step < 6 then 8 else b.step }
  ((s.countPmc 0x0418 1).thermalState 3).cellEvent .panel

/-- R433 steps 1 to 3: the resume starts at the next Shutter; quadrants that were not DARK ramp, pool stacks retrain. A cold
start that was held goes on with the ramps, then with the memory test (R429). -/
def State.startResume (s : State) : State :=
  let held := s.boot.step = 8
  let s := if held then s.modBoot fun b => { b with step := 2 } else s
  let s := ((s.modThm fun t => { t with resumeAt := some (s.pmc.frame + 1) }).thermalState 4).settled 3 .panel fun _ => false
  let s := s.each ((List.range 96).filter fun q => !s.thm.darkAtEntry.contains q && !s.isDark q) fun s q =>
    s.modQuad q fun x => { x with rampDue := true }
  s.each (List.range 48) fun s h => s.modStack h fun t =>
    if held then t
    else if t.state = 0 then { t with state := 2, lastStep := s.frame16, nextChannel := min 16 (t.nextChannel + 1) } else t

/-- The conditions of R385 hold now; that they have held for 60 s is the event's. -/
def State.mayExit (s : State) : Bool :=
  (s.thm.pairs.all fun e => e.2.temp + 160 ≤ (sensorLimits e.1).1 && !slopeAbove e.2.recent 8) &&
    !s.thm.fan0 && !s.thm.fan1 && s.thm.inlet ≤ 560

/-- R385: the hold may end. -/
def execHoldExit (s : State) : Out :=
  due s (s.thm.state = 3 && s.mayExit) <| -- the hold's conditions have ended
  .next (if s.manual 3 then s.decision 3 .panel 1 else s.startResume)

/-! ### The commands -/

/-- A thermistor's reading (R378): −10 °C to 70 °C is valid. -/
def State.inletReading (s : State) (i : Nat) (t : Option Int) : State :=
  let ok : Bool := match t with
    | some x => -160 ≤ x && x ≤ 1120
    | none => false
  let s := s.rowState (rowInlet i) (if ok then 1 else 5) (if ok then 0 else 0x26)
  s.modThm fun x =>
    if i = 0 then { x with inlet0 := t.getD x.inlet0, inlet0Bad := !ok }
    else { x with inlet1 := t.getD x.inlet1, inlet1Bad := !ok }

/-- A stack's reading: the first of a frame is that of R260; whole degrees, rounded down (log entry 134). -/
def State.stackReading (s : State) (h : Nat) (t : Int) : State :=
  if (s.getStack h).tempRead then s
  else s.modStack h fun x => x.reading (sat 255 (t / 16).toNat) s.frame16

/-- One sample is taken in. -/
def State.takeSample (s : State) (x : Sample) : State :=
  if x.sensor < 443 then (s.samplePair x.sensor x.diode x.ring).baseReading x.sensor
  else if x.sensor < 491 then
    match validTemp x.diode with
    | some t => (s.sampleSingle x.sensor t).stackReading (x.sensor - 443) t
    | none => s
  else if x.sensor < 493 then s
  else if x.sensor < 495 then s.inletReading (x.sensor - 493) x.diode
  else s

/-- Stale stacks are held to the reading of their reservoir dies plus 5 °C (R372); no slope is taken from it. -/
def State.staleStacks (s : State) : State :=
  s.each ((List.range 48).filter fun h => (s.getStack h).tempStale) fun s h =>
    let n := 443 + h
    s.setPair n { (s.pair n).take n ((s.pair (384 + h)).temp + 80) with recent := [] }

/-- A Host Site's report takes part while it is younger than 10 ms, 100 samples; an older one is in no rule, and the row shows it
(R371). -/
def State.siteSample (s : State) (g : Nat) : State :=
  let x := s.getSite g
  if x.state = 5 || 100 < x.junctionAge then s
  else if x.junctionAge = 100 then
    ((s.setSite g { x with junctionAge := 101 }).setPair (491 + g) {}).rowState (rowSite g) (s.row (rowSite g)).state 0x26
  else (s.setSite g { x with junctionAge := x.junctionAge + 1 }).sampleSingle (491 + g) x.junction

/-- R371, R372, R382: every 100 µs the sensors are sampled. Trips fault their cells and, like a steep rise at 8 sensors,
enter the hold. -/
def execSensorSample (samples : List Sample) (s : State) : Out :=
  let was := s.atTrip
  let s := samples.foldl State.takeSample s
  let s := (s.staleStacks.siteSample 0).siteSample 1
  let tripped := s.atTrip.filter fun n => !was.contains n
  let steep := (s.thm.pairs.filter fun e => e.2.state ≠ 2 && slopeAbove e.2.recent 32).length
  let s := (s.thermalFaults tripped).refreshWarning
  .next (if tripped ≠ [] then s.enterHold 2 else if 8 ≤ steep then s.enterHold 1 else s)

/-- R305, R371: a Host Site reports its hottest sensor. -/
def execJunctionReport (site : Nat) (temp : Int) (s : State) : Out :=
  unit (site < 2) "Host Site" <|
  let r := rowSite site
  let s := if (s.row r).reason = 0x26 then s.rowState r (s.row r).state 0 else s
  .next (s.modSite site fun g => { g with junction := temp, junctionAge := 0 })

/-- R378, R380: a fan-fail input changes. -/
def execFanfailChange (fan : Nat) (asserted : Bool) (s : State) : Out :=
  unit (fan < 2) "fan input" <|
  let s := s.modThm fun t => if fan = 0 then { t with fan0 := asserted } else { t with fan1 := asserted }
  .next ((s.rowState (rowFan fan) (if asserted then 5 else 1) 0).refreshWarning)

/-- R378: both inputs asserted for 1 s. -/
def execFanfailHoldTimer (s : State) : Out :=
  due s (s.thm.fan0 && s.thm.fan1) <| .next (s.enterHold 3) -- both fan-fail inputs are asserted

/-- R378: the inlet above 45 °C for 10 s. -/
def execInletHoldTimer (s : State) : Out :=
  due s (720 < s.thm.inlet) <| .next (s.enterHold 4) -- the inlet is above 45 °C

/-! ### Thermal resistance (R379 to R381, R386) -/

/-- The bin of a range in 1/16 °C (R386). -/
def cycleBin (x : Int) : Option Nat :=
  if x < 160 then none else if x < 320 then some 0 else if x < 480 then some 1 else if x < 720 then some 2
  else if x < 960 then some 3 else some 4

/-- Half-cycles are counted. -/
def addCycles (c : Tab W32) (x : Int) (n : Nat) : Tab W32 :=
  match cycleBin x with
  | some b => tset c b (tget c b 0 + BitVec.ofNat 32 n) 0
  | none => c

/-- Rainflow counting on the turning points, newest first (PRESUMED, log entry 45: the common three-point method). -/
def rainflow : Nat → List Int → Tab W32 → List Int × Tab W32
  | 0, l, c => (l, c)
  | k + 1, l, c =>
    match l with
    | a :: b :: d :: r =>
      let x : Int := (a - b).natAbs
      let y : Int := (b - d).natAbs
      if x < y then (l, c)
      else if r = [] then rainflow k [a, b] (addCycles c y 1)
      else rainflow k (a :: r) (addCycles c y 2)
    | _ => (l, c)

/-- A reading is a turning point, or moves the last one. -/
def turning (l : List Int) (t : Int) : List Int :=
  match l with
  | a :: b :: r => if (b ≤ a && a ≤ t) || (t ≤ a && a ≤ b) then t :: b :: r else t :: l
  | [a] => if a = t then l else [t, a]
  | [] => [t]

/-- The slope of the last 14 daily means exceeds 1 % of the baseline per day (R380). -/
def dailySteep (l : List Nat) (base : Nat) : Bool :=
  let d (i : Nat) : Int := 13 - 2 * (i : Int)
  let num := ((List.range 14).zip l).foldl (fun a e => a + d e.1 * (e.2 : Int)) 0
  let den := (List.range 14).foldl (fun a i => a + d i * d i) 0
  l.length = 14 && (base : Int) * den < 200 * num

/-- A tile's second: R_t in mK/W, its means and its rainflow count. -/
def Tile.second (x : Tile) (inlet : Int) : Tile :=
  if x.tN = 0 then x else
  let t := x.tSum / x.tN
  let p := x.pW + x.pE
  let f := rainflow 64 (turning x.residue t) x.cyc
  let x := { x with tSum := 0, tN := 0, residue := f.1, cyc := f.2, tmax := max x.tmax t }
  if p < 100 then x else
  let r := ((t - inlet) * 1000 / (16 * (p : Int))).toNat
  let w := (r :: x.window).take 600
  let learned := min 86400 (x.learned + 1)
  let sum := if x.learned < 86400 then x.baseSum + r else x.baseSum
  { x with
    window := w
    rth := if w.length = 600 then sat 0xFFFF (w.foldl (· + ·) 0 / 600) else x.rth
    learned := learned
    baseSum := sum
    base := if learned = 86400 then sat 0xFFFF (sum / 86400) else 0
    daySum := x.daySum + r
    dayN := x.dayN + 1 }

/-- R379, R380, R386: each second. The bus powers are measured, so free (log entry 48). -/
def execThermalResistanceTick (s : State) : Out :=
  let s := s.each (List.range 24) fun s t =>
    let a := s.choose 112 512
    let b := a.2.choose 112 512
    b.2.modTile t fun x => { x with pW := a.1, pE := b.1 }
  let inlet := s.thm.inlet
  let s := s.each (List.range 24) fun s t => s.modTile t fun x => x.second inlet
  let n := s.thm.seconds + 1
  let s := if n % 86400 ≠ 0 then s else s.each (List.range 24) fun s t => s.modTile t fun x =>
    if x.dayN = 0 then x else { x with daily := (x.daySum / x.dayN :: x.daily).take 14, daySum := 0, dayN := 0 }
  let bad := (List.range 24).any fun t =>
    let x := s.getTile t
    x.base ≠ 0 && ((115 * x.base < 100 * x.rth && x.window.length = 600) || dailySteep x.daily x.base)
  let s := s.modThm fun h =>
    let c := if bad then 0 else h.rthClear + 1
    { h with seconds := n, rthClear := c, rthWarn := bad || (h.rthWarn && c < 86400) }
  .next s.refreshWarning

/-- R386: every hour. -/
def execThermalFlashWrite (s : State) : Out := .next s.flashThermal

/-! ### The Stop Bath's and the Shutter's part (R373, R374, R376, R381) -/

/-- The sensors that act on a tile. -/
def sensorsOf (t : Nat) : List Nat := (List.range 493).filter fun n => (sensorTiles n).contains t

/-- The pair's reading is the highest of those that set its cell's cap and limit (R374): a quadrant's are its own Base pair and the
other sensors that act on its tile. -/
def State.highest (s : State) (n : Nat) : Bool :=
  (sensorTiles n).all fun t => (sensorsOf t).all fun m =>
    (n < 384 && isBase m && m / 4 ≠ n / 4) || decide ((s.pair m).temp ≤ (s.pair n).temp)

/-- THM_PAIR_n (R388). -/
def Pair.word (p : Pair) : W32 :=
  Machine.word [(p.state, 30, 2), (b2n p.trip, 29, 1), (b2n p.overT, 28, 1), (ofSigned 12 p.diff, 16, 12),
    (ofSigned 16 p.temp, 0, 16)]

/-- R373: a pair is judged at the Stop Bath. -/
def State.judgePair (s : State) (n : Nat) : State :=
  let p := s.pair n
  let dis : Bool := if p.samples = 0 then p.verdict else decide (p.samples < 2 * p.disagree)
  let bad := if p.samples = 0 then p.invalidRun ≠ 0 else p.oneBad
  let q := { p with samples := 0, disagree := 0, oneBad := false, bothBad := false, verdict := dis }
  if p.state = 0 then
    if dis || bad then
      let q := { q with state := 1, agreeRun := 0, disagreeRun := b2n dis, invalidRun := b2n bad }
      let s := ((s.setPair n q).countPmc 0x0410 1).rowState (rowPair n) 2 (if bad then 0x26 else 0x25)
      if s.highest n then s.thermalFaults [n] else s
    else s.setPair n { q with offsets := ((q.temp - Config.estimate n (s.candidates n)) :: q.offsets).take 1000 }
  else if p.state = 1 then
    let q := { q with
      invalidRun := if bad then p.invalidRun + 1 else 0
      disagreeRun := if dis then p.disagreeRun + 1 else 0
      agreeRun := if dis || bad then 0 else p.agreeRun + 1 }
    if 1000 ≤ q.invalidRun || 1000 ≤ q.disagreeRun then
      ((s.setPair n { q with state := 2 }).countPmc 0x0414 1).rowState (rowPair n) 8 (if bad then 0x26 else 0x25)
    else if 100 ≤ q.agreeRun then (s.setPair n { q with state := 0 }).rowState (rowPair n) 1 0
    else s.setPair n q
  else s.setPair n q

/-- R376: the cap that a Base reading gives. -/
def capOf (t : Int) : Nat := if t ≤ 1520 then 16 else if t < 1680 then 16 - cdiv ((t - 1520).toNat * 8) 160 else 8

/-- R376, R375: the quadrant's T of the frame; with an ESTIMATED pair and no HEALTHY candidate the cap is 8. -/
def State.judgeCap (s : State) (q : Nat) : State :=
  let x := s.getQuad q
  let blind := (upTo (4 * q) 4).any fun n => (s.pair n).state = 2 && (s.candidates n).isEmpty
  let t := x.baseMax.getD x.tbase
  let up := if blind then 8 else capOf (t + 32)
  let s := s.setQuad q { x with
    tbase := t
    blind := blind
    baseMax := none
    capFrames := if x.cap < up then x.capFrames + 1 else 0
    capRise := if x.capFrames = 0 then up else min x.capRise up }
  if x.cap < 16 then s.countPmc 0x041C 1 else s

/-- R372, R381: the thermal response's limit moves, or a DECISION event names the move. -/
def State.judgeLimit (s : State) (q : Nat) : State :=
  let x := s.getQuad q
  let acting := (sensorsOf (q / 4)).filter fun n => !isBase n
  let warn := s.thm.inputWarn || s.thm.rthWarn
  let hotB := acting.any fun n => (s.pair n).overT
  let coolB := acting.all fun n => (s.pair n).temp + 80 ≤ (sensorLimits n).1
  let fall := (warn && 1440 < x.tbase) || hotB
  let rise := (!warn || x.tbase < 1360) && coolB && !fall
  let a := if fall then x.tlFrames + 1 else 0
  let b := if rise && x.tlimit < 16 then x.thFrames + 1 else 0
  let low := s.nextRatio q false x.tlimit
  let high := s.nextRatio q true x.tlimit
  let s := (s.setQuad q { x with tlFrames := if 100 ≤ a then 0 else a, thFrames := if 1000 ≤ b then 0 else b }).settled 3 (.quad q)
    fun act => (fall && act = low) || (rise && act = high)
  if 100 ≤ a && low < x.tlimit then
    (if s.manual 3 then s.decision 3 (.quad q) low else s.modQuad q fun y => { y with tlimit := low })
  else if 1000 ≤ b && x.tlimit < high then
    (if s.manual 3 then s.decision 3 (.quad q) high else s.modQuad q fun y => { y with tlimit := high })
  else s

/-- The Stop Bath's thermal work. -/
def State.thermalBath (s : State) : State :=
  let s := s.each (List.range 443) fun s n => (s.judgePair n).rowData (rowPair n) (s.pair n).word
  let s := s.each (List.range 96) State.judgeCap
  s.each (List.range 96) State.judgeLimit

/-- The caps of a Shutter (R376), and the reason of the quadrant's cells while its cap is below 16. A cell with another reason keeps it:
DESIGN CHOICE, log entry 130. -/
def State.capShutter (s : State) (q : Nat) : State :=
  let x := s.getQuad q
  let c := if x.blind then 8 else capOf x.tbase
  let n := if c < x.cap then c else if 100 ≤ x.capFrames then x.capRise else x.cap
  let s := s.setQuad q { x with cap := n, capFrames := if n = x.cap then x.capFrames else 0 }
  if n < 16 then
    s.each (quadCores q) fun s k => if (s.getCore k).ccb.reason = whyNone then s.setReason k whyThermalCap else s
  else if x.cap < 16 then s.quadClear q whyThermalCap
  else s

end Sys2Proof.Machine
end

