-- ==== Sys2Proof/Machine/Vilsal.lean ====
section
/-! DEFINITION. The doorbell page and the mailboxes (R311 to R315), what every Vilsal command shares, and the commands of
R316 that query the panel or set up rings, frames, cells, classes and policies. -/

namespace Sys2Proof.Machine

/-! ### Statuses (R63, R319) -/

def eFrameRange : Nat := 0x0201
def eFramePlate : Nat := 0x0202
def eFrameTooSoon : Nat := 0x0203
def eFrameHall : Nat := 0x0204
def eMboxOpcode : Nat := 0x0C01
def eMboxLen : Nat := 0x0C02
def eNotReady : Nat := 0x0C03
def eRingGeom : Nat := 0x0C04
def eRingBusy : Nat := 0x0C05
def eCellOverlap : Nat := 0x0C06
def eCellBusy : Nat := 0x0C07
def eClassCap : Nat := 0x0C08
def eHallMember : Nat := 0x0C09
def ePolicyAuto : Nat := 0x0C0D
def eTarget : Nat := 0x0C0E
def eCmdTooSoon : Nat := 0x0C0F

/-! ### Mailboxes (R312 to R314) -/

/-- OWNER's values (R312). -/
def ownRunning : Nat := 1
def ownDone : Nat := 2

def Site.box (g : Site) (mb : Nat) : Mailbox := tget g.mbox mb {}
def Mailbox.word (m : Mailbox) (i : Nat) : W32 := tget m.words i 0
def Mailbox.put (m : Mailbox) (i : Nat) (w : W32) : Mailbox := { m with words := tset m.words i w 0 }
def State.modBox (s : State) (site mb : Nat) (f : Mailbox → Mailbox) : State :=
  s.modSite site fun g => { g with mbox := tset g.mbox mb (f (g.box mb)) {} }

/-- A command as its mailbox holds it. -/
structure Cmd where
  site : Nat
  mb : Nat
  op : Nat
  argLen : Nat
  head : List Nat
  args : List Nat
  deriving DecidableEq, Repr

/-- Argument word `i`, and the 64-bit value of words `i` and `i + 1`. -/
def Cmd.w (c : Cmd) (i : Nat) : Nat := c.args.getD i 0
def Cmd.w64 (c : Cmd) (i : Nat) : Nat := c.w i + 2 ^ 32 * c.w (i + 1)
/-- A target frame (R315). -/
def Cmd.frame (c : Cmd) (i : Nat) : W64 := BitVec.ofNat 64 (c.w64 i)

def State.cmdAt (s : State) (site mb : Nat) : Cmd :=
  let m := (s.getSite site).box mb
  { site := site
    mb := mb
    op := bits (m.word 0).toNat 16 16
    argLen := bits (m.word 2).toNat 0 13
    head := (List.range 16).map fun i => (m.word i).toNat
    args := (List.range (min 1008 (cdiv (bits (m.word 2).toNat 0 13) 4))).map fun i => (m.word (16 + i)).toNat }

/-- The opcodes of R316. -/
def opcodes : List Nat :=
  [0x01, 0x02, 0x03, 0x04, 0x05, 0x10, 0x11, 0x12, 0x13, 0x14, 0x15, 0x20, 0x21, 0x22, 0x23, 0x24, 0x25, 0x30, 0x31,
    0x32, 0x33, 0x34, 0x35, 0x40, 0x41, 0x42, 0x43, 0x44, 0x45, 0x46, 0x50, 0x51, 0x52, 0x53]

/-- ACCEPT_FRAME: the PMC accepts or refuses the command in this frame (R312). -/
def State.stamp (s : State) (c : Cmd) : State :=
  s.modBox c.site c.mb fun m => (m.put 6 s.frame32).put 7 ((s.pmc.frame >>> 32).setWidth 32)

/-- R311, R313: the result, RES_LEN, STATUS, DETAIL, then OWNER; the command leaves the PMC's queue. -/
def State.close (s : State) (c : Cmd) (st : Nat) (res : List W32) (detail : Nat) : State :=
  let s := s.modBox c.site c.mb fun m =>
    let m := ((List.range res.length).zip res).foldl (fun (m : Mailbox) (e : Nat × W32) => m.put (16 + e.1) e.2) m
    let m := ((m.put 3 (word [(4 * res.length, 0, 13)])).put 4 (word [(st, 0, 16)])).put 5 (BitVec.ofNat 32 detail)
    { m with owner := ownDone }
  let s := s.modPmc fun p => { p with cmds := p.cmds.erase (c.site, c.mb) }
  (s.modSite c.site fun g => { g with msix := g.msix ++ [0] }).answer (BitVec.ofNat 16 st) res

/-- Commands with an unknown OPCODE end where they reach the head of the queue (R313). -/
def State.skipUnknown (s : State) : Nat → State
  | 0 => s
  | k + 1 =>
    match s.pmc.cmds with
    | [] => s
    | e :: _ =>
      let c := s.cmdAt e.1 e.2
      if opcodes.contains c.op || s.pmc.restarting then s
      else (((s.stamp c).close c eMboxOpcode [] 0)).skipUnknown k

/-- A command ends with a status and a result. -/
def State.finish (s : State) (c : Cmd) (st : Nat) (res : List W32 := []) (detail : Nat := 0) : State :=
  ((s.stamp c).close c st res detail).skipUnknown 32

/-- The site's state allows the command (R309). -/
def State.allows (s : State) (c : Cmd) : Bool :=
  match (s.getSite c.site).state with
  | 1 => [0x01, 0x04, 0x51, 0x30, 0x24].contains c.op
  | 2 => true
  | 3 => true
  | _ => false

/-- Reserved header fields are zero (R9, R312). -/
def Cmd.headOk (c : Cmd) : Bool :=
  let h (i : Nat) : Nat := c.head.getD i 0
  bits (h 0) 8 8 = 0 && bits (h 2) 13 19 = 0 && bits (h 3) 13 19 = 0 && bits (h 4) 16 16 = 0 &&
    (upTo 8 8).all fun i => h i = 0

/-- Bits of the argument words that R316 does not define are reserved (log entry 54). -/
def Cmd.argsOk (c : Cmd) (masks : List Nat) : Bool :=
  ((List.range masks.length).zip masks).all fun e => (c.w e.1) &&& e.2 = c.w e.1

def fullWord : Nat := 0xFFFFFFFF

/-- The command at the head of the PMC's queue, where its OPCODE is `op` and its arguments are this command's: length,
state and reserved fields are checked (R309, R312, R313, R9), then `k` runs. -/
def State.vilsal (s : State) (op : Nat) (mine : Cmd → Bool) (len : Cmd → Nat) (masks : List Nat)
    (k : Cmd → State → State) : Out :=
  match s.pmc.cmds with
  | [] => .next s -- nothing, unless a command heads the queue
  | e :: _ =>
    let c := s.cmdAt e.1 e.2
    due s (c.op = op && mine c && !s.pmc.restarting && s.pmc.copy.isNone) <|
    if c.argLen ≠ len c then .next (s.finish c eMboxLen)
    else if !s.allows c then .next (s.finish c eNotReady)
    else if !c.headOk || !c.argsOk masks then .next (s.finish c eReserved)
    else .next (k c s)

/-- A command of fixed length without variants. -/
def State.command (s : State) (op : Nat) (masks : List Nat) (k : Cmd → State → State) : Out :=
  s.vilsal op (fun _ => true) (fun _ => 4 * masks.length) masks k

/-- Changes accepted for a target frame (R314). -/
def State.override (s : State) (l : List Override) (f : W64) : State :=
  s.modPmc fun p => { p with overrides := p.overrides ++ l.map fun o => (o, f) }

/-- A target frame is earlier than the current frame + 2 (R315). -/
def State.tooSoon (s : State) (f : W64) : Bool := f.toNat < s.pmc.frame.toNat + 2

/-- A range of the issuing site's window at a multiple of 4,096 (R315). -/
def State.winOk (s : State) (c : Cmd) (off len : Nat) : Bool := off % 4096 = 0 && off + len ≤ s.winSize c.site

/-! ### The doorbell page (R311) -/

def Site.dropDoorbell (g : Site) : Site := { g with dropDb := sat 0x7FF (g.dropDb + 1) }

/-- The site's BARs take writes (R309, R310). -/
def Site.open (g : Site) : Bool := 1 ≤ g.state && g.state ≤ 3
/-- The site is there. What reaches a site that is DOWN is discarded and counted; a site that is OFF or ABSENT has nothing (R309, R311: log
entry 137). -/
def Site.linked (g : Site) : Bool := 1 ≤ g.state && g.state ≤ 4

/-- MB_DB_m is written (R311, R313): the mailbox goes to the PMC, and OWNER is RUNNING. -/
def State.ringMailbox (s : State) (site mb : Nat) : State :=
  let g := s.getSite site
  if !g.linked then s
  else if !g.open || (g.box mb).owner = ownRunning then (s.modSite site Site.dropDoorbell).answer 0
  else
    let s := s.modBox site mb fun m => { m with owner := ownRunning }
    ((s.modPmc fun p => { p with cmds := p.cmds ++ [(site, mb)] }).answer 0).skipUnknown 32

/-- A new tail of the Admission Ring (R311, R321). It is discarded without RING_SETUP, outside the ring, or where the ring would
hold more than SIZE − 1 entries. -/
def State.newTail (s : State) (site : Nat) (value : W32) : State :=
  let g := s.getSite site
  let n := 2 ^ g.aLog
  let t := bits value.toNat 0 16
  let held := (g.aTail + n - g.aHead) % n + (t + n - g.aTail) % n
  if !g.linked then s
  else if !g.open || !g.ringsSet || n ≤ t || n - 1 < held then (s.modSite site Site.dropDoorbell).answer 0
  else ((s.setSite site { g with aTail := t }).modPmc fun p => { p with posted := p.posted ++ [(site, t)] }).answer 0

/-- The host has read the Completion Ring up to a new head (R311). Held answers follow where room has come (R323). -/
def State.newHead (s : State) (site : Nat) (value : W32) : State :=
  let g := s.getSite site
  let n := g.cSize
  let h := bits value.toNat 0 16
  if !g.linked then s
  else if !g.open || !g.ringsSet || n ≤ h || g.cUsed < (h + n - g.cHead) % n then
    (s.modSite site Site.dropDoorbell).answer 0
  else
    let s := s.setSite site { g with cHead := h }
    (s.flushHeld site g.held.length).answer 0

/-- R311, R313. -/
def execMailboxDoorbell (site : Nat) (mb : Nat) (s : State) : Out :=
  unit (site < 2 && mb < 16) "mailbox" <| .next (s.ringMailbox site mb)

/-- R311, R321. -/
def execAringTailWrite (site : Nat) (value : W32) (s : State) : Out :=
  unit (site < 2) "Host Site" <| .next (s.newTail site value)

/-- R311, R323. -/
def execCringHeadWrite (site : Nat) (value : W32) (s : State) : Out :=
  unit (site < 2) "Host Site" <| .next (s.newHead site value)

/-! ### What holds at a later frame (R314) -/

/-- The last of pending changes that is in force at frame `t`; of one frame the last accepted. -/
def atFrame {α : Type} (now : α) (l : List (α × W64)) (t : W64) : α :=
  (l.foldl (fun (a : α × W64) (e : α × W64) => if e.2 ≤ t && a.2 ≤ e.2 then e else a) (now, 0)).1

/-- The quadrants of a work cell at a frame. -/
def Work.quadsAt (x : Work) (t : W64) : List Nat := atFrame x.quads x.config t

/-- The binding of a work cell at a frame: bound, accepted for it, or none. -/
def Work.boundAt (x : Work) (t : W64) : Option Binding :=
  let kept : Option Binding := match x.unbindAt with
    | some u => if u ≤ t then none else x.bound
    | none => x.bound
  match x.next with
  | some b => if b.frame ≤ t then some b else kept
  | none => kept

/-- A class's QUOTA and DEPTH at a frame. -/
def Cls.quotaAt (k : Cls) (t : W64) : Nat :=
  (atFrame (k.quota, k.depth) (k.next.map fun e => ((e.1, e.2.1), e.2.2)) t).1

/-- The sum of a work cell's QUOTA values at a frame. -/
def Work.quotasAt (x : Work) (t : W64) : Nat := (x.cls.map fun e => e.2.quotaAt t).foldl (· + ·) 0

/-- The plates bound or accepted: quadrants, placement, image. -/
def State.plates (s : State) : List (List Nat × List Nat × List Byte) :=
  s.pmc.work.flatMap fun e =>
    (e.2.bound.toList.map fun b => (e.2.quads, b.place, s.plate b.slot)) ++
      e.2.next.toList.map fun b => (e.2.quadsAt b.frame, b.place, s.plate b.slot)

/-- The ranges that REGIONs of bound or accepted plates write: base and length (R227). -/
def State.writerRegions (s : State) : List (Nat × Nat) :=
  s.plates.flatMap fun e => ((regions e.2.2).filter fun r => r.2.2.1).map fun r =>
    (refBase e.1 e.2.1 r.1 + r.2.2.2.1, r.2.2.2.2)

/-- Two ranges share a byte. -/
def overlap (a n b m : Nat) : Bool := a < b + m && b < a + n && n ≠ 0 && m ≠ 0

/-- A publish entry is active: its lease has not ended (R297). -/
def State.pubActive (s : State) (p : Pub) : Bool := s.hallFrame ≤ p.stop

/-! ### Queries and rings -/

/-- R316: GET_INFO. -/
def execGetInfo (s : State) : Out :=
  s.command 0x01 [] fun c s =>
    let f := s.pmc.frame
    s.finish c 0 [word [(s.sec.grade, 30, 2), (b2n s.sec.f32, 29, 1), (b2n s.sec.h2, 28, 1), (s.exposedIn .panel, 0, 16)],
      word [(s.panelId, 0, 12)], f.setWidth 32, (f >>> 32).setWidth 32, s.sec.version,
      word [((s.getSite 0).state, 0, 4), ((s.getSite 1).state, 4, 4)]]

/-- R316, R320: RING_SETUP. -/
def execRingSetup (s : State) : Out :=
  s.command 0x02 [fullWord, fullWord, 0x1F, fullWord, fullWord, 0x1F] fun c s =>
    let a := c.w64 0
    let al := c.w 2
    let b := c.w64 3
    let bl := c.w 5
    let geom := 6 ≤ al && al ≤ 15 && 7 ≤ bl && bl ≤ 16 && al + 1 ≤ bl && s.winOk c a (64 * 2 ^ al) &&
      s.winOk c b (64 * 2 ^ bl) && !overlap a (64 * 2 ^ al) b (64 * 2 ^ bl)
    let g := s.getSite c.site
    if !geom then s.finish c eRingGeom
    else if !(s.siteReqs c.site).isEmpty || !g.held.isEmpty || g.aHead ≠ g.aTail then s.finish c eRingBusy
    else ((s.setSite c.site { g with
      ringsSet := true, aOff := a, aLog := al, cOff := b, cLog := bl
      aHead := 0, aTail := 0, cTail := 0, cHead := 0, cPhase := true }).modPmc fun p => { p with
        posted := p.posted.filter fun e => e.1 ≠ c.site }).finish c 0

/-- R316: EVENT_MASK. -/
def execEventMask (s : State) : Out :=
  s.command 0x03 [fullWord] fun c s =>
    (s.modPmc fun p => { p with mask := BitVec.ofNat 32 (c.w 0) }).finish c 0 [s.pmc.mask]

/-- A Contact Sheet row's four words as the last Stop Bath left it (R392, R395). -/
def State.rowWords (s : State) (r : Nat) : List W32 :=
  let v : Row := if s.rowFitted r then tget s.hlt.sheet r {} else { state := 0 }
  [word [(v.state, 28, 4), (v.reason, 16, 8), (r, 0, 16)], v.changed, v.data, word [(v.changes, 16, 16), (v.attempts, 0, 16)]]

/-- R316, R392: CONTACT_READ, up to 252 rows. -/
def execContactRead (s : State) : Out :=
  s.command 0x04 [fullWord, fullWord] fun c s =>
    if 8506 < c.w 0 + c.w 1 || 8506 ≤ c.w 0 then s.finish c eTarget
    else s.finish c 0 ((upTo (c.w 0) (min 252 (c.w 1))).flatMap s.rowWords)

/-- A SPARSE record and the statistics entry of its core, 12 words (R158, R236; the two last words: log entry 55). -/
def State.statRecord (s : State) (img : List Byte) (place : List Nat) (r : Nat) : List W32 :=
  let w0 := plRec img 0x0B 8 r 0
  let w1 := plRec img 0x0B 8 r 1
  let k := s.getCore (place.getD (bits w0 16 16) 0)
  [BitVec.ofNat 32 w0, BitVec.ofNat 32 w1] ++ (upTo (8 * bits w1 0 7) 8).map (fun i => tget k.str.stats i 0) ++ [0, 0]

/-- R316: STATS_READ. -/
def execStatsRead (s : State) : Out :=
  s.command 0x05 [fullWord, fullWord, fullWord] fun c s =>
    if 96 ≤ c.w 0 then s.finish c eTarget
    else if !s.configured (.work (c.w 0)) then s.finish c eNoCell
    else match (s.getWork (c.w 0)).bound with
    | none => s.finish c eTarget -- no plate is bound: no SPARSE record exists
    | some b =>
      let img := s.plate b.slot
      if 84 < c.w 2 || plCount img 0x0B 8 < c.w 1 + c.w 2 then s.finish c eTarget
      else s.finish c 0 ((upTo (c.w 1) (c.w 2)).flatMap (s.statRecord img b.place))

/-! ### Frames, cells, classes -/

/-- R45: T, S and A within their ranges, S ≤ T/4 and A ≤ T/8. -/
def frameRangeOk (t x a : Nat) : Bool :=
  50 ≤ t && t ≤ 20000 && 4 ≤ x && x ≤ 255 && a ≤ 255 && 4 * x ≤ t && 8 * a ≤ t

/-- R63: FRAME_CONFIG of the panel or of its hall cell. For a hall cell F counts hall frames (R62); PMC_FRM_APPLY shows the panel's own
frame number: DESIGN CHOICE, log entry 124. -/
def execFrameConfig (s : State) : Out :=
  s.command 0x10 [fullWord, 0xFFFF7FFF, fullWord, fullWord] fun c s =>
    let t := bits (c.w 1) 0 15
    let x := bits (c.w 1) 16 8
    let a := bits (c.w 1) 24 8
    let id := BitVec.ofNat 32 (c.w 0)
    let hall := bits (c.w 0) 28 4 = 6
    let f := if hall then c.frame 2 - s.fab.fofs else c.frame 2
    if id ≠ s.ccbId .panel && !hall then s.finish c eTarget
    else if hall && !(s.fab.hallIndex.isSome && id = s.ccbId .hall) then s.finish c eNoCell
    else if t = 0 || x = 0 then s.finish c eZero
    else if !frameRangeOk t x a then s.finish c eFrameRange
    else if !hall && s.fab.hallIndex.isSome then s.finish c eFrameHall
    else if s.tooSoon f || s.pmc.next.isSome then s.finish c eFrameTooSoon
    else if s.pmc.work.any (fun e =>
        (e.2.boundAt f).any fun b => plT (s.plate b.slot) ≠ t || plS (s.plate b.slot) ≠ x) then s.finish c eFramePlate
    else ((s.modPmc fun p => { p with next := some (t, x, a, f) }).override [.params] f).finish c 0

/-- A mask of quadrants in three words. -/
def maskQuads (c : Cmd) (i : Nat) : List Nat := (List.range 96).filter fun q => bitOf (c.w (i + q / 32)) (q % 32)

/-- R316, R21: CELL_CONFIG. No other work cell holds a named quadrant at F or at a later change. -/
def execCellConfig (s : State) : Out :=
  s.command 0x11 [0x7F, fullWord, fullWord, fullWord, fullWord, fullWord] fun c s =>
    let w := c.w 0
    let f := c.frame 4
    let qs := maskQuads c 1
    let x := s.getWork w
    let new := { x with config := x.config ++ [(qs, f)] }
    let times := f :: ((s.pmc.work.flatMap fun e => e.2.config.map (·.2)).filter fun t => f < t)
    if 96 ≤ w then s.finish c eTarget
    else if s.tooSoon f then s.finish c eCmdTooSoon
    else if times.any (fun t => s.pmc.work.any fun e =>
        e.1 ≠ w && (e.2.quadsAt t).any fun q => (new.quadsAt t).contains q) then s.finish c eCellOverlap
    else if (x.boundAt f).isSome || x.next.any (fun b => f ≤ b.frame) then s.finish c eCellBusy
    else ((s.setWork w new).override [.cell w] f).finish c 0

/-- R316, R324: CLASS_SET. -/
def execClassSet (s : State) : Out :=
  s.command 0x12 [0x77F, fullWord, 0x7FF, fullWord, fullWord] fun c s =>
    let w := bits (c.w 0) 0 7
    let k := bits (c.w 0) 8 3
    let f := c.frame 3
    let x := s.getWork w
    let y := x.getCls k
    let new := { x with cls := tset x.cls k { y with next := y.next ++ [(c.w 1, c.w 2, f)] } {} }
    let times := f :: ((x.cls.flatMap fun e => e.2.next.map (·.2.2)) ++ x.next.toList.map (·.frame)).filter fun t => f < t
    if 96 ≤ w || 1024 < c.w 2 then s.finish c eTarget
    else if (x.quadsAt f).isEmpty then s.finish c eNoCell
    else if s.tooSoon f then s.finish c eCmdTooSoon
    else if times.any (fun t => match x.boundAt t with
        | some b => decide (costCap (s.plate b.slot) < new.quotasAt t)
        | none => false) then s.finish c eClassCap
    else ((s.setWork w new).override [.cell w] f).finish c 0

/-- R316: CLASS_GET. -/
def execClassGet (s : State) : Out :=
  s.command 0x13 [fullWord] fun c s =>
    let w := c.w 0
    if 96 ≤ w then s.finish c eTarget
    else if !s.configured (.work w) then s.finish c eNoCell
    else s.finish c 0 ((List.range 8).flatMap fun k =>
      let y := (s.getWork w).getCls k
      [BitVec.ofNat 32 y.quota, BitVec.ofNat 32 (s.quotaIn w k), BitVec.ofNat 32 y.depth, BitVec.ofNat 32 y.queue.length])

/-! ### Policies and limits -/

/-- R316, R317: POLICY_SET. Where the four policies that set RATIO become MANUAL, each quadrant keeps its RATIO (R359). -/
def execPolicySet (s : State) : Out :=
  s.command 0x40 [0x10F] fun c s =>
    let p := bits (c.w 0) 0 4
    let man := bitOf (c.w 0) 8
    if 6 ≤ p then s.finish c eTarget
    else
      let old := word [(b2n (s.manual p), 8, 1), (p, 0, 4)]
      let was := s.allManual
      let s := s.modPmc fun m => { m with
        manual := if man then nadd m.manual p else ndel m.manual p
        asked := m.asked.filter fun e => e.1 ≠ p }
      let s := if !was && s.allManual then s.each (List.range 96) fun s q => s.modQuad q fun x =>
          { x with manualRatio := x.ratio } else s
      s.finish c 0 [old]

/-- R316, R359: CLOCK_SET. -/
def execClockSet (s : State) : Out :=
  s.command 0x44 [0x1F7F, fullWord, fullWord] fun c s =>
    let q := bits (c.w 0) 0 7
    let r := bits (c.w 0) 8 5
    let f := c.frame 1
    let listed : Bool := match (s.workOfQuad q).bind fun w => (s.getWork w).boundAt f with
      | some b => (upTo 1 (plNvar (s.plate b.slot))).any fun v => varRatio (s.plate b.slot) v = r
      | none => true
    if 96 ≤ q || r < 8 || 16 < r then s.finish c eTarget
    else if !s.allManual then s.finish c ePolicyAuto
    else if s.tooSoon f then s.finish c eCmdTooSoon
    else if !listed then s.finish c eTarget
    else (s.override ((s.ratioQuads q).map fun y => .clock y r) f).finish c 0

/-- R316: MARGIN_SET. -/
def execMarginSet (s : State) : Out :=
  s.command 0x45 [0x7F, fullWord, fullWord, fullWord] fun c s =>
    let q := c.w 0
    let mv := toSigned 32 (c.w 1)
    let f := c.frame 2
    if 96 ≤ q || mv < -50 || 50 < mv then s.finish c eTarget
    else if !s.manual 2 then s.finish c ePolicyAuto
    else if s.tooSoon f then s.finish c eCmdTooSoon
    else (s.override [.margin q mv true] f).finish c 0

/-- R316, R343: POWER_LIMIT. -/
def execPowerLimit (s : State) : Out :=
  s.command 0x46 [fullWord] fun c s =>
    if c.w 0 < 1000 || 10800 < c.w 0 then s.finish c eTarget
    else (s.modPwr fun p => { p with limit := c.w 0 }).finish c 0 [BitVec.ofNat 32 s.pwr.limit]

/-- R316, R466: JOB_TAG. -/
def execJobTag (s : State) : Out :=
  s.command 0x53 [fullWord, fullWord, fullWord, fullWord] fun c s =>
    let w := c.w 0
    let f := c.frame 2
    if 96 ≤ w then s.finish c eTarget
    else if ((s.getWork w).quadsAt f).isEmpty then s.finish c eNoCell
    else if s.tooSoon f then s.finish c eCmdTooSoon
    else ((s.modWork w fun x => { x with tagNext := x.tagNext ++ [(BitVec.ofNat 32 (c.w 1), f)] }).override [.cell w] f).finish c 0

/-! ### Overrides (R316, R317) -/

/-- What CELL_FORCE names: a cell of this panel, or a Host Site by its Contact Sheet row (R25). -/
def State.forced (s : State) (c : Cmd) : Option (CellId ⊕ Nat) :=
  let row := bits (c.w 0) 0 16
  if bits (c.w 0) 28 4 = 7 then
    if bits (c.w 0) 16 12 = s.panelId && (row = 994 || row = 995) && s.rowFitted row then some (.inr (row - 994)) else none
  else (s.cellOfId (BitVec.ofNat 32 (c.w 0))).map .inl

/-- CELL_FORCE with action `act` (R316). -/
def State.cellForce (s : State) (mine : Nat → Bool)
    (act : CellId ⊕ Nat → State → Option (List Override)) (auto : Bool) : Out :=
  s.vilsal 0x41 (fun c => mine (bits (c.w 1) 0 2)) (fun _ => 16) [fullWord, 3, fullWord, fullWord] fun c s =>
    let f := c.frame 2
    match s.forced c with
    | none => s.finish c eTarget
    | some t =>
      let bad : Bool := match t with
        | .inl cell => !s.configured cell
        | .inr _ => false
      if bits (c.w 1) 0 2 = 3 then s.finish c eTarget
      else if bad then s.finish c eNoCell
      else match act t s with
        | none => s.finish c eTarget
        | some l =>
          if auto && !s.manual 0 then s.finish c ePolicyAuto
          else if s.tooSoon f then s.finish c eCmdTooSoon
          else (s.override l f).finish c 0

/-- CELL_FORCE DARK. An action of 3 names nothing. -/
def execCellForceDark (s : State) : Out :=
  s.cellForce (fun a => a = 0 || a = 3) (fun t _ => some (match t with
    | .inl cell => [.dark cell]
    | .inr g => [.siteDark g])) false

/-- CELL_FORCE RELEASE (R306, R317). -/
def execCellForceRelease (s : State) : Out :=
  s.cellForce (fun a => a = 1) (fun t _ => some (match t with
    | .inl cell => [.release cell]
    | .inr g => [.siteRelease g])) false

/-- CELL_FORCE RETIRE, of the cell's cores (R396). -/
def execCellForceRetire (s : State) : Out :=
  s.cellForce (fun a => a = 2) (fun t s => match t with
    | .inl cell => some ((s.coresOf cell).map .retire)
    | .inr _ => none) true

/-- A sparing is decided: HLT_CNT_SPARE and HLT_SPARE_LAST (R398, R417). -/
def State.noteSpare (s : State) (n m : Nat) : State :=
  let x := word [(n, 22, 10), (m, 12, 10), (b2n (coreQuad m ≠ coreQuad n), 11, 1), (s.pmc.frame.toNat, 0, 11)]
  (s.countPmc 0x0510 1).modHlt fun h => { h with spareLast := x }

/-- A sparing that waits for its Shutter takes core `a` out, or puts core `b` in. -/
def State.sparePending (s : State) (a b : Nat) : Bool :=
  s.pmc.overrides.any fun e => match e.1 with
    | .spare x y => x = a || y = b
    | _ => false

/-- R316, R398: SPARE_SET takes an exposed core out and puts a reserve in; neither is in a sparing that is pending (R3). -/
def execSpareSet (s : State) : Out :=
  s.command 0x42 [0x3FF, 0x3FF, fullWord, fullWord] fun c s =>
    let a := c.w 0
    let b := c.w 1
    let f := c.frame 2
    if 576 ≤ a || 576 ≤ b || a = b || !((s.getCore a).exposed || (s.getCore a).owed) ||
        (s.row b).state ≠ 7 || (s.getCore b).position.isSome || s.sparePending a b then s.finish c eTarget
    else if !s.manual 0 then s.finish c ePolicyAuto
    else if s.tooSoon f then s.finish c eCmdTooSoon
    else ((s.override [.spare a b] f).noteSpare a b).finish c 0

/-- R316, R266: HOSTWIN_SET. -/
def execHostwinSet (s : State) : Out :=
  s.command 0x30 [0x7700] fun c s =>
    let e := bits (c.w 0) 12 3
    let w := bits (c.w 0) 8 3
    if 4 < e || 4 < w || (e ≠ 0 && !s.sec.h2) then s.finish c 0x0A04
    else (s.modPmc fun p => { p with eastNext := e, westNext := w }).finish c 0

end Sys2Proof.Machine
end

