-- ==== Sys2Proof/Machine/Links.lean ====
section
/-! DEFINITION. Inter-tile links: lane groups, modes, retraining and retirement (R199 to R205), detours (R206, R207),
LINK_FORCE (R316), slices after a loss of capacity (R244), and the Host Sites' UCIe modules (R308, R309). -/

namespace Sys2Proof.Machine

/-! ### Links (R199 to R203, R220) -/

/-- The link exists: not at the panel's edge (R220). -/
def linkFitted (t n : Nat) : Bool := t < 24 && if n < 6 then t % 6 < 5 else n < 10 && t < 18

/-- The router and output port that send on a link direction. -/
def linkPort (t n d : Nat) : Nat × Nat :=
  let x := t % 6 * 4
  let y := t / 6 * 6
  if n < 6 then (if d = 0 then (coreAt (x + 3) (y + n), 3) else (coreAt (x + 4) (y + n), 4))
  else (if d = 0 then (coreAt (x + n - 6) (y + 5), 1) else (coreAt (x + n - 6) (y + 6), 2))

/-- Good groups, and those that carry data or stand by: without the one that retrains, or has passed and is not back yet (R201,
R204). -/
def Link.goodCount (l : Link) : Nat := ((List.range 11).filter l.good.getLsbD).length
def Link.working (l : Link) : Nat := l.goodCount - b2n ((l.retraining || l.passed.isSome) && l.good.getLsbD l.group)

/-- R201. -/
def linkMode (good : Nat) : Nat := if 10 ≤ good then 0 else if 8 ≤ good then 1 else 2

/-- The mode from the next Shutter: with 8 good groups, one of them in retraining, or while it waits for its detours, a link stays NARROW
(R203, R204). -/
def Link.nextMode (l : Link) (f : W64) : Nat :=
  if linkMode l.working ≠ 2 then linkMode l.working
  else if 8 ≤ l.goodCount then 1
  else if l.retiring then (match l.retireAt with
    | some g => if g ≤ f then 2 else 1
    | none => 1)
  else 2

/-- All link directions. -/
def linkList : List (Nat × Nat × Nat) :=
  (List.range 24).flatMap fun t => ((List.range 10).filter (linkFitted t)).flatMap fun n => [(t, n, 0), (t, n, 1)]

/-- At a Shutter a link direction takes its mode; a change is a LINK event (R201, R203, R328). -/
def State.linkShutter (s : State) (e : Nat × Nat × Nat) : State :=
  let l := s.getLink e.1 e.2.1 e.2.2
  let m := l.nextMode s.pmc.frame
  if m = l.mode || !l.trained then s else
  let s := s.modLink e.1 e.2.1 e.2.2 fun l => { l with
    mode := m
    changed := s.frame16
    retiring := l.retiring && m ≠ 2
    kept := if m = 2 then [] else l.kept
    retireAt := if m = 2 then none else l.retireAt }
  let r := rowLink e.1 e.2.1 e.2.2
  let s := if m = 2 then s.rowFault r 4 (if (s.row r).reason = 0 then 0x20 else (s.row r).reason)
    else s.rowState r (if m = 1 then 2 else 1) 0
  s.event evLink (s.ccbId (.tile e.1)) ((e.2.1 * 2 + e.2.2) % 2 ^ 32) m

/-- A group is retired for a reason (R203). With 7 good groups or fewer the link waits for its detours; where fewer than 8 others work the
group goes on carrying data. -/
def State.retireGroup (s : State) (t n d g why : Nat) : State :=
  let s := s.modLink t n d fun l => { l with
    kept := if l.mode ≠ 2 && !(l.retraining && l.group = g) && { l with good := l.good &&& ~~~ BitVec.ofNat 11 (2 ^ g) }.working < 8
      then nadd l.kept g else l.kept
    good := l.good &&& ~~~ BitVec.ofNat 11 (2 ^ g)
    retraining := l.retraining && l.group ≠ g
    passed := if l.group = g then none else l.passed
    due := ndel l.due g }
  let s := s.rowState (rowLane t n d g) 4 why
  let l := s.getLink t n d
  if l.trained && l.goodCount < 8 && !l.retiring && l.mode ≠ 2 then
    let p := linkPort t n d
    (s.modLink t n d fun l => { l with retiring := true }).needDetour p.1 p.2
  else s

/-- R203, R392: the rows of the groups show the frame's errors; failing lanes at the Stop Bath: 4 errors in the frame, or 16 over the last 1,024.
With re-planning MANUAL a DECISION event takes the retirement's place (R317). -/
def State.laneBath (s : State) (e : Nat × Nat × Nat) : State :=
  let l := s.getLink e.1 e.2.1 e.2.2
  let hist := (l.laneErrs :: l.laneHist).take 1024
  let total (x : Nat) : Nat := (hist.map fun h => tget h x 0).foldl (· + ·) 0
  let bad := (List.range 88).filter fun x => 4 ≤ tget l.laneErrs x 0 || 16 ≤ total x
  let gs := ((bad.map (· / 8)).eraseDups).filter l.good.getLsbD
  let few := ((l.laneErrs.filter fun x => x.2 < 4).map (·.1 / 8)).filter l.good.getLsbD
  let s := s.each (List.range 11) fun s g =>
    let n := (l.laneErrs.filter fun x => x.1 / 8 = g).foldl (fun a x => a + x.2) 0
    let r := rowLane e.1 e.2.1 e.2.2 g
    if (s.row r).data = BitVec.ofNat 32 n then s else s.rowData r (BitVec.ofNat 32 n)
  let s := if l.laneErrs.isEmpty && l.laneHist.isEmpty && l.passed.isNone && l.kept.isEmpty then s
    else s.modLink e.1 e.2.1 e.2.2 fun l => { l with
      laneErrs := []
      laneHist := if hist.all List.isEmpty then [] else hist
      passed := none
      kept := if 8 ≤ { l with passed := none }.working then [] else l.kept
      due := few.foldl nadd l.due }
  let key := (e.2.1 * 2 + e.2.2) * 16
  let s := s.settled 1 (.tile e.1) fun a => a / 16 * 16 ≠ key || gs.contains (a % 16)
  s.each gs fun s g =>
    if s.manual 1 then s.decision 1 (.tile e.1) (key + g)
    else s.retireGroup e.1 e.2.1 e.2.2 g 0x20

/-! ### Retraining (R204) -/

/-- A group starts retraining; with exactly 8 good groups the retraining is skipped, and a retired group is not retrained. -/
def State.startRetrain (s : State) (t n d g : Nat) : State :=
  let l := s.getLink t n d
  if !l.good.getLsbD g then s
  else if l.goodCount = 8 then s.modLink t n d fun l => { l with skipped := true, due := ndel l.due g }
  else
    ((s.modLink t n d fun l => { l with retraining := true, skipped := false, group := g }).rowState (rowLane t n d g) 6
      (s.row (rowLane t n d g)).reason).rowAttempt (rowLane t n d g)

/-- Frames in 168 h. -/
def weekFrames (t : Nat) : Nat := cdiv 604800000000 t

/-- The PMC retrains the group: 1 to 3 errors in a frame, or 168 h since it trained (R204). -/
def State.retrainDue (s : State) (l : Link) (g : Nat) : Bool :=
  l.due.contains g || weekFrames s.pmc.t ≤ (s.pmc.frame - tget l.trainedAt g 0).toNat

/-- R204: at a Stop Bath a group starts to retrain. -/
def execLinkRetrain (tile link dir group : Nat) (s : State) : Out :=
  unit (linkFitted tile link && dir < 2 && group < 11) "lane group" <|
  let l := s.getLink tile link dir
  due s (4 ≤ s.pmc.point && l.trained && !l.retraining && l.passed.isNone && s.retrainDue l group) <| -- a Stop Bath, and the group is due
  .next (s.startRetrain tile link dir group)

/-- R204: training ends: the group is the spare from the next Stop Bath, or it is retired. -/
def execLinkRetrainDone (tile link dir : Nat) (pass : Bool) (s : State) : Out :=
  unit (linkFitted tile link && dir < 2) "link" <|
  due s (s.getLink tile link dir).retraining <| -- a group of the link retrains
  let g := (s.getLink tile link dir).group
  let f := s.pmc.frame
  let s := s.modLink tile link dir fun l => { l with retraining := false, due := ndel l.due g, trainedAt := tset l.trainedAt g f 0 }
  if pass then
    .next ((s.modLink tile link dir fun l => { l with passed := some g }).rowState (rowLane tile link dir g) 1 0)
  else .next (s.retireGroup tile link dir g 0x21)

/-! ### Detours (R206, R207) -/

/-- The rows of the links that wait for the detours now computed. -/
def State.detourRows (s : State) : List Nat :=
  (linkList.filter fun e => (s.getLink e.1 e.2.1 e.2.2).retiring && (s.getLink e.1 e.2.1 e.2.2).retireAt.isNone).map fun e =>
    rowLink e.1 e.2.1 e.2.2

/-- A link that waits for its detours is retired at a Shutter. -/
def State.retireLinks (s : State) (f : W64) : State :=
  linkList.foldl (fun (s : State) (e : Nat × Nat × Nat) =>
    let l := s.getLink e.1 e.2.1 e.2.2
    if l.retiring && l.retireAt.isNone then s.modLink e.1 e.2.1 e.2.2 fun l => { l with retireAt := some f } else s) s

/-- The work cells whose cores send or receive the streams that wait for detours. -/
def State.detourWorks (s : State) : List Nat :=
  let x : Retired := ⟨s.retiredOut, []⟩
  let l := (s.streamsOf [] s.tabled).filter (s.affected x [])
  let cores := l.flatMap fun y => (if y.inp = 5 then [y.router] else []) ++
    (y.slots.flatMap fun k => s.ends (s.routeOf [] y k)).filterMap fun e => if e.2.1 = 5 then some e.1 else none
  (cores.flatMap s.worksOf).eraseDups

/-- R206, R207: the PMC computes the detours. Where every stream finds one the changed banks are written and armed together for the
second Shutter; else the quotas of the work cells affected are cut at the next, where the link is retired. -/
def execDetourCompute (s : State) : Out :=
  due s (!s.pmc.detours.isEmpty && !s.pmc.restarting) <| -- retired outputs wait for detours
  match s.detours [] with
  | some bs =>
    let f := s.pmc.frame + 2
    let s := bs.foldl (fun (s : State) (e : Nat × Tab W32) =>
      (s.modRtr e.1 fun x => { x with pending := e.2 }).armSwap e.1 (f.setWidth 16)) s
    .next ((s.modPmc fun p => { p with detours := [], together := p.together ++ [bs.map (·.1)] }).retireLinks f)
  | none =>
    let ws := s.detourWorks
    let rows := s.detourRows
    .next ((s.modPmc fun p => { p with
      detours := []
      unrouted := ws.foldl nadd p.unrouted
      unroutedRows := rows.foldl nadd p.unroutedRows }).retireLinks (s.pmc.frame + 1))

/-- R207: at the Shutter after a failed detour the quotas are cut, and the row of each link that it retires gives DETOUR_FAIL. -/
def State.detourCuts (s : State) : State :=
  if s.pmc.unrouted.isEmpty && s.pmc.unroutedRows.isEmpty then s
  else
    let s := s.each s.pmc.unrouted fun s w => match s.boundPlate w with
      | some img => s.freeLoss w 2 img
      | none => s
    (s.each s.pmc.unroutedRows fun s r => s.rowState r (s.row r).state 0x22).modPmc fun p => { p with
      unrouted := [], unroutedRows := [] }

/-! ### LINK_FORCE (R316) -/

/-- LINK_FORCE with an action. -/
def State.linkForce (s : State) (mine : Nat → Bool) (mk : Nat → Nat → Nat → Nat → Override) : Out :=
  s.vilsal 0x43 (fun c => mine (bits (c.w 0) 13 2)) (fun _ => 16) [0x7FF0, 0x1F, fullWord, fullWord] fun c s =>
    let g := bits (c.w 0) 9 4
    let d := bits (c.w 0) 8 1
    let n := bits (c.w 0) 4 4
    let t := c.w 1
    let f := c.frame 2
    if bits (c.w 0) 13 2 = 3 || !linkFitted t n || 10 < g then s.finish c eTarget
    else if !s.manual 1 then s.finish c ePolicyAuto
    else if s.tooSoon f then s.finish c eCmdTooSoon
    else (s.override [mk t n d g] f).finish c 0

/-- LINK_FORCE retire. An action of 3 names nothing. -/
def execLinkForceRetire (s : State) : Out :=
  s.linkForce (fun a => a = 0 || a = 3) .linkRetire
def execLinkForceRetrain (s : State) : Out :=
  s.linkForce (fun a => a = 1) .linkRetrain
def execLinkForceReturn (s : State) : Out :=
  s.linkForce (fun a => a = 2) .linkReturn

/-! ### Slices (R244) -/

/-- Units of 256 bytes per frame with a Develop length of `g` ns that a slice's attachment carries in each direction (R244). -/
def State.sliceRoom (s : State) (g kind index : Nat) : Nat :=
  if kind = 3 then
    let p := s.getPort index
    let rate : Nat := match p.mode with
      | .x8 => g * 200 * 15 / 16 / 256
      | .x4lo | .x4hi => g * 100 * 15 / 16 / 256
      | _ => 0
    if p.rttLong && p.up then min rate (760 * g / max 1 p.rtt) else rate -- 760 flits per round trip (R281; log entry 135)
  else
    let m := (s.getSite (kind - 1)).modules
    g * ((m.filter fun e => e.2 = .x64).length * 2 + (m.filter fun e => e.2 = .x32).length) / 2

/-- The units that a list of plates takes of an attachment, in and out. -/
def sliceUse (imgs : List (List Byte)) (kind index : Nat) : Nat × Nat :=
  let l := imgs.flatMap fun img => (slices img).filter fun x => x.1 = kind && x.2.1 = index
  ((l.map fun x => x.2.2.1).foldl (· + ·) 0, (l.map fun x => x.2.2.2).foldl (· + ·) 0)

/-- The capacity that its attachments leave a plate, in slot units: CAP in proportion to the room of each direction in which the plate has a
slice (R235, R244). -/
def State.sliceCap (s : State) (img : List Byte) : Nat :=
  (slices img).foldl (fun a x =>
    let room := s.sliceRoom s.develop x.1 x.2.1
    let used := sliceUse (s.bounds.map (·.2)) x.1 x.2.1
    let cut (own u a : Nat) : Nat := if own = 0 || u ≤ room then a else min a (costCap img * room / u)
    cut x.2.2.1 used.1 (cut x.2.2.2 used.2 a)) (costCap img)

/-- R244 at the Stop Bath: bound slices above the capacity of their attachments cut the quotas. -/
def State.sliceBath (s : State) : State :=
  s.bounds.foldl (fun (s : State) (e : Nat × List Byte) =>
    let k := s.sliceCap e.2
    if k < costCap e.2 then s.setLoss e.1 1 (some k)
    else if (s.getWork e.1).losses.any fun x => x.1 = 1 then s.setLoss e.1 1 none else s) s

/-! ### Host Sites (R308, R309) -/

def modTrained (m : ModMode) : Bool := m = .x64 || m = .x32

/-- The site's order code has it. -/
def State.siteFitted (s : State) (g : Nat) : Bool := g = 0 || s.sec.h2

/-- The state that a site's modules and the cold start give it. -/
def State.siteState (s : State) (site : Nat) : Nat :=
  let g := s.getSite site
  let n := g.trained
  let busy := g.modules.any fun m => m.2 = .training
  if !s.siteFitted site then 5
  else if g.railOff then 4
  else if s.boot.step ≤ 3 then (if n = 0 then g.state else 1)
  else if s.boot.step = 4 then (if n = 0 && busy then g.state else if busy || 4 ≤ n then 2 else 4)
  else if 4 ≤ n then 3
  else 4

/-- A site takes its state; one that returns from DOWN has its held answers written first (R309, R323). -/
def State.siteRefresh (s : State) (site : Nat) : State :=
  let g := s.getSite site
  let st := s.siteState site
  if st = g.state then s
  else if st = 4 then s.siteDown site
  else
    let s := (s.setSite site { g with state := st, changed := s.frame16 }).rowState (rowSite site) 1 0
    if st = 3 then s.flushHeld site g.held.length else s

/-- A fabric port has joined, or has tried to (R427). -/
def State.joined (s : State) (p : Nat) : Bool :=
  let x := s.getPort p
  x.mode = .absent || (!x.loopback && (x.tried || x.localFault || (s.getPort (mate p)).localFault || (s.getRing (p / 2)).released))

/-- With every fabric port joined or out of service, and every module trained or DOWN, the link step of the cold start ends, and the sites
are FULL (R309, R423 steps 12 and 13; log entry 59). -/
def State.linksDone (s : State) : State :=
  let busy := [0, 1].any fun g => s.siteFitted g && (s.getSite g).modules.any fun m => m.2 = .training
  if s.boot.step = 4 && !busy && (List.range 32).all s.joined then
    ((s.modBoot fun b => { b with step := 5 }).siteRefresh 0).siteRefresh 1
  else s

/-- R308, R309: a UCIe module ends training, or its mode changes. -/
def execModuleTrained (site module : Nat) (mode : ModMode) (s : State) : Out :=
  unit (site < 2 && module < 8) "UCIe module" <|
  due s (s.siteFitted site && !(s.getSite site).railOff && 2 ≤ s.boot.step && s.boot.step ≤ 6) <| -- the module is powered
  let s := s.modSite site fun g => { g with modules := tset g.modules module mode .down }
  let s := s.rowState (rowModule site module) (match mode with
    | .x64 => 1
    | .x32 => 2
    | .training => 6
    | .down => 4) (if mode = .down then 0x21 else 0)
  .next ((s.siteRefresh site).linksDone)

/-- R308: a site that is DOWN retries training its modules. -/
def execSiteRetrain (site : Nat) (s : State) : Out :=
  unit (site < 2) "Host Site" <|
  due s ((s.getSite site).state = 4 && !(s.getSite site).railOff) <| -- the site is DOWN
  .next ((s.modSite site fun g => { g with modules := (List.range 8).map fun m =>
      (m, if modTrained (tget g.modules m .down) then tget g.modules m .down else .training) }).rowAttempt (rowSite site))

end Sys2Proof.Machine
end

