-- ==== Sys2Proof/Machine/Halls.lean ====
section
/-! DEFINITION. Hall cells: forming and leaving one (R316), the hall Shutter (R59 to R62, R286, R287), and the commands that
change panel IDs and rings (R291, R294). -/

namespace Sys2Proof.Machine

/-! ### Membership -/

/-- This panel is its hall cell's master: the member with the lowest ID (R287). -/
def State.hallMaster (s : State) : Bool :=
  s.fab.hallIndex.isSome && s.fab.hallMembers.foldl min s.panelId = s.panelId

/-- A 16-bit entry of HALL_FORM's list. -/
def hallEntry (c : Cmd) (i : Nat) : Nat := bits (c.w (4 + i / 2)) (16 * (i % 2)) 16

/-- A list without repeats. -/
def distinct (l : List Nat) : Bool := l.eraseDups.length = l.length

/-- A neighbour that IDENT shows in another hall cell (R289). -/
def State.inOtherHall (s : State) (panel index : Nat) : Bool :=
  s.port.any fun e => e.2.nbrValid && e.2.nbrPanel = panel && e.2.nbrHall ≠ 0x3FF && e.2.nbrHall ≠ index

/-- R316: HALL_FORM. -/
def execHallForm (s : State) : Out :=
  s.vilsal 0x14 (fun _ => true) (fun c => 16 + 4 * cdiv (bits (c.w 1) 0 11) 2)
    [0x3FF, 0x7FF, fullWord, fullWord] fun c s =>
    let h := c.w 0
    let n := c.w 1
    let f := c.frame 2
    let ids := (List.range n).map (hallEntry c)
    let other : Bool := match s.fab.hallIndex with
      | some k => k ≠ h
      | none => false
    if h = 1023 || n < 2 || 2000 < n then s.finish c eTarget
    else if !distinct ids || other || s.fab.hallNext.isSome || !ids.contains s.panelId ||
        ids.any (s.inOtherHall · h) then s.finish c eHallMember
    else if ids.any fun p => p ≠ s.panelId && (s.route p).isNone then s.finish c eFabUnreachable
    else if s.tooSoon f then s.finish c eCmdTooSoon
    else (s.modFab fun x => { x with hallNext := some (some h, ids, f) }).override [.hall] f |>.finish c 0

/-- R316: HALL_LEAVE. -/
def execHallLeave (s : State) : Out :=
  s.command 0x15 [0x3FF, fullWord, fullWord] fun c s =>
    let f := c.frame 1
    if s.fab.hallIndex ≠ some (c.w 0) || s.fab.hallNext.isSome then s.finish c eHallMember
    else if s.tooSoon f then s.finish c eCmdTooSoon
    else (s.modFab fun x => { x with hallNext := some (none, [], f) }).override [.hall] f |>.finish c 0

/-- A panel outside a hall cell: no offset, trim or lock. -/
def Fabric.noHall (x : Fabric) : Fabric :=
  { x with
    hallIndex := none
    hallMembers := []
    offset := 0
    tau := 0
    tauNext := 0
    fofs := 0
    closeFrames := 0
    silentFrames := 0
    heardMaster := false
    elected := none
    peers := [] }

/-! ### The hall Shutter (R60, R61, R286, R287) -/

/-- τ: the negated offset within ±2,000 ns, to the nearest 10 ns (log entry 60). -/
def trim (offset : Int) : Int := (max (-2000) (min 2000 (-offset)) + 5) / 10 * 10

/-- The body of HALL_SHUTTER: hall frame number, timebase count, SEND_DELTA and CORR (R284). -/
def shutterBody (frame count : W64) (sendDelta corr : Int) : List W32 :=
  twoWords frame ++ twoWords count ++ [BitVec.ofInt 32 sendDelta, BitVec.ofInt 32 corr]

/-- R60 to R62, R286: the master's Shutter is heard. -/
def execHallShutter (rx : Rx) (frame count : W64) (times : HallTimes) (sendDelta corr : Int) (s : State) : Out :=
  flit s rx.port rx.flit (copyOf rx.flit 0x4 (shutterBody frame count sendDelta corr)) fun s =>
  let path : Int := (s.getPort rx.port).rtt / 2
  let c := s.choose 143 (2 ^ 16)
  if rx.flit.dest ≠ s.panelId then
    .next (c.2.expressTo 0x4 rx.flit.dest (shutterBody frame count sendDelta (corr + path + c.1)))
  else
  due s (s.fab.hallIndex.isSome && !s.hallMaster) <| -- the panel is a hall member, not the master
  let o := times.own - times.arrival + sendDelta + corr + path
  let near : Bool := o.natAbs ≤ 200
  -- one message counts for the frame, though each ring brings one
  let n := if !near then 0 else if s.fab.heardMaster then s.fab.closeFrames else s.fab.closeFrames + 1
  let was := s.pmc.hallLock
  let s := s.modFab fun x => { x with
    offset := o
    tauNext := trim o
    fofs := frame - s.pmc.frame
    closeFrames := n
    silentFrames := 0
    heardMaster := true
    elected := none }
  let s := s.modPmc fun p => { p with hallLock := near && (was || 16 ≤ n) }
  .next (if was && !near then s.event evHallUnlock (s.ccbId .hall) (ofSigned 32 o) 0 else s)

/-- R61, R287: no master has been heard for 16 frames: it leaves the membership. -/
def execHallMasterLoss (s : State) : Out :=
  due s (s.fab.hallIndex.isSome && !s.hallMaster && s.fab.elected.isNone && 16 ≤ s.fab.silentFrames) <| -- 16 frames without HALL_SHUTTER
  let m := s.fab.hallMembers.foldl min s.panelId
  let s := s.modFab fun x => { x with
    hallMembers := ndel x.hallMembers m, silentFrames := 0, elected := some 0, tau := 0, tauNext := 0 }
  let s := if s.hallMaster then s.modFab fun x => { x with offset := 0, fofs := 0, elected := none } else s
  .next ((s.modPmc fun p => { p with hallLock := false }).event evHallUnlock (s.ccbId .hall) (ofSigned 32 s.fab.offset) 0)

/-- R61, R287: no master for 16 frames after the election: the panel runs free, outside the hall cell (log entry 61). -/
def execHallFreeRun (s : State) : Out :=
  due s (match s.fab.elected with
    | some n => 16 ≤ n
    | none => false) <| -- 16 frames without a master since the election
  .next ((s.modFab Fabric.noHall).modPmc fun p => { p with hallLock := false })

/-- What another panel tells of itself (R42): its own state, so free here (log entry 110). -/
def freePeer (k : Nat) : Peer :=
  let w (i : Nat) : Nat := (Config.freeWord (k + i)).toNat
  let st : CellState := match w 0 % 10 with
    | 0 => .off
    | 1 => .starting
    | 2 => .ready
    | 3 => .running
    | 4 => .degraded
    | 5 => .resetting
    | 6 => .faulted
    | 7 => .dark
    | 8 => .hold
    | _ => .retired
  { state := st
    reason := w 0 / 16 % 12
    exposed := w 1 % 481
    fault := BitVec.ofNat 16 (w 2)
    frame := BitVec.ofNat 64 (w 3 + 2 ^ 32 * w 4)
    tokenOut := Config.freeWord (k + 5)
    tokenStat := Config.freeWord (k + 6) }

/-- Once a frame every other member panel tells of itself (R42); the hall entry latches the first that brings a fault (R32). -/
def State.mirrorHall (s : State) : State :=
  let l := s.hallPanels.filter (· ≠ s.panelId)
  let k := s.fresh
  let t := ({ s with fresh := k + 7 * l.length }).modFab fun x => { x with
    peers := ((List.range l.length).zip l).foldl (fun (t : Tab Peer) (e : Nat × Nat) =>
      tset t e.2 (freePeer (k + 7 * e.1)) {}) [] }
  t.latch s (((l.filter fun p => (tget t.fab.peers p {}).fault ≠ 0).map fun p => (CellId.hall, panelCellId p)).take 1)

/-- R60: the hall master sends HALL_SHUTTER in the next express slot of every ring that leads to a member, to each such member. How
soon the slot comes is free (log entry 112). -/
def State.sendHallShutter (s : State) : State :=
  (List.range 16).foldl (fun (s : State) r =>
    (s.fab.hallMembers.filter (· ≠ s.panelId)).foldl (fun (s : State) m =>
      match s.ringWay r m with
      | none => s
      | some w =>
        let c := s.choose 142 39
        c.2.express (portOf r w) 0x4 m (shutterBody s.pmc.frame s.pmc.timebase c.1 0)) s) s

/-- What the last frame heard of the master acts on the frame that opens (R60, R61). -/
def State.trimTick (s : State) : State :=
  if s.fab.hallIndex.isNone || s.hallMaster then s
  else if s.fab.heardMaster then s.modFab fun x => { x with heardMaster := false, tau := x.tauNext }
  else (s.modFab fun x => { x with
      tau := 0
      closeFrames := 0
      silentFrames := x.silentFrames + 1
      elected := x.elected.map (· + 1) }).modPmc fun p => { p with hallLock := false }

/-- A membership takes effect at its Shutter. -/
def State.memberTick (s : State) : State :=
  match s.fab.hallNext with
  | none => s
  | some e =>
    if s.pmc.frame < e.2.2 then s
    else (s.modFab fun x => { Fabric.noHall x with
        hallIndex := e.1, hallMembers := e.2.1, hallNext := none }).modPmc fun p => { p with hallLock := false }

/-- At the Shutter, once the memberships that take effect are in force: the HALL_SHUTTER of the master of the hall cell (R60). HALL_LOCK
never sets on the master itself: DESIGN CHOICE, log entry 123. -/
def State.hallTick (s : State) : State :=
  let s := s.memberTick
  let s := if s.hallMaster then (s.modFab fun x => { x with offset := 0, tau := 0, fofs := 0 }).sendHallShutter else s
  s.mirrorHall

/-! ### Panel IDs and rings (R291, R294) -/

/-- R294: FAB_REBIND. -/
def execFabRebind (s : State) : Out :=
  s.command 0x33 [0xFFF, fullWord, fullWord, fullWord] fun c s =>
    let f := c.frame 2
    if s.tooSoon f || s.fab.idNext.isSome then s.finish c 0x0B0A
    else if s.ring.any fun e => e.2.map.contains (c.w 0) then s.finish c 0x0B09
    else
      let s := s.modFab fun x => { x with idNext := some (c.w 0, f) }
      (s.each (List.range 16) fun s r => s.modRing r fun g => { g with dimNext := some (bits (c.w 1) (2 * r) 2) }).override [.ids] f |>.finish c 0

/-- A ring is formed afresh (R290). -/
def State.reform (s : State) (r : Nat) : State :=
  if (s.getRing r).bypass || (s.getRing r).released then s
  else (s.modRing r fun g => { g with forming := some [s.panelId], probing := 1, fromWest := [], fromEast := [] }).startProbe r

/-- A rebind that takes effect at the Shutter (R294). -/
def State.rebindTick (s : State) : State :=
  match s.fab.idNext with
  | none => s
  | some e =>
    if s.pmc.frame < e.2 then s
    else
      let old := s.panelId
      let new (p : Nat) : Nat := if p = old then e.1 else p
      let s := s.modFab fun x => { x with
        id := e.1
        idNext := none
        hallMembers := x.hallMembers.map new
        hallNext := x.hallNext.map fun h => (h.1, h.2.1.map new, h.2.2) }
      let s := s.each (List.range 16) fun s r =>
        (s.modRing r fun g => { g with
          dim := g.dimNext.getD g.dim
          dimNext := none
          map := g.map.map new }).reform r
      s.each (List.range 32) fun s p => if (s.getPort p).mode = .down || (s.getPort p).mode = .absent then s else s.sendIdent p

/-- The ring exists on the order code. -/
def State.ringFitted (s : State) (r : Nat) : Bool := r < 8 || (r < 16 && s.sec.f32)

/-- RING_RELEASE, `release` 1 or 0 (R316). -/
def State.ringCommand (s : State) (release : Bool) : Out :=
  s.vilsal 0x34 (fun c => bitOf (c.w 0) 8 = release) (fun _ => 12) [0x10F, fullWord, fullWord] fun c s =>
    let r := bits (c.w 0) 0 4
    let f := c.frame 1
    if !s.ringFitted r then s.finish c eTarget
    else if s.tooSoon f then s.finish c eCmdTooSoon
    else (s.override [.ring r release] f).finish c 0

/-- R291, R316: RING_RELEASE. -/
def execRingRelease (s : State) : Out := s.ringCommand true
/-- R291, R316: RING_RELEASE with a rejoin. -/
def execRingRejoin (s : State) : Out := s.ringCommand false

/-- In the frame before a planned release the panel sends LEAVE on both ports: ring and target frame (R291). -/
def State.sendLeave (s : State) (r : Nat) (f : W64) : State :=
  s.each [2 * r, 2 * r + 1] fun s p => s.express p 0x7 (s.getPort p).nbrPanel (BitVec.ofNat 32 r :: twoWords f)

/-- A release or rejoin takes effect: the bypass closes and the ports go down, or it opens and they train, unless a port has a LOCAL_FAULT
(R291). -/
def State.ringChange (s : State) (r : Nat) (release : Bool) : State :=
  if release then
    let s := (s.closeBypass r).modRing r fun g => { g with released := true }
    s.each [2 * r, 2 * r + 1] fun s p => (s.modPort p fun x => { x with
      mode := if x.mode = .absent then .absent else .down, changed := s.frame16 }).portRow p
  else
    let broken := (s.getPort (2 * r)).localFault || (s.getPort (2 * r + 1)).localFault
    let s := s.modRing r fun g => { g with released := false, bypass := broken }
    if broken then s else s.each [2 * r, 2 * r + 1] fun s p => (s.startTraining p).portRow p

/-- The row of a ring follows its STATE and its release (R303, R393): WHOLE is GOOD, a LINE or SPLIT is DEGRADED, a bypassed ring is OFF:
DESIGN CHOICE, log entry 121. -/
def State.ringRow (s : State) (r : Nat) : State :=
  let g := s.getRing r
  if !s.ringFitted r then s
  else s.rowState (rowRing r) (if g.released || g.bypass then 5 else if g.state = 0 then 1 else 2) (if g.released then 0x09 else 0)

/-- At a Shutter: members that leave (R291), and maps formed (R290 step 4). -/
def State.ringTick (s : State) (r : Nat) : State :=
  s.modRing r fun g =>
    let gone := (g.leaving.filter fun e => e.2 ≤ s.pmc.frame).map (·.1)
    let g := { g with map := g.map.filter fun p => !gone.contains p, leaving := g.leaving.filter fun e => s.pmc.frame < e.2 }
    match g.forming with
    | some m => if g.probing = 0 then { g with map := m, members := m.length, forming := none } else
        { g with members := g.map.length }
    | none => { g with members := g.map.length }

end Sys2Proof.Machine
end

