-- ==== Sys2Proof/Machine/Cells.lean ====
section
/-! DEFINITION. The control words of a cell: tokens, resets, doorbells, fault clears (R33 to R43, R405 to R407), and
the fault and token messages of the control network (R35, R211). -/

namespace Sys2Proof.Machine

/-! ### Tokens -/

/-- A write to CCB_TOKEN_IN goes from head to head down to a core (R40). To a hall cell whose head is another panel it leaves for
that panel: what it answers is that panel's (log entry 102). -/
def State.tokenIn (s : State) (cell : CellId) (value : W32) : State :=
  if !s.configured cell then s.done eNoCell
  else match s.head cell with
    | some n => s.tokenWrite n value
    | none => s.done (if tokenBad value then eReserved else 0)

/-- R35, R36, R40: a write to CCB_TOKEN_IN. -/
def execTokenInWrite (cell : CellId) (value : W32) (s : State) : Out :=
  unit (cellOk cell) "cell" <| .next (s.tokenIn cell value)

/-- The TOKEN that carries `tok` to a cell from the out-port of core `m`. -/
def State.isToken (s : State) (cell : CellId) (tok : W32) (m : Nat) (x : Msg) : Bool :=
  x.type = tyToken && x.src = coreQuad m && x.body = [s.ccbId cell, tok]

/-- R35, R36, R212: a token arrives at a cell's in-port from another cell's out-port. -/
def execTokenMessage (cell : CellId) (tok : W32) (sender : Timed CellId) (s : State) : Out :=
  unit (cellOk cell && cellOk sender.val) "cell" <|
  match s.head cell, s.tail sender.val with
  | some n, some m =>
    due s (s.underWay (s.isToken cell tok m)).isSome <| -- a TOKEN of the sender is under way to the cell
    .next (((s.received (s.isToken cell tok m)).ctlLate (coreQuad n) sender.late).tokenArrive n tok (some m))
  | _, _ => .next s -- nothing, unless a TOKEN of the sender is under way to the cell

/-! ### Resets -/

/-- R37, R405: a planned reset waits in a core for the next Stop Bath. -/
def Core.planReset (c : Core) : Core :=
  if c.ccb.state = .resetting || c.ccb.resetPending then c
  else { c with ccb := { c.ccb with resetPending := true } }

/-- The quadrants that a cell of quadrant level or above is made of (R431). -/
def State.quadsOf (s : State) : CellId → List Nat
  | .core _ => []
  | .die _ => []
  | .quad q => [q]
  | .tile t => tileQuads t
  | .panel => List.range 96
  | .work w => (s.getWork w).quads
  | .hall => if s.fab.hallIndex.isSome then List.range 96 else []

/-- R37, R405: CCB_RESET KIND 0b01, to every core of the cell at every depth. -/
def State.planReset (s : State) (cell : CellId) : State :=
  (s.each (s.coresOf cell) fun s n => s.modCore n Core.planReset).each
    ((s.quadsOf cell).filter fun q => (s.viewQuad q).state ≠ .resetting) fun s q =>
      s.modQuad q fun x => { x with resetPending := true }

/-- R37, R405. -/
def execCcbResetPlanned (cell : CellId) (s : State) : Out :=
  unit (cellOk cell) "cell" <|
  if !s.configured cell then .next (s.done eNoCell) else .next ((s.planReset cell).done 0)

/-- A beat that core `n` injected is marked poisoned. -/
def Flight.poisonOf (n : Nat) (f : Flight) : Flight :=
  if f.issuer = some n then { f with beat := { f.beat with poison := 15 } } else f

/-- R406: core `n` resets at once: its engines stop, RESET sets and the state is RESETTING, its beats in flight are
marked poisoned, a pending planned reset goes (R37). -/
def State.fatalReset (s : State) (n : Nat) : State :=
  let s := (s.stopCore n).modCore n fun c => { c with ccb := { c.ccb with resetPending := false } }
  let s := s.modMesh fun m => { m with flights := m.flights.map (Flight.poisonOf n) }
  s.fault n fReset

/-- The work cells that a cell is or contains wholly (R406). -/
def State.worksIn (s : State) (cell : CellId) : List Nat :=
  (s.pmc.work.map (·.1)).filter fun w =>
    !(s.getWork w).quads.isEmpty && (s.getWork w).quads.all fun q =>
      s.holds cell (coreOf q 0 0) && s.holds cell (coreOf q 2 1)

/-- R431: a quadrant that resets as a whole loses its rails and its lock (R364); it ramps from the next Shutter (R344). A quadrant
whose rails are off keeps them so. A planned reset marks its dies expected-absent (R365). -/
def State.powerCycle (planned : Bool) (s : State) (q : Nat) : State :=
  if (s.getQuad q).rail = 3 then
    let s := if (s.getQuad q).locked then s.loseLock q else s
    s.modQuad q fun x => { x.unpower with
      rampDue := true
      gated := 7
      tested := 0
      passed := 0
      absent := if planned then 7 else 0
      resetPending := false }
  else s.modQuad q fun x => { x with resetPending := false }

/-- The work cells whose entries a fatal reset of the cell ends (R406). -/
def State.resetWorks (s : State) (cell : CellId) : List Nat :=
  match cell with
  | .core _ => []
  | .die _ => []
  | c => s.worksIn c

/-- R406: CCB_RESET KIND 0b10 to every core of the cell. Written to a work cell or to a cell that contains one, the entries of
that cell end LOST CELL_RESET. -/
def State.fatalCell (s : State) (cell : CellId) : State :=
  let ws := s.resetWorks cell
  let s := match cell with
    | .die d => s.loseDie d
    | c => s.each (s.quadsOf c) fun s q => if (s.getQuad q).rail = 3 then s.clockFault (quadCores q) else s
  let s1 := (s.each (s.coresOf cell) State.fatalReset).each (s.quadsOf cell) (State.powerCycle false)
  s1.each ws fun s w => s.loseOut w lostReset

/-- R406. -/
def execCcbResetFatal (cell : CellId) (s : State) : Out :=
  unit (cellOk cell) "cell" <|
  if !s.configured cell then .next (s.done eNoCell) else .next ((s.fatalCell cell).done 0)

/-! ### Doorbells -/

/-- The CCB that holds a cell's doorbell (R38, R40). -/
def State.ccbOf (s : State) (cell : CellId) : Ccb :=
  match cell with
  | .core n => (s.getCore n).ccb
  | c => s.getComp (compEntry c)
def State.modCcb (s : State) (cell : CellId) (f : Ccb → Ccb) : State :=
  match cell with
  | .core n => s.modCore n fun c => { c with ccb := f c.ccb }
  | c => s.modComp (compEntry c) f

/-- Whether the cell is in RESETTING (R407). -/
def State.resetting (s : State) (cell : CellId) : Bool := (s.view cell).state = .resetting

/-- A write to CCB_DOORBELL (R38, R43, R407). -/
def State.doorbell (s : State) (cell : CellId) (value : W32) : State :=
  if !s.configured cell then s.done eNoCell
  else if s.resetting cell then s.done stCellReset
  else if (s.ccbOf cell).dbPending then s.done eDoorbellBusy
  else (s.modCcb cell fun c => { c with dbPending := true, cookie := value.setWidth 24 }).done 0

/-- R38: a write to CCB_DOORBELL. -/
def execCcbDoorbellWrite (cell : CellId) (value : W32) (s : State) : Out :=
  unit (cellOk cell) "cell" <| .next (s.doorbell cell value)

/-- R38: the PMC accepts a pending doorbell: DOORBELL event, written, masked or dropped, and PENDING returns to 0. -/
def execDoorbellAccept (cell : CellId) (s : State) : Out :=
  unit (cellOk cell) "cell" <|
  due s ((s.ccbOf cell).dbPending && !s.pmc.restarting) <| -- a doorbell is pending
  .next ((s.event evDoorbell (s.ccbId cell) (s.ccbOf cell).cookie.toNat 0).modCcb cell
    fun c => { c with dbPending := false })

/-! ### Faults -/

/-- Bits of CCB_FAULT clear; at zero FIRST and FFRAME read zero (R32). -/
def Ccb.clear (c : Ccb) (bits : BitVec 16) : Ccb :=
  let f := c.fault &&& ~~~ bits
  { c with fault := f, first := if f = 0 then 0 else c.first, firstFrame := if f = 0 then 0 else c.firstFrame }

/-- Bits clear in every active core of a composite at every depth, and in the COMPONENT bits of the cell and its active
members (R40). FIRST and FFRAME of a composite read zero once its whole word is (R32). -/
def State.clearFaults (s : State) (cell : CellId) (v : BitVec 16) : State :=
  match cell with
  | .core n => s.modCore n fun c => { c with ccb := c.ccb.clear v }
  | c =>
    let l := (s.core.filter fun e => e.2.exposed && s.holds c e.1).map (·.1)
    let s1 := s.each l fun s n => s.modCore n fun c => { c with ccb := c.ccb.clear v }
    s1.each (s.componentOf c) fun s e => s.modComp e fun c => { c with fault := c.fault &&& ~~~ v }

/-- R39, R40: a write of ones to CCB_FAULT. -/
def execCcbFaultClear (cell : CellId) (value : W32) (s : State) : Out :=
  unit (cellOk cell) "cell" <| .next ((s.clearFaults cell (value.setWidth 16)).done 0)

/-- R42, R211: the PMC receives a cell's CCB_ID and fault bits. Composite words derive from the members whenever they
are read (Flags); the message itself changes none of them. -/
def execFaultMessage (cell : CellId) (faults : BitVec 16) (s : State) : Out :=
  unit (cellOk cell) "cell" <|
  due s (s.reaches (s.tokenNode cell) nodePmc) <| -- a message that would cross a link that has failed is lost (R213)
  .next (s.answer 0 [s.ccbId cell, faults.setWidth 32])

end Sys2Proof.Machine
end

