-- ==== Sys2Proof/Machine/Corridors.lean ====
section
/-! DEFINITION. The router banks that plates and corridors share (R228, R230, R242, R243): a plate's SLOTS records, the merge of one bank
into another, what of the running banks is a plate's own, and the panel's own corridors: to the host windows (R265), of the fabric (R282)
and of HBM_COPY (R318). -/

namespace Sys2Proof.Machine

/-! ### SLOTS records (R230) -/

/-- A core of quadrant `q` by local router. -/
def localCore (q r : Nat) : Nat := coreOf q (r / 2) (r % 2)

/-- The router that a SLOTS or LINKUTIL header word names. -/
def slotsRouter (quads : List Nat) (w0 : Nat) : Nat :=
  if bitOf w0 31 then coreAt (bits w0 15 5) (bits w0 10 5)
  else localCore (placeQuad quads (bits w0 24 4) (bits w0 20 4)) (bits w0 0 3)

/-- A SLOTS record's bank at the indices of R190. -/
def slotsBank (img : List Byte) (o : Nat) : Tab W32 :=
  let n := plWord img (o / 4 + 1)
  (List.range n).filterMap fun i =>
    let v := plWord img (o / 4 + 2 + i)
    if v = 0 then none else some (if n - 17 ≤ i then 16384 + (i - (n - 17)) else i, BitVec.ofNat 32 v)

/-- The SLOTS records that serve a variant: corridor?, router, bank. -/
def slotsFor (img : List Byte) (quads : List Nat) (v : Nat) : List (Bool × Nat × Tab W32) :=
  (slotsRecs img v).map fun o =>
    (bitOf (plWord img (o / 4)) 31, slotsRouter quads (plWord img (o / 4)), slotsBank img o)

/-- The footprint routers' banks that serve a variant. -/
def footBanks (img : List Byte) (quads : List Nat) (v : Nat) : List (Nat × Tab W32) :=
  ((slotsFor img quads v).filter fun x => !x.1).map fun x => (x.2.1, x.2.2)

/-- Positions that lie under another router than the one they are compiled for: the compiled one, and theirs (R242). -/
def movedTo (img : List Byte) (quads place : List Nat) : List (Nat × Nat) :=
  ((List.range (plPos img)).map fun p =>
    (localCore (placeQuad quads (p / plCpq img % plW img) (p / plCpq img / plW img)) (posRouter img p), place.getD p 0)).filter fun e =>
    e.1 ≠ e.2

/-! ### Merging (R243) -/

/-- Two banks drive one output, or name one STREAM field, in one entry (R243). -/
def banksClash (a b : Tab W32) : Bool :=
  a.any fun e => e.1 < 16384 &&
    (let x := e.2.toNat
     let y := (tget b e.1 0).toNat
     ((entryOuts x).zip (entryOuts y)).any (fun o => o.1.2 ≠ 0 && o.2.2 ≠ 0) ||
      (entryStream x ≠ 0 && entryStream y ≠ 0))

/-- A bank merged into another (R243): the idle fields take its entries; a bank that holds no table takes all. -/
def bankMerge (a b : Tab W32) : Tab W32 :=
  let c := b.foldl (fun (t : Tab W32) (e : Nat × W32) =>
    if e.1 < 16384 then tset t e.1 (tget t e.1 0 ||| e.2) 0
    else if bankNph a = 0 then tset t e.1 e.2 0 else t) a
  tset c 16400 (BitVec.ofNat 32 (max (bankNph a) (bankNph b))) 0

/-- The entries of phase 0 of a bank, in each of `n` phases: a corridor of the panel takes its cycles whatever the phase. -/
def bankSpread (n : Nat) (b : Tab W32) : Tab W32 :=
  (List.range n).flatMap fun ph => (b.filter fun e => e.1 < 1024).map fun e => (1024 * ph + e.1, e.2)

/-- The fields of an entry that are idle take those of another. -/
def entryFill (x y : W32) : W32 :=
  (entryOuts y.toNat).foldl (fun (w : W32) o =>
    if bits w.toNat (outBit o.1) 3 = 0 then setOut w o.1 o.2 none else w) x

/-- The idle outputs of a bank take those of a bank that names no stream. -/
def bankFill (a b : Tab W32) : Tab W32 :=
  b.foldl (fun (t : Tab W32) e => tset t e.1 (entryFill (tget t e.1 0) e.2) 0) a

/-! ### What is a plate's own (R243, R249) -/

/-- A hop of phase `ph`. -/
abbrev PhHop := Nat × Hop

/-- The slots at which a bank's streams enter the mesh at router `r`, whose own core port lies under router `core`: router, input, phase,
cycle. -/
def State.entries (s : State) (r core : Nat) (b : Tab W32) : List (Nat × Nat × Nat × Nat) :=
  (b.filter fun e => e.1 < 16384).flatMap fun e =>
    (((entryOuts e.2.toNat).map (·.2)).eraseDups.filter fun p => p ≠ 0 && s.injects r p).map fun p =>
      (if p = 5 then core else r, p, e.1 / 1024, e.1 % 1024)

/-- The hops of the beats that enter at some slots, as the banks forward them. -/
def State.hopsFrom (s : State) (b : Banks) (l : List (Nat × Nat × Nat × Nat)) : List PhHop :=
  l.flatMap fun e => (s.walk b e.2.2.1 64 [(e.1, e.2.1, e.2.2.2)]).map fun h => (e.2.2.1, h)

/-- The hops of a plate's streams in the banks `b`, detours and all: from the slots at which its tables have them enter. -/
def State.plateHops (s : State) (b : Banks) (img : List Byte) (quads place : List Nat) (v : Nat) : List PhHop :=
  let moved := movedTo img quads place
  s.hopsFrom b <| (slotsFor img quads v).flatMap fun x =>
    s.entries x.2.1 (((moved.find? (·.1 = x.2.1)).map (·.2)).getD x.2.1) x.2.2

/-- The entries of a bank of router `r` as hops: what its tables name, whether or not a beat comes that way. -/
def bankHops (r : Nat) (b : Tab W32) : List PhHop :=
  (b.filter fun e => e.1 < 16384).flatMap fun e =>
    ((entryOuts e.2.toNat).filter fun o => o.2 ≠ 0).map fun o => (e.1 / 1024, ⟨r, o.2, o.1, e.1 % 1024⟩)

/-- The plates in force of the other work cells: image, quadrants, placement, variant. -/
def State.inForce (s : State) (w : Nat) : List (List Byte × List Nat × List Nat × Nat) :=
  (s.pmc.work.filter fun e => e.1 ≠ w).filterMap fun e => e.2.bound.map fun b => (s.plate b.slot, b.quads, b.place, b.variant)

/-- The banks that others have on router `r`: the plates in force of other cells, and the panel's corridors. -/
def State.keepBanks (s : State) (w r : Nat) : List (Tab W32) :=
  ((s.inForce w).flatMap fun e => ((slotsFor e.1 e.2.1 e.2.2.2).filter fun x => x.2.1 = r).map (·.2.2)) ++
    (s.pmc.corridors.filterMap fun c => (c.2.find? (·.1 = r)).map (·.2))

/-- A bank without the plate that left it: NPH and the schedule are those of the tables that stay. -/
def bankSettle (keep : List (Tab W32)) (t : Tab W32) : Tab W32 :=
  let c := t.filter (·.1 < 16384)
  if c.isEmpty && keep.isEmpty then []
  else
    let c := (upTo 16384 16).foldl (fun (t : Tab W32) i =>
      tset t i (((keep.map fun k => tget k i 0).find? (· ≠ 0)).getD 0) 0) c
    tset c 16400 (BitVec.ofNat 32 ((keep.map bankNph).foldl max 1)) 0

/-- Hops go out of the banks, which then keep what is others'. -/
def State.takeOut (s : State) (w : Nat) (hs : List PhHop) (b : Banks) : Banks :=
  let b := hs.foldl (fun b e => s.clearHop e.1 b e.2) b
  ((hs.map (·.2.router)).eraseDups).foldl (fun b r => tput b r (bankSettle (s.keepBanks w r) (s.bankOf b r))) b

/-- What a work cell's plate of variant `v` holds in the banks `b`: its streams' hops, and what else its tables name that no other plate's
stream has taken. -/
def State.ownHops (s : State) (w : Nat) (b : Banks) (bd : Binding) (v : Nat) : List PhHop :=
  let img := s.plate bd.slot
  let others := (s.inForce w).flatMap fun e => s.plateHops b e.1 e.2.1 e.2.2.1 e.2.2.2
  s.plateHops b img bd.quads bd.place v ++
    (((slotsFor img bd.quads v).flatMap fun x => bankHops x.2.1 x.2.2).filter fun h =>
      !others.any fun o => o.1 = h.1 && o.2.router = h.2.router && o.2.out = h.2.out && o.2.cycle % 1024 = h.2.cycle)

/-- The banks `b` without the plate that the work cell has in force: exactly its own entries are removed (R243, R249). -/
def State.without (s : State) (w : Nat) (b : Banks) : Banks :=
  match (s.getWork w).bound with
  | some bd => s.takeOut w (s.ownHops w b bd bd.variant) b
  | none => b

/-! ### The tables of a bind (R206, R242, R243) -/

/-- Nothing of the mesh is retired. -/
def State.meshWhole (s : State) : Bool :=
  s.pmc.detours.isEmpty && s.rtr.all (fun e => !e.2.idle) && s.tile.all fun e => e.2.links.all fun l => l.2.mode ≠ 2 && !l.2.retiring

/-- The panel's corridors on router `r`, in `n` phases. -/
def State.panelBank (s : State) (r n : Nat) : Tab W32 :=
  (s.pmc.corridors.filterMap fun c => (c.2.find? (·.1 = r)).map (·.2)).foldl (fun t b => bankFill t (bankSpread n b)) []

/-- A plate's records go into the banks `b`, which hold nothing of its cell: a footprint router takes the record with what others have
there, a corridor router the record's entries beside its own. -/
def State.lay (s : State) (img : List Byte) (quads : List Nat) (v : Nat) (b : Banks) : Banks :=
  (slotsFor img quads v).foldl (fun (b : Banks) (x : Bool × Nat × Tab W32) =>
    tput b x.2.1 (if x.1 then bankMerge (s.bankOf b x.2.1) x.2.2
      else bankFill (bankMerge x.2.2 (s.bankOf b x.2.1)) (s.panelBank x.2.1 (bankNph x.2.2)))) b

/-- The banks with a plate in the place of what cell `w` has in force, and the detours that moved positions and retired links ask for; and
whether every stream found its route. `b` are banks to take in place of those in force. -/
def State.tables (s : State) (w : Nat) (b : Banks) (img : List Byte) (quads place : List Nat) (v : Nat) : Banks × Bool :=
  let base := s.lay img quads v (s.without w b)
  let moved := movedTo img quads place
  if moved.isEmpty && s.meshWhole then (base, true)
  else match s.reroute ⟨s.retiredOut, moved⟩ ((slotsFor img quads v).map (·.2.1)).eraseDups base with
    | some b => (b, true)
    | none => (base, false)

/-- Banks come into force at once. -/
def State.putBanks (s : State) (b : Banks) : State :=
  b.foldl (fun (s : State) (e : Nat × Tab W32) => s.modRtr e.1 fun r => { r with active := e.2 }) s

/-- The banks armed on routers other than `skip` follow: hops go out of them, and others go in where they are idle, with the streams that
the banks in force give them. -/
def State.follow (s : State) (skip : List Nat) (out into : List PhHop) : State :=
  let on (h : PhHop) : Bool := (s.getRtr h.2.router).arm && !skip.contains h.2.router
  let rs := (((out ++ into).filter on).map (·.2.router)).eraseDups
  let b : Banks := rs.foldl (fun b r => tput b r (s.getRtr r).pending) []
  let b := (out.filter on).foldl (fun b e => s.clearHop e.1 b e.2) b
  let b := (into.filter on).foldl (fun b e =>
    (s.putHop e.1 (entryStream (tget (s.getRtr e.2.router).active (1024 * e.1 + e.2.cycle % 1024) 0).toNat) (some b) e.2).getD b) b
  b.foldl (fun (s : State) (e : Nat × Tab W32) => s.modRtr e.1 fun r => { r with pending := e.2 }) s

/-! ### The panel's corridors (R265, R282, R318) -/

/-- The routers and ports at which a die is attached. -/
def State.attachments (s : State) (u : UnitId) : List (Nat × Nat) :=
  (List.range 576).flatMap fun r => ([1, 2, 3, 4, 6].filter fun p => match s.attach r p with
    | .die v _ => v = u
    | _ => false).map fun p => (r, p)

/-- A corridor's beat crosses some hops in every phase of each router's bank, in cycles that nothing uses, neither in force nor armed, and
that keep the headroom rule. -/
def State.putSlot (s : State) (b : Banks) (hs : List Hop) : Option Banks :=
  let idle (t : Tab W32) (h : Hop) : Bool := (List.range (bankNph t)).all fun ph => !busyAt t h.out (1024 * ph + h.cycle % 1024)
  let free (h : Hop) : Bool := !s.retiredOut h.router h.out && idle (s.bankOf b h.router) h &&
    (!(s.getRtr h.router).arm || idle (s.getRtr h.router).pending h)
  let alone (h : Hop) : Bool := (List.range (bankNph (s.bankOf b h.router))).all fun ph =>
    (entryOuts (tget (s.bankOf b h.router) (1024 * ph + h.cycle % 1024) 0).toNat).all fun o => o.2 ≠ h.inp
  if !(hs.all free && (hs.take 1).all alone) then none
  else (hs.foldl (fun o h =>
      (List.range (max 1 (bankNph (s.bankOf b h.router)))).foldl (fun o ph => s.putHop ph 0 o h) o) (some b)).filter fun b =>
    hs.all fun h => (headroomFail h.router (s.bankOf b h.router)).isNone

/-- `n` slots per round from an attachment to another by the XY route, at the first cycles of a list that are free; with the hops. -/
def State.laySlots (s : State) (a z : Nat × Nat) : List Nat → Nat → Banks × List Hop → Option (Banks × List Hop)
  | _, 0, x => some x
  | [], _ + 1, _ => none
  | k :: l, n + 1, x =>
    match (s.along z.2 (routeXY a.1 z.1) a.1 a.2 k).bind fun hs => (s.putSlot x.1 hs).map fun b => (b, x.2 ++ hs) with
    | some y => s.laySlots a z l n y
    | none => s.laySlots a z l (n + 1) x

/-- One leg of a corridor: from a die to a die, by one of the ports of each, with `slots` slots per round; a Host Gate’s port is `pick`. -/
structure Leg where
  source : UnitId
  dest : UnitId
  slots : Nat
  pick : Option Nat := none
  deriving DecidableEq, Repr

/-- Legs are laid one after the other. Which port of each die, and the cycle from which free ones are taken, are free (log entry 63). -/
def State.layLegs (s : State) (ls : List Leg) (x : Banks × List Hop) : Option (Banks × List Hop) :=
  ls.zipIdx.foldl (fun o e => o.bind fun x =>
    let k (i : Nat) : Nat := Config.choice 105 (s.fresh + 3 * e.2 + i)
    let port (u : UnitId) (i : Nat) : Option (Nat × Nat) :=
      let l := s.attachments u
      match u, e.1.pick with
      | .gate _, some j => l[j]?
      | _, _ => l[k i % max 1 l.length]?
    match port e.1.source 0, port e.1.dest 1 with
    | some a, some z => s.laySlots a z ((upTo (k 2) 1024).map (· % 1024)) e.1.slots x
    | _, _ => none) (some x)

/-- Both ways between two dies. -/
def bothWays (a z : UnitId) (n : Nat) (pick : Option Nat := none) : List Leg := [⟨a, z, n, pick⟩, ⟨z, a, n, pick⟩]

/-- The record of a corridor: its entries of phase 0, by router. -/
def corridorRecord (hs : List Hop) : Banks :=
  hs.foldl (fun b h =>
    let t := tget b h.router []
    tput b h.router (tset t (h.cycle % 1024) (setOut (tget t (h.cycle % 1024) 0) h.out h.inp none) 0)) []

/-- A corridor of the panel is merged into the running banks (R243), and into those armed behind them. Corridors are numbered: 1 of the
host windows, 2 of the fabric, 3 of HBM_COPY. -/
def State.addCorridor (s : State) (key : Nat) (ls : List Leg) : Option State :=
  (s.layLegs ls ([], [])).map fun x =>
    let hs : List PhHop := x.2.flatMap fun h => (List.range (max 1 (bankNph (s.getRtr h.router).pending))).map fun ph => (ph, h)
    (({ s with
      rtr := x.1.foldl (fun (t : Tab Router) (e : Nat × Tab W32) => tset t e.1 { s.getRtr e.1 with active := e.2 } {}) s.rtr
      fresh := s.fresh + 3 * ls.length }).modPmc fun p => { p with corridors := tput p.corridors key (corridorRecord x.2) }).follow [] [] hs

/-- A corridor's entries are removed. -/
def State.dropCorridor (s : State) (key : Nat) : State :=
  let rec_ : Banks := tget s.pmc.corridors key []
  let slots := rec_.flatMap fun e => s.entries e.1 e.1 e.2
  let hs := s.hopsFrom [] (slots.flatMap fun (e : Nat × Nat × Nat × Nat) => (List.range 16).map fun ph => (e.1, e.2.1, ph, e.2.2.2))
  let s := s.modPmc fun p => { p with corridors := tdel p.corridors key }
  (s.follow [] hs []).putBanks (s.takeOut 96 hs [])

/-- The corridors of the cold start (R265, R282): between each Host Gate's ports and the dies of its window stacks, whose number of slots
the spec does not give (free, log entry 63); and 8 slots per round between each Fabric I/O die and each reservoir die. -/
def State.bootCorridors (s : State) : State :=
  let n := 1 + Config.choice 105 s.fresh % 8
  let s := { s with fresh := s.fresh + 1 }
  let host := (s.pmc.westTaken.map fun h => (0, h)) ++ s.pmc.eastTaken.map fun h => (1, h)
  let s := (s.addCorridor 1 (host.flatMap fun e => (List.range 8).flatMap fun j => bothWays (.gate e.1) (.res e.2) n (some j))).getD s
  let fios := (List.range 8).filter s.fioFitted
  (s.addCorridor 2 (fios.flatMap fun f => (List.range 48).flatMap fun h => bothWays (.fio f) (.res h) 8)).getD s

end Sys2Proof.Machine
end

