-- ==== Sys2Proof/Machine/Regions.lean ====
section
/-! DEFINITION. The commands over memory regions: RES_SPLIT (R267, R268), PUBLISH (R297) and HBM_COPY (R318). -/

namespace Sys2Proof.Machine

def eResSplitRange : Nat := 0x0A01
def eResSplitRegion : Nat := 0x0A02
def eResSplitSoon : Nat := 0x0A03
def ePubRange : Nat := 0x0B06
def ePubFull : Nat := 0x0B07
def ePubWriter : Nat := 0x0B08
def eFabTooSoon : Nat := 0x0B0A
def ePlateOverlap : Nat := 0x0906
def ePlateSlots : Nat := 0x0909

/-! ### RES_SPLIT (R268) -/

/-- A range of memory is written with zero. -/
def State.zero (s : State) (a n : Nat) : State :=
  { s with
    mem := s.mem.filter fun e => e.1 < a || a + n ≤ e.1
    undef := undefCut s.undef a (a + n)
    poison := s.poison.filter fun w => !touches a n w
    flips := s.flips.filter fun e => !touches a n e.1 }

/-- The plates in force at a frame: quadrants, placement, image. -/
def State.platesAt (s : State) (f : W64) : List (List Nat × List Nat × List Byte) :=
  s.pmc.work.flatMap fun e => (e.2.boundAt f).toList.map fun b => (e.2.quadsAt f, b.place, s.plate b.slot)

/-- A plate bound at F has a window REGION on die `r` beyond `win` (R268). -/
def State.windowUsed (s : State) (f : W64) (r win : Nat) : Bool :=
  (s.platesAt f).any fun e => (regions e.2.2).any fun g =>
    bits g.1 12 4 = 2 && refDie e.1 g.1 = r && win * 0x1000000 < g.2.2.2.1 + g.2.2.2.2

/-- R268: RES_SPLIT. Window space being added is written with zero. -/
def execResSplit (s : State) : Out :=
  s.command 0x31 [0xFFF, fullWord, fullWord] fun c s =>
    let win := bits (c.w 0) 8 4
    let id := bits (c.w 0) 0 8
    let f := c.frame 1
    let dies := if id = 255 then List.range 48 else [id]
    if 8 < win || (47 < id && id ≠ 255) then s.finish c eResSplitRange
    else if dies.any fun r => s.windowUsed f r win then s.finish c eResSplitRegion
    else if s.tooSoon f || dies.any fun r => (s.getStack r).winNext.isSome then s.finish c eResSplitSoon
    else
      let s := s.each dies fun s r =>
        let old := (s.getStack r).win
        let s := (s.modStack r fun t => { t with winNext := some (win, f) }).modFab fun x => { x with
          remotes := x.remotes.map fun z => if z.op = 4 && cacheDie z.core = r then { z with early := true } else z }
        if old < win then s.zero (winBase r + old * 0x1000000) ((win - old) * 0x1000000) else s
      (s.override (dies.map .split) f).finish c 0

/-- At Shutter F the new split is in force: lines in space that became window go, and window space that became cache is
discarded (R268). Which lines lie in the space that leaves the cache is free (log entry 32). -/
def State.splitTick (s : State) (r : Nat) : State :=
  let t := s.getStack r
  match t.winNext with
  | none => s
  | some e =>
    if s.pmc.frame < e.2 then s
    else
      let k := s.fresh
      let keep (l : Line) : Bool := e.1 < 8 && (e.1 ≤ t.win || Config.choice 113 (k + l.tag) % 2 = 0)
      let s := ({ s with fresh := k + 1 }).setStack r { t with win := e.1, winNext := none, cache := t.cache.filter keep }
      if e.1 < t.win then s.zero (winBase r + e.1 * 0x1000000) ((t.win - e.1) * 0x1000000) else s

/-! ### PUBLISH (R297) -/

/-- The range lies in stacks of the pool or in a window in force. -/
def State.inPoolOrWindow (s : State) (a len : Nat) : Bool :=
  if a < 48 * stackSize then
    a + len ≤ 48 * stackSize &&
      (upTo (a / stackSize) ((a + len - 1) / stackSize - a / stackSize + 1)).all fun h => !s.inHost h
  else if 0x100000000000 ≤ a && a < 0x100000000000 + 48 * 0x8000000 then
    let r := (a - 0x100000000000) / 0x8000000
    a + len ≤ winBase r + (s.getStack r).win * 0x1000000
  else false

/-- R297: PUBLISH. A length of zero is a no-op (R10): it makes no entry, so that the entry number it answers is free (log entry 122). -/
def execPublish (s : State) : Out :=
  s.command 0x32 [fullWord, fullWord, fullWord, fullWord, 0xFFFF, fullWord, fullWord] fun c s =>
    let a := c.w64 0
    let len := c.w64 2
    let lease := c.w 4
    let f := c.frame 5
    let now := s.hallFrame
    let stop : W64 := f + BitVec.ofNat 64 lease - 1
    let same := s.fab.pub.find? fun e => s.pubActive e.2 && e.2.base = a && e.2.len = len
    let free := (List.range 64).find? fun i => !(s.fab.pub.any fun e => e.1 = i && s.pubActive e.2)
    if a % 2048 ≠ 0 || len % 2048 ≠ 0 || (len ≠ 0 && !s.inPoolOrWindow a len) then s.finish c ePubRange
    else if lease = 0 then s.finish c eTarget
    else if s.writerRegions.any fun w => overlap w.1 w.2 a len then s.finish c ePubWriter
    else if f.toNat < now.toNat + 2 then s.finish c eFabTooSoon
    else if len = 0 then s.free.2.finish c 0 [s.free.1]
    else match same with
      | some e =>
        let p := { e.2 with stop := if e.2.stop < stop then stop else e.2.stop }
        (s.modFab fun x => { x with pub := x.pub.map fun y => if y.1 = e.1 then (y.1, p) else y }).finish c 0
          [BitVec.ofNat 32 e.1]
      | none =>
        match free with
        | none => s.finish c ePubFull
        | some i =>
          let p : Pub := { base := a, len := len, start := f, stop := stop }
          (s.modFab fun x => { x with
            pub := (x.pub.filter fun y => y.1 < i) ++ (i, p) :: x.pub.filter fun y => i < y.1 }).finish c 0
            [BitVec.ofNat 32 i]

/-! ### HBM_COPY (R318) -/

/-- The range lies in stacks of the accelerator pool. -/
def State.inPool (s : State) (a len : Nat) : Bool := a < 48 * stackSize && s.inPoolOrWindow a len

/-- The stacks of a copy's source, and those of its destination. -/
def State.copyFrom (s : State) (k : Copy) : List Nat :=
  (upTo (k.src / stackSize) ((k.src + k.len - 1) / stackSize - k.src / stackSize + 1)).map fun i => (s.winStacks k.site).getD i 0
def copyTo (k : Copy) : List Nat := upTo (k.dst / stackSize) ((k.dst + k.len - 1) / stackSize - k.dst / stackSize + 1)
def State.copyStacks (s : State) (k : Copy) : List Nat := s.copyFrom k ++ copyTo k

/-- R318: HBM_COPY, with a corridor of 64 slots per round from each source stack's die to each destination stack's (log entry 62). The command
stays at the head of the queue until the last sector is written. -/
def execHbmCopy (s : State) : Out :=
  s.command 0x35 [fullWord, fullWord, fullWord, fullWord, fullWord, fullWord] fun c s =>
    let off := c.w64 0
    let dst := c.w64 2
    let len := c.w64 4
    if off % 4096 ≠ 0 || dst % 2048 ≠ 0 || len % 2048 ≠ 0 || s.winSize c.site < off + len ||
        (len ≠ 0 && !s.inPool dst len) then s.finish c eTarget
    else if s.writerRegions.any fun w => overlap w.1 w.2 dst len then s.finish c ePlateOverlap
    else if s.fab.pub.any fun e => s.pubActive e.2 && overlap e.2.base e.2.len dst len then s.finish c ePublished
    else if len = 0 then s.finish c 0
    else
      let k : Copy := { site := c.site, mb := c.mb, src := off, dst := dst, len := len }
      match s.addCorridor 3 ((s.copyFrom k).flatMap fun a => (copyTo k).map fun z => ⟨.res a, .res z, 64, none⟩) with
      | none => s.finish c ePlateSlots
      | some s => (s.stamp c).modPmc fun p => { p with copy := some k }

/-- R318: the last sector is written at the destination, each word with its poison, and the command is DONE. -/
def execHbmCopyDone (s : State) : Out :=
  match s.pmc.copy with
  | none => .next s -- nothing, unless a copy runs
  | some k =>
    due s (!(s.copyStacks k).any fun h => (s.getStack h).quiet || (s.getStack h).stepBusy) <| -- no stack of the copy is quiet
    let r := s.winRead k.site k.src k.len
    let s := ((r.2.putBytes k.dst r.1).dropCorridor 3).modPmc fun p => { p with copy := none }
    .next ((s.close (s.cmdAt k.site k.mb) 0 [] 0).skipUnknown 32)

end Sys2Proof.Machine
end

