-- ==== Sys2Proof/Machine/Manifest.lean ====
section
/-! DEFINITION. Manifests: their format (R438 to R440), their verification (R441, R442), and the plate-signing slots with
KEY_ENROL and KEY_REVOKE (R443). -/

namespace Sys2Proof.Machine

/-! ### Format (R438, R439) -/

def manFirmware : Nat := 1
def manPlate : Nat := 2
def manEnrol : Nat := 3

def manKind (m : List Byte) : Nat := bits (plWord m 1) 16 16
def manSeq (m : List Byte) : Nat := plWord m 3
def manRevEc (m : List Byte) : Nat := bits (plWord m 4) 20 4
def manRevLms (m : List Byte) : Nat := bits (plWord m 4) 16 4
def manHall (m : List Byte) : Bool := bitOf (plWord m 4) 9
def manBurn (m : List Byte) : Bool := bitOf (plWord m 4) 8
def manArb (m : List Byte) : Nat := bits (plWord m 4) 0 7
def manSigner (m : List Byte) : Nat := bits (plWord m 5) 28 4
def manEc (m : List Byte) : Nat := bits (plWord m 5) 26 2
def manLms (m : List Byte) : Nat := bits (plWord m 5) 24 2
def manSerial (m : List Byte) : Nat := plWord m 6 + 2 ^ 32 * plWord m 7
def manRoot (m : List Byte) : Bool := manSigner m = 1

/-- Body lengths (R439). -/
def manBodyLen (kind : Nat) : Nat := if kind = manFirmware then 256 else if kind = manPlate then 64 else 192
/-- The whole manifest's length. -/
def manLen (kind : Nat) (root : Bool) : Nat := 64 + manBodyLen kind + (if root then 640 else 0) + 1920

def manBody (m : List Byte) : List Byte := (m.drop 64).take (manBodyLen (manKind m))
def manKeys (m : List Byte) : List Byte := (m.drop (64 + manBodyLen (manKind m))).take 640
/-- The signed message, and the two signatures. -/
def manMessage (m : List Byte) : List Byte := m.take (m.length - 1920)
def manSigEc (m : List Byte) : List Byte := (m.drop (m.length - 1920)).take 96
def manSigLms (m : List Byte) : List Byte := (m.drop (m.length - 1824)).take 1772

def zeros (bs : List Byte) : Bool := bs.all (· = 0)

/-- Word `w` of the image entry of target `t` (R440). -/
def fwWord (m : List Byte) (t w : Nat) : Nat := plWord m (16 + 16 * t + w)
def fwPresent (m : List Byte) (t : Nat) : Bool := bitOf (fwWord m t 0) 29
def fwLength (m : List Byte) (t : Nat) : Nat := fwWord m t 1
def fwHash (m : List Byte) (t : Nat) : List Byte := (m.drop (64 + 64 * t + 16)).take 48

/-- Largest image of a target (R440). -/
def fwMax (t : Nat) : Nat := if t = 0 then 0x800000 else if t = 1 then 0x80000 else 0x400000

/-- An image entry's length keeps to R440. -/
def fwEntryOk (m : List Byte) (t : Nat) : Bool :=
  fwLength m t ≠ 0 && fwLength m t % 64 = 0 && fwLength m t ≤ fwMax t

/-- An image entry's TARGET, reserved field and DATA_OFF keep to R440. -/
def fwEntryForm (m : List Byte) (t : Nat) : Bool :=
  bits (fwWord m t 0) 30 2 = t && bits (fwWord m t 0) 0 29 = 0 &&
    (if fwPresent m t then fwWord m t 3 % 64 = 0 else fwWord m t 3 = 0)

/-- The first check of R441: MAGIC, KIND, FMT, TOTAL_LEN, reserved fields, zero rules. The lengths of the images are checked apart:
they have a status of their own (R458). -/
def manFormat (m : List Byte) (kind : Nat) : Bool :=
  plWord m 0 = 0x54534E4D && manKind m = kind && bits (plWord m 1) 0 16 = 1 && plWord m 2 = m.length &&
    (manSigner m = 1 || manSigner m = 2) && m.length = manLen kind (manRoot m) &&
    bits (plWord m 4) 24 8 = 0 && bits (plWord m 4) 10 6 = 0 && !bitOf (plWord m 4) 7 && bits (plWord m 5) 0 24 = 0 &&
    (upTo 8 8).all (fun i => plWord m i = 0) &&
    (if kind = manFirmware then manSeq m ≠ 0 && manArb m ≤ 64 else plWord m 4 = 0) &&
    (kind ≠ manPlate || manSeq m = 0) && (manRoot m || manLms m = manEc m) &&
    (!manRoot m || zeros ((manKeys m).drop 608)) && zeros ((m.drop (m.length - 52)).take 52) &&
    (if kind = manFirmware then (List.range 4).all (fwEntryForm m)
     else if kind = manPlate then zeros ((manBody m).drop 48)
     else if kind = manEnrol then bits (plWord m 16) 2 30 = 0 && zeros ((manBody m).drop 156)
     else true)

/-! ### Verification (R441, R442) -/

def State.keySlot (s : State) (k : Nat) : KeySlot := tget s.sec.slots k {}
def State.setKeySlot (s : State) (k : Nat) (v : KeySlot) : State :=
  s.modSec fun x => { x with slots := tset x.slots k v {} }

/-- The two keys that a manifest names, where they may be used. -/
def State.manKeyPair (s : State) (m : List Byte) : Option (List Byte × List Byte) :=
  if manRoot m then
    let k := manKeys m
    if Config.sha384 (k.take 384) ≠ s.sec.rootEc || Config.sha384 ((k.drop 384).take 224) ≠ s.sec.rootLms then none
    else if s.sec.revEc.getLsbD (manEc m) || s.sec.revLms.getLsbD (manLms m) then none
    else some ((k.drop (96 * manEc m)).take 96, (k.drop (384 + 56 * manLms m)).take 56)
  else
    let v := s.keySlot (manEc m)
    if v.filled && !v.revoked then some (v.ec, v.lms) else none

/-- Format, signer and both signatures; then TARGET_SERIAL. -/
def State.manSigned (s : State) (m : List Byte) (kind : Nat) : Bool :=
  manFormat m kind &&
    (match kind with
     | 1 => manRoot m
     | 2 => !manRoot m
     | _ => manRoot m || manEc m = 0) &&
    (match s.manKeyPair m with
     | some k => Config.ecdsaVerify k.1 (manMessage m) (manSigEc m) && Config.lmsVerify k.2 (manMessage m) (manSigLms m)
     | none => false) &&
    (manSerial m = 0 || manSerial m = s.sec.serial.toNat)

/-- A manifest has failed: SEC_CNT_VERIFY_FAIL (R442, R460). -/
def State.verifyFail (s : State) : State := s.countPmc 0x0FA0 1

/-- ENROL (R442). -/
def State.enrolOk (s : State) (m : List Byte) : Bool :=
  let k := bits (plWord m 16) 0 2
  s.manSigned m manEnrol && (k ≠ 0 || (manRoot m && manSerial m = s.sec.serial.toNat && manSerial m ≠ 0)) &&
    (s.keySlot k).number.toNat < manSeq m

/-- PLATE (R240, R442): the digest covers the plate up to its SIGNATURE section. -/
def State.plateSigned (s : State) (img : List Byte) : Bool :=
  match (plSecs img).getLast? with
  | some x =>
    let m := secBytes img x
    s.manSigned m manPlate && (manBody m).take 48 = Config.sha384 (img.take x.off)
  | none => false

/-- The slot that signed a plate. -/
def plateSlot (img : List Byte) : Nat :=
  match (plSecs img).getLast? with
  | some x => manEc (secBytes img x)
  | none => 0

/-! ### Slots (R443, R317) -/

/-- The store slots of the plates bound or accepted. -/
def State.usedSlots (s : State) : List Nat :=
  s.pmc.work.flatMap fun e => (e.2.bound.toList ++ e.2.next.toList).map (·.slot)

/-- What a stored plate becomes when slot `k` is replaced or revoked. -/
def Stored.drop (k : Nat) (used : List Nat) (e : Nat × Stored) : Option (Nat × Stored) :=
  if e.2.keySlot ≠ k then some e
  else if used.contains e.1 then some (e.1, { e.2 with doomed := true })
  else none

/-- Stored plates signed under slot `k` are deleted; bound ones go when they are unbound. -/
def State.dropSigned (s : State) (k : Nat) : State :=
  let used := s.usedSlots
  s.modPmc fun p => { p with store := p.store.filterMap (Stored.drop k used) }

/-- Plates that wait to go, and are bound no more. -/
def State.dropDoomed (s : State) : State :=
  let used := s.usedSlots
  s.modPmc fun p => { p with store := p.store.filter fun (e : Nat × Stored) => !e.2.doomed || used.contains e.1 }

def eKeySig : Nat := 0x0C0C

/-- R316, R443: KEY_ENROL. -/
def execKeyEnrol (s : State) : Out :=
  s.vilsal 0x24 (fun _ => true)
    (fun c => if c.w 1 = 2176 || c.w 1 = 2816 then 8 + c.w 1 else c.argLen + 1) [3, fullWord] fun c s =>
    let m := (wordBytes ((c.args.drop 2).map (BitVec.ofNat 32))).take (c.w 1)
    let k := c.w 0
    if !s.enrolOk m || bits (plWord m 16) 0 2 ≠ k then s.verifyFail.finish c eKeySig
    else
      let s := if (s.keySlot k).filled then s.dropSigned k else s
      (s.setKeySlot k {
        filled := true
        ec := ((manBody m).drop 4).take 96
        lms := ((manBody m).drop 100).take 56
        number := BitVec.ofNat 32 (manSeq m)
        revoked := false }).finish c 0

/-- R316, R443: KEY_REVOKE of a slot that holds keys. -/
def execKeyRevoke (s : State) : Out :=
  s.command 0x25 [3] fun c s =>
    let v := s.keySlot (c.w 0)
    if !v.filled then s.finish c eTarget
    else ((s.setKeySlot (c.w 0) { v with filled := false, ec := [], lms := [], revoked := true }).dropSigned (c.w 0)).finish c 0

end Sys2Proof.Machine
end

