-- ==== Sys2Proof/Machine/PlateCheck.lean ====
section
/-! DEFINITION. The checks of R241: 1 to 3 on a plate file, 4 to 13 on a bind. -/

namespace Sys2Proof.Machine

/-! ### Statuses (R250) -/

def ePlateFormat : Nat := 0x0901
def ePlateCrc : Nat := 0x0902
def ePlateSig : Nat := 0x0903
def ePlateFit : Nat := 0x0904
def ePlateFrame : Nat := 0x0905
def ePlateBounds : Nat := 0x0907
def ePlateReloc : Nat := 0x0908
def ePlateUtil : Nat := 0x090A
def ePlatePlace : Nat := 0x090B
def ePlateCtl : Nat := 0x090C
def ePlateTime : Nat := 0x090D
def ePlatePower : Nat := 0x090E
def ePlateMemtime : Nat := 0x090F
def ePlateSlice : Nat := 0x0910
def ePlateSparse : Nat := 0x0911
def ePlateCost : Nat := 0x0912
def ePlateTooSoon : Nat := 0x0913

/-- A failed check: its status, and the section that failed where there is one, with the record where there is one. -/
structure Bad where
  code : Nat
  place : Option (Nat × Option Nat) := none
  deriving DecidableEq, Repr

/-- The first of a list of checks that fails. -/
def firstBad (l : List (Unit → Option Bad)) : Option Bad :=
  match l with
  | [] => none
  | f :: r => match f () with
    | some b => some b
    | none => firstBad r

/-- A condition as a check. -/
def need (ok : Bool) (b : Bad) : Option Bad := if ok then none else some b

/-- The place of the section of a type that serves a variant. -/
def plPlace (img : List Byte) (type var : Nat) : Nat :=
  match (plSecs img).findIdx? (fun x => x.type = type && x.var = var) with
  | some i => i
  | none => ((plSecs img).findIdx? (fun x => x.type = type && x.var = 0)).getD 0

/-- Record `r` of the section of a type fails; the section fails without one record of it. -/
def badIn (img : List Byte) (code type r : Nat) : Bad := { code := code, place := some (plPlace img type 0, some r) }
def badSec (img : List Byte) (code type : Nat) : Bad := { code := code, place := some (plPlace img type 0, none) }

/-! ### Check 1 (R222 to R224) -/

/-- The first section that leaves the plate, or starts before the one ahead of it ends. -/
def tableBad (img : List Byte) : Option Nat :=
  (List.range (plNsec img)).find? fun i =>
    let x := plSec img i
    let start := if i = 0 then 64 + pad64 (16 * plNsec img) else
      let y := plSec img (i - 1)
      pad64 (y.off + y.len)
    x.off < start || img.length < x.off + x.len

/-- Bytes [a, b) of the plate are zero. -/
def zeroFrom (img : List Byte) (a b : Nat) : Bool := ((img.drop a).take (b - a)).all (· = 0)

/-- The first section with a byte ahead of it, or between its end and the next 64-byte boundary, that is not zero; or the last, where
the plate goes on behind it (R221). -/
def padBad (img : List Byte) : Option Nat :=
  (List.range (plNsec img)).find? fun i =>
    let x := plSec img i
    let start := if i = 0 then 64 + 16 * plNsec img else (plSec img (i - 1)).off + (plSec img (i - 1)).len
    !(zeroFrom img start x.off && zeroFrom img (x.off + x.len) (pad64 (x.off + x.len))) ||
      (i + 1 = plNsec img && img.length ≠ pad64 (x.off + x.len))

/-- Types with exactly one section, and with at most one (R224). -/
def typesOne : List Nat := [0x01, 0x02, 0x04, 0x07, 0x09, 0x0A, 0x0B, 0x0C, 0x0D, 0x0F]
def typesOpt : List Nat := [0x05, 0x0E]

/-- A section that its type or VAR does not allow. -/
def secBad (img : List Byte) (x : Sec) : Bool :=
  if x.type = 0x06 || x.type = 0x08 then plNvar img < x.var
  else if 0x01 ≤ x.type && x.type ≤ 0x0F then x.var ≠ 0
  else bits (plWord img 1) 0 16 = 0

/-- The counts of R224 hold. -/
def countsOk (img : List Byte) : Bool :=
  let n (t : Nat) : Nat := ((plSecs img).filter (·.type = t)).length
  let nv (t v : Nat) : Nat := ((plSecs img).filter fun x => x.type = t && x.var = v).length
  typesOne.all (n · = 1) && typesOpt.all (n · ≤ 1) &&
    [0x06, 0x08].all (fun t => nv t 0 ≤ 1 && (upTo 1 (plNvar img)).all fun v =>
      nv t v = 1 || (nv t v = 0 && nv t 0 = 1)) &&
    (match (plSecs img).getLast? with
     | some x => x.type = 0x0F
     | none => false)

/-- Check 1. -/
def check1 (img : List Byte) : Option Bad :=
  firstBad [
    fun _ => need (plWord img 0 = 0x32344E50 && bits (plWord img 1) 16 16 = 1) { code := ePlateFormat },
    fun _ => need (plWord img 15 = (crc32c (img.take 60)).toNat) { code := ePlateCrc },
    fun _ => need (64 ≤ img.length && plTotal img = img.length && img.length % 64 = 0) { code := ePlateFormat },
    fun _ => need (64 + 16 * plNsec img ≤ img.length) { code := ePlateFormat },
    fun _ => (tableBad img).map fun i => { code := ePlateFormat, place := some (i, none) },
    fun _ => (padBad img).map fun i => { code := ePlateFormat, place := some (i, none) },
    fun _ => ((plSecs img).findIdx? (secBad img)).map fun i => { code := ePlateFormat, place := some (i, none) },
    fun _ => need (countsOk img) { code := ePlateFormat },
    fun _ => ((plSecs img).findIdx? fun x => (crc32c (secBytes img x)).toNat ≠ x.crc).map fun i =>
      { code := ePlateCrc, place := some (i, none) }]

/-! ### Check 3 (R225 to R238) -/

/-- The status of a record's tests: structure, reserved fields, non-zero fields. -/
def recCode (ok res nz : Bool) : Option Nat :=
  if !ok then some ePlateFormat else if !res then some eReserved else if !nz then some eZero else none

/-- A unit reference of one of some types (R226), and its reserved bits. -/
def unitOk (img : List Byte) (types : List Nat) (ref : Nat) : Bool :=
  types.contains (bits ref 12 4) &&
    (if bits ref 12 4 = 3 then bits ref 0 12 < plPos img else bits ref 8 4 < plW img && bits ref 4 4 < plH img)
def unitRes (ref : Nat) : Bool := bits ref 12 4 = 3 || bits ref 1 3 = 0

/-- Header: ranges, reserved fields, non-zero fields (R222). -/
def headerBad (img : List Byte) : Option Nat :=
  let z (v lo hi : Nat) : Bool := v = 0 || (lo ≤ v && v ≤ hi)
  recCode
    (z (plS img) 4 255 && z (plT img) 50 20000 && z (plW img) 1 12 && z (plH img) 1 8 && 4 ≤ plCpq img &&
      plCpq img ≤ 5 && z (plNvar img) 1 8 && (plHead img < plPos img || plPos img = 0) &&
      (plTail img < plPos img || plPos img = 0))
    (bits (plWord img 2) 16 16 = 0 && bits (plWord img 4) 6 26 = 0 && bits (plWord img 8) 24 8 = 0 &&
      !bitOf (plWord img 8) 15 && bits (plWord img 9) 28 4 = 0 && (upTo 12 3).all fun i => plWord img i = 0)
    (plNsec img ≠ 0 && plS img ≠ 0 && plT img ≠ 0 && plW img ≠ 0 && plH img ≠ 0 && plD img ≠ 0 && plNvar img ≠ 0)

/-- Records of one size: their number, where it is fixed, and each record's tests on its words. -/
def fixedBad (img : List Byte) (x : Sec) (size : Nat) (count : Option Nat) (f : (Nat → Nat) → Nat → Option Nat) :
    Option (Nat × Option Nat) :=
  let n := x.len / size
  if x.len % size ≠ 0 || (match count with
      | some k => n ≠ k
      | none => false) then some (ePlateFormat, none)
  else (List.range n).findSome? fun r => (f (recWord img x size r) r).map fun c => (c, some r)

/-- Records of varying length, each found from the one before; the last one ends the section. Of those with a key, no two have
the same, and there are `count` of them. -/
def variedBad (img : List Byte) (x : Sec) (size : Nat → Nat → Nat) (fuel : Nat) (key : Nat → Option Nat)
    (count : Nat) (f : Nat → Option Nat) : Option (Nat × Option Nat) :=
  let os := recOffsets img size (x.off + x.len) fuel x.off
  let ks := os.map key
  let stop := match os.getLast? with
    | some o => o + size (plWord img (o / 4)) (plWord img (o / 4 + 1))
    | none => x.off
  let twice (i : Nat) : Bool := match ks.getD i none with
    | some k => (ks.take i).contains (some k)
    | none => false
  match (List.range os.length).findSome? fun i =>
      (if twice i then some ePlateFormat else f (os.getD i 0)).map fun c => (c, some i) with
  | some b => some b
  | none => if stop < x.off + x.len || (ks.filterMap id).length ≠ count then some (ePlateFormat, none) else none

/-- POSITION (R225). -/
def positionBad (img : List Byte) (x : Sec) : Option (Nat × Option Nat) :=
  fixedBad img x 32 (some (plPos img)) fun w r =>
    let q := posQuad img r
    let first := r / plCpq img * plCpq img
    recCode
      (bits (w 0) 24 4 = q.1 && bits (w 0) 20 4 = q.2 && bits (w 0) 16 4 = r % plCpq img && bits (w 0) 0 3 ≤ 5 &&
        bits (w 2) 0 15 ≤ 16384 &&
        (upTo first (r - first)).all fun p => bits (recWord img x 32 p 0) 0 3 ≠ bits (w 0) 0 3)
      (bits (w 0) 28 4 = 0 && bits (w 0) 3 13 = 0 && bits (w 1) 18 14 = 0 && bits (w 2) 15 17 = 0 &&
        bits (w 3) 20 12 = 0 && bits (w 4) 1 31 = 0 && bits (w 5) 5 27 = 0 && w 6 = 0 && w 7 = 0)
      true

/-- CADDY (R170): reserved bits of its entries; words 2 and 3 of a transient entry are ignored. -/
def caddyBad (img : List Byte) (x : Sec) : Option (Nat × Option Nat) :=
  fixedBad img x 4096 (some (plPos img)) fun w _ =>
    recCode true ((List.range 256).all fun h => bits (w (4 * h + 1)) 25 7 = 0 && bits (w (4 * h + 1)) 9 7 = 0 &&
      (!bitOf (w (4 * h)) 30 || bits (w (4 * h + 3)) 16 15 = 0)) true

/-- IMAGE (R228). -/
def imageBad (img : List Byte) (x : Sec) : Option (Nat × Option Nat) :=
  variedBad img x (fun n _ => pad64 (32 + n)) (x.len / 64 + 1) (fun _ => none) 0 fun o =>
    let w (i : Nat) : Nat := plWord img (o / 4 + i)
    recCode
      (o + 32 + w 0 ≤ x.off + x.len && w 0 % 32 = 0 && unitOk img [1, 2] (bits (w 1) 16 16) && w 2 % 32 = 0)
      (unitRes (bits (w 1) 16 16) && bits (w 1) 0 16 = 0 && (upTo 4 4).all fun i => w i = 0) true

/-- REGION (R227). -/
def regionBad (img : List Byte) (x : Sec) : Option (Nat × Option Nat) :=
  fixedBad img x 32 none fun w _ =>
    recCode (unitOk img [1, 2] (bits (w 0) 16 16) && w 2 % 2048 = 0 && w 4 % 2048 = 0)
      (unitRes (bits (w 0) 16 16) && bits (w 0) 2 14 = 0 && w 1 = 0 && w 6 = 0 && w 7 = 0) true

/-- RELOC (R229): WHAT is judged by check 6. -/
def relocBad (img : List Byte) (x : Sec) : Option (Nat × Option Nat) :=
  fixedBad img x 8 none fun w _ =>
    recCode (bits (w 0) 16 16 < plPos img && unitOk img [1, 2, 3] (bits (w 1) 16 16))
      (unitRes (bits (w 1) 16 16) && bits (w 1) 0 16 = 0) true

/-- A router that a SLOTS or LINKUTIL header word names (R230). -/
def routerOk (img : List Byte) (w0 : Nat) : Bool :=
  if bitOf w0 31 then bits w0 15 5 ≤ 23 && bits w0 10 5 ≤ 23
  else bits w0 24 4 < plW img && bits w0 20 4 < plH img && bits w0 0 3 ≤ 5

/-- SLOTS (R230): every footprint router has exactly one record. -/
def slotsBad (img : List Byte) (x : Sec) : Option (Nat × Option Nat) :=
  variedBad img x (fun _ n => pad64 (8 + 4 * n)) 1024
    (fun o =>
      let w := plWord img (o / 4)
      if bitOf w 31 then none else some ((bits w 20 4 * 16 + bits w 24 4) * 8 + bits w 0 3))
    (6 * plW img * plH img) fun o =>
      let w0 := plWord img (o / 4)
      let n := plWord img (o / 4 + 1)
      recCode
        (routerOk img w0 && o + 8 + 4 * n ≤ x.off + x.len && 17 ≤ n &&
          n = 1024 * bits (plWord img (o / 4 + 2 + (n - 1))) 0 5 + 17)
        (bits w0 28 3 = 0 && bits w0 3 7 = 0) true

/-- LINKUTIL (R231). -/
def linkutilBad (img : List Byte) (x : Sec) : Option (Nat × Option Nat) :=
  fixedBad img x 8 none fun w _ =>
    recCode (routerOk img (w 0) && bits (w 1) 0 10 ≤ 819) (bits (w 0) 28 3 = 0 && bits (w 0) 3 7 = 0 && bits (w 1) 12 20 = 0)
      true

/-- The sums of a CURRENT record's steps in order, from BASE. -/
def curSums (base : Int) : List Int → List Int
  | [] => []
  | d :: r => (base + d) :: curSums (base + d) r

/-- CURRENT (R232): every plate quadrant has exactly one record. Two steps may stand at one CYCLE (log entry 64). -/
def currentBad (img : List Byte) (x : Sec) : Option (Nat × Option Nat) :=
  variedBad img x (fun w _ => 8 + 8 * bits w 0 16) 128
    (fun o => some (bits (plWord img (o / 4)) 20 8)) (plW img * plH img) fun o =>
      let w0 := plWord img (o / 4)
      let w1 := plWord img (o / 4 + 1)
      let n := bits w0 0 16
      let cyc (i : Nat) : Nat := plWord img (o / 4 + 2 + 2 * i)
      let st (i : Nat) : Nat := plWord img (o / 4 + 3 + 2 * i)
      let base : Int := bits w1 0 16
      let sums := base :: curSums base ((List.range n).map fun i => toSigned 8 (st i))
      recCode
        (bits w0 24 4 < plW img && bits w0 20 4 < plH img && o + 8 + 8 * n ≤ x.off + x.len &&
          (List.range (n - 1)).all (fun i => cyc i ≤ cyc (i + 1)) && sums.all (0 ≤ ·) &&
          sums.foldl max 0 = (bits w1 16 16 : Nat))
        (bits w0 28 4 = 0 && bits w0 16 4 = 0 && (List.range n).all fun i => bits (st i) 8 24 = 0) true

/-- MEMTIME (R233). -/
def memtimeBad (img : List Byte) (x : Sec) : Option (Nat × Option Nat) :=
  fixedBad img x 16 none fun w _ =>
    recCode (unitOk img [1] (bits (w 0) 16 16) && (bits (w 2) 16 16 = 0 || bits (w 2) 0 16 < bits (w 2) 16 16))
      (unitRes (bits (w 0) 16 16) && bits (w 0) 0 16 = 0 && bits (w 1) 16 16 = 0 && w 3 = 0)
      (bits (w 2) 16 16 ≠ 0)

/-- SLICE (R235). -/
def sliceBad (img : List Byte) (x : Sec) : Option (Nat × Option Nat) :=
  fixedBad img x 16 none fun w _ =>
    recCode (1 ≤ bits (w 0) 28 4 && bits (w 0) 28 4 ≤ 3 && (bits (w 0) 28 4 = 3 || bits (w 0) 0 5 = 0))
      (bits (w 0) 5 23 = 0 && w 3 = 0) true

/-- SPARSE (R236). -/
def sparseBad (img : List Byte) (x : Sec) : Option (Nat × Option Nat) :=
  fixedBad img x 8 none fun w _ =>
    recCode (bits (w 0) 16 16 < plPos img) (bits (w 0) 14 2 = 0 && bits (w 1) 25 7 = 0) true

/-- COST (R237). -/
def costBad (img : List Byte) (x : Sec) : Option (Nat × Option Nat) :=
  fixedBad img x 64 (some 1) fun w _ =>
    recCode (bits (w 0) 0 3 ≤ 4) (bits (w 0) 3 29 = 0 && (upTo 12 4).all fun i => w i = 0) (w 1 ≠ 0)

/-- VARIANT (R238). -/
def variantBad (img : List Byte) (x : Sec) : Option (Nat × Option Nat) :=
  fixedBad img x 32 (some (plNvar img)) fun w r =>
    let ratio := bits (w 0) 0 5
    recCode (8 ≤ ratio && ratio ≤ 16 && (r = 0 || ratio < bits (recWord img x 32 (r - 1) 0) 0 5))
      (bits (w 0) 5 27 = 0 && (upTo 3 5).all fun i => w i = 0) true

/-- The first record of a section that fails, with its status. -/
def sectionBad (img : List Byte) (x : Sec) : Option (Nat × Option Nat) :=
  match x.type with
  | 0x01 => positionBad img x
  | 0x02 => caddyBad img x
  | 0x03 => imageBad img x
  | 0x04 => regionBad img x
  | 0x05 => relocBad img x
  | 0x06 => slotsBad img x
  | 0x07 => linkutilBad img x
  | 0x08 => currentBad img x
  | 0x09 => memtimeBad img x
  | 0x0A => sliceBad img x
  | 0x0B => sparseBad img x
  | 0x0C => costBad img x
  | 0x0D => variantBad img x
  | _ => none

/-- Check 3. Reserved bits of the section table are tested before its sections. -/
def check3 (img : List Byte) : Option Bad :=
  match headerBad img with
  | some c => some { code := c }
  | none =>
    (List.range (plNsec img)).findSome? fun i =>
      let x := plSec img i
      if x.reserved ≠ 0 then some { code := eReserved, place := some (i, none) }
      else (sectionBad img x).map fun e => { code := e.1, place := some (i, e.2) }

/-! ### Check 4 and placement (R241, R242) -/

/-- The quadrants form the footprint's rectangle. -/
def rectangle (quads : List Nat) (w h : Nat) : Bool :=
  let o := swCorner quads
  quads.length = w * h && o.1 + w ≤ 12 && o.2 + h ≤ 8 &&
    quads.all fun q => (quadXY q).1 < o.1 + w && (quadXY q).2 < o.2 + h

/-- Check 4. -/
def State.check4 (s : State) (quads : List Nat) (img : List Byte) : Option Bad :=
  need (rectangle quads (plW img) (plH img) &&
    quads.all fun q => plCpq img ≤ ((quadCores q).filter s.exposedCore).length) { code := ePlateFit }

/-- The cores that a quadrant's positions take, in order of K, and whether each is the compiled one (R242). -/
def State.placeQuadrant (s : State) (q : Nat) (routers : List Nat) : List (Nat × Bool) :=
  let ok (r : Nat) : Bool := s.exposedCore (localCore q r)
  let kept := routers.filter ok
  let spare := (List.range 6).filter fun r => ok r && !kept.contains r
  (routers.foldl (fun (a : List (Nat × Bool) × List Nat) r =>
    if ok r then (a.1 ++ [(localCore q r, true)], a.2)
    else match a.2 with
      | x :: l => (a.1 ++ [(localCore q x, false)], l)
      | [] => (a.1 ++ [(localCore q r, false)], [])) ([], spare)).1

/-- The core of each position, and whether each is the compiled one. -/
def State.placement (s : State) (quads : List Nat) (img : List Byte) : List (Nat × Bool) :=
  (List.range (plW img * plH img)).flatMap fun k =>
    s.placeQuadrant (placeQuad quads (k % plW img) (k / plW img))
      ((List.range (plCpq img)).map fun i => posRouter img (k * plCpq img + i))

/-! ### What a bind computes -/

/-- RELOC records: POS, WHAT, INDEX, UNIT (R229). -/
def relocs (img : List Byte) : List (Nat × Nat × Nat × Nat) :=
  (List.range (plCount img 0x05 8)).map fun i =>
    let w0 := plRec img 0x05 8 i 0
    (bits w0 16 16, bits w0 14 2, bits w0 0 14, bits (plRec img 0x05 8 i 1) 16 16)

/-- Caddy entry `h` of position `p` as bound: its copy's address patched where a RELOC names it (R229). -/
def boundCad (img : List Byte) (quads place : List Nat) (p h : Nat) : Cad :=
  let c := cadOfPlate img p h
  match (relocs img).find? fun r => r.1 = p && r.2.1 = 1 && r.2.2.1 = h with
  | some r =>
    let a := refBase quads place r.2.2.2 + c.copy
    { c with
      w2 := BitVec.ofNat 32 a
      w3 := (c.w3 &&& 0xFFFF0000) ||| BitVec.ofNat 32 (bits a 32 16) }
  | none => c

/-- The defined entries of a position as bound. -/
def boundCads (img : List Byte) (quads place : List Nat) (p : Nat) : List (Nat × Cad) :=
  ((List.range 256).map fun h => (h, boundCad img quads place p h)).filter fun e => e.2.defined

/-- The address in HBM of descriptor `i` of position `p`: in the copy of the resident entry that holds the stream. -/
def streamAddr (img : List Byte) (quads place : List Nat) (p i : Nat) : Option Nat :=
  let a := 64 * posBase img p + 64 * i
  ((boundCads img quads place p).find? fun e =>
    e.2.resident && e.2.hasCopy && e.2.base ≤ a && a + 64 ≤ e.2.base + e.2.size).map fun e =>
      let r := a - e.2.base
      e.2.copy + 256 * lineMap e.2.ilv (r / 256) + r % 256

/-- IMAGE records: destination and data (R228). -/
def imagesOf (img : List Byte) (quads place : List Nat) : List (Nat × List Byte) :=
  (imageRecs img).map fun o =>
    let w (i : Nat) : Nat := plWord img (o / 4 + i)
    (refBase quads place (bits (w 1) 16 16) + (w 2 + 2 ^ 32 * w 3), (img.drop (o + 32)).take (w 0))

/-- The panel's memory once a plate's images are written. -/
def State.imaged (s : State) (img : List Byte) (quads place : List Nat) : State :=
  (imagesOf img quads place).foldl (fun (s : State) (e : Nat × List Byte) => s.store e.1 e.2) s

/-- Descriptor `i` of position `p` as its HBM copy holds it. -/
def State.copyDesc (s : State) (img : List Byte) (quads place : List Nat) (p i : Nat) : List W32 :=
  match streamAddr img quads place p i with
  | some a => s.words a 16
  | none => []

/-! ### Check 6 (R227, R229) -/

/-- A plate's regions as bound: SHARED, WRITES, UTYPE, address, length. -/
def boundRegions (img : List Byte) (quads place : List Nat) : List (Bool × Bool × Nat × Nat × Nat) :=
  (regions img).map fun r => (r.2.1, r.2.2.1, bits r.1 12 4, refBase quads place r.1 + r.2.2.2.1, r.2.2.2.2)

/-- A range lies in one of the regions, of one of the types. -/
def inRegions (rs : List (Bool × Bool × Nat × Nat × Nat)) (types : List Nat) (a n : Nat) : Bool :=
  n = 0 || rs.any fun r => types.contains r.2.2.1 && r.2.2.2.1 ≤ a && a + n ≤ r.2.2.2.1 + r.2.2.2.2

/-- The other plates in force at F or accepted for later: work cell, quadrants, placement, variant, image. -/
def State.others (s : State) (w : Nat) (f : W64) : List (Nat × List Nat × List Nat × Nat × List Byte) :=
  (s.pmc.work.filter fun e => e.1 ≠ w).flatMap fun e =>
    ((e.2.boundAt f).toList ++ (e.2.next.toList.filter fun b => f < b.frame)).map fun b =>
      (e.1, e.2.quadsAt (if f < b.frame then b.frame else f), b.place, b.variant, s.plate b.slot)

/-- WIN of a die at a frame (R267). -/
def State.winAt (s : State) (r : Nat) (f : W64) : Nat :=
  match (s.getStack r).winNext with
  | some e => if e.2 ≤ f then e.1 else (s.getStack r).win
  | none => (s.getStack r).win

/-- A region lies in its unit and inside the pool (R227, R263, R265, R267). -/
def State.regionFits (s : State) (quads : List Nat) (f : W64) (r : Nat × Bool × Bool × Nat × Nat) : Bool :=
  let h := refDie quads r.1
  let top := r.2.2.2.1 + r.2.2.2.2
  r.2.2.2.2 = 0 ||
    (if bits r.1 12 4 = 1 then top ≤ stackSize && !s.inHost h && (s.getStack h).state ≠ 4
     else top ≤ s.winAt h f * 0x1000000)

/-- Regions that clash: with another plate's (R227), or a written one with a published region (R297). -/
def State.regionClash (s : State) (w : Nat) (f : W64) (r : Bool × Bool × Nat × Nat × Nat) : Bool :=
  ((s.others w f).any fun e => (boundRegions e.2.2.2.2 e.2.1 e.2.2.1).any fun x =>
    overlap r.2.2.2.1 r.2.2.2.2 x.2.2.2.1 x.2.2.2.2 && !(r.1 && x.1 && !r.2.1 && !x.2.1)) ||
  (r.2.1 && s.fab.pub.any fun e => s.pubActive e.2 && overlap r.2.2.2.1 r.2.2.2.2 e.2.base e.2.len)

/-- Where a relocated descriptor's transfer leaves the plate's regions; its target keeps to R229. -/
def State.relocFails (s : State) (img : List Byte) (quads place : List Nat) (i : Nat) : Option Nat :=
  match (relocs img)[i]? with
  | none => none
  | some r =>
    let rs := boundRegions img quads place
    -- two records patch one field: of one Caddy entry, or of one descriptor in memory, whichever streams share it
    let field (x : Nat × Nat × Nat × Nat) : Nat × Nat × Nat := if x.2.1 = 0 then
        (match streamAddr img quads place x.1 x.2.2.1 with
         | some a => (0, a, 0)
         | none => (2, x.1, x.2.2.1))
      else (x.2.1, x.1, x.2.2.1)
    let dup := ((relocs img).take i).any fun x => field x = field r
    if 2 ≤ r.2.1 || dup then some ePlateReloc
    else if r.2.1 = 1 then (if 256 ≤ r.2.2.1 then some ePlateReloc else none)
    else
      let d := s.copyDesc img quads place r.1 r.2.2.1
      if posLen img r.1 ≤ r.2.2.1 || d.isEmpty || dKind d ≠ 1 || dmHall d then some ePlateReloc
      else
        let n := dmSpan d
        if bits r.2.2.2 12 4 = 3 then (if dmAddr d + n ≤ 0x1000000 then none else some ePlateBounds)
        else if inRegions rs [1, 2] (refBase quads place r.2.2.2 + dmAddr d) n then none else some ePlateBounds

/-- Check 6. -/
def State.check6 (s : State) (w : Nat) (f : W64) (quads place : List Nat) (img : List Byte) : Option Bad :=
  let rs := boundRegions img quads place
  let s1 := s.imaged img quads place
  let rel := (List.range (relocs img).length).map fun i => (i, s1.relocFails img quads place i)
  firstBad [
    fun _ => (rs.findIdx? (s.regionClash w f)).map fun i => badIn img ePlateOverlap 0x04 i,
    fun _ => ((regions img).findIdx? fun r => !s.regionFits quads f r).map fun i => badIn img ePlateBounds 0x04 i,
    fun _ => ((imagesOf img quads place).findIdx? fun e => !inRegions rs [1, 2] e.1 e.2.length).map fun i =>
      badIn img ePlateBounds 0x03 i,
    fun _ => ((List.range (plPos img)).find? fun p => (boundCads img quads place p).any fun e =>
      e.2.resident && e.2.hasCopy && !inRegions rs [1] e.2.copy e.2.size).map fun p => badIn img ePlateBounds 0x02 p,
    fun _ => (rel.find? fun e => e.2 = some ePlateBounds).map fun e => badIn img ePlateBounds 0x05 e.1,
    fun _ => (rel.find? fun e => e.2 = some ePlateReloc).map fun e => badIn img ePlateReloc 0x05 e.1]

/-! ### Check 7 (R195, R231, R243, R358) -/

/-- Slots in phase `p` on output `port` of a bank; output 5 and source 5 are the core port. -/
def slotCount (b : Tab W32) (port p : Nat) : Nat :=
  ((List.range 1024).filter fun k => busyAt b port (1024 * p + k)).length
def coreSource (b : Tab W32) (i : Nat) : Bool := (entryOuts (tget b i 0).toNat).any fun o => o.2 = 5

/-- R358: at most `ratio` slots of the core port in any 16 consecutive cycles, each way. -/
def corePortOk (b : Tab W32) (ratio : Nat) : Bool :=
  (List.range (bankNph b)).all fun p => (List.range 1024).all fun k =>
    let win := (List.range 16).map fun j => 1024 * p + (k + j) % 1024
    (win.filter (coreSource b)).length ≤ ratio && (win.filter (busyAt b 5)).length ≤ ratio

/-- The banks on a router of other plates that are accepted and not in force yet. -/
def State.nextBanks (s : State) (w r : Nat) : List (Tab W32) :=
  (s.pmc.work.filter fun e => e.1 ≠ w).flatMap fun e => e.2.next.toList.flatMap fun b =>
    ((slotsFor (s.plate b.slot) b.quads b.variant).filter fun x => x.2.1 = r).map (·.2.2)

/-- The running banks as a plate of cell `w` finds them at frame `f`: without what the cell has now, and without the plates that leave by
then. -/
def State.banksAt (s : State) (w : Nat) (f : W64) : Banks :=
  ((s.pmc.work.filter fun e => e.1 = w || e.2.boundAt f ≠ e.2.bound).map (·.1)).foldl (fun b x => s.without x b) []

/-- The tables that a plate of cell `w` meets on router `r`, with the running bank `run`. -/
def State.metBanks (s : State) (w r : Nat) (run : Tab W32) (n : Nat) : List (Tab W32) := run :: s.panelBank r n :: s.nextBanks w r

/-- The corridor record's entries find their fields idle in the router's running bank `run`, which has the corridors and detours merged
before, in the tables of other plates accepted and in those of its own plate, `own`; and the merged bank passes R195. -/
def State.corridorOk (s : State) (w r : Nat) (b run : Tab W32) (own : List (Tab W32)) : Bool :=
  let l := s.metBanks w r run (bankNph b) ++ own
  !l.any (banksClash b) && (s.bankErrorIf (s.exposedCore r && (s.getCore r).position.isSome) r (l.foldl bankMerge b)).isNone

/-- A footprint record finds its fields idle in the corridors that others have on the router (R243; that a plate's own routers are tested so
is DEDUCED, log entry 132). -/
def State.footOk (s : State) (w r : Nat) (b run : Tab W32) : Bool := !(s.metBanks w r run (bankNph b)).any (banksClash b)

/-- Outputs of a plate router that cross a tile boundary, each with its largest slot count in any phase (R231). -/
def utilOf (r : Nat) (b : Tab W32) : List (Nat × Nat) :=
  ([1, 2, 3, 4].filter fun p => (linkOf r p).isSome).map fun p =>
    (p, ((List.range (bankNph b)).map (slotCount b p)).foldl max 0)

/-- LINKUTIL records: router, output, MAXSLOTS. DIR 0 N, 1 S, 2 E, 3 W are outputs 1 to 4. -/
def linkutils (img : List Byte) (quads : List Nat) : List (Nat × Nat × Nat) :=
  (List.range (plCount img 0x07 8)).map fun i =>
    let w1 := plRec img 0x07 8 i 1
    (slotsRouter quads (plRec img 0x07 8 i 0), bits w1 10 2 + 1, bits w1 0 10)

/-- The footprint tables of a plate on a router, and the first of its corridor records that meets an earlier one there (R243). -/
def ownBanks (l : List (Bool × Nat × Tab W32)) (r : Nat) : List (Tab W32) := (l.filter fun x => !x.1 && x.2.1 = r).map (·.2.2)
def ownClash (l : List (Bool × Nat × Tab W32)) : Option Nat :=
  (List.range l.length).find? fun i => match l[i]? with
    | some x => x.1 && (l.take i).any fun y => y.1 && y.2.1 = x.2.1 && banksClash y.2.2 x.2.2
    | none => false

/-! ### The tables of a bind (R206, R242, R243) -/

/-- Check 8 (R242): a detour is found in every variant for every position moved off its router. -/
def State.placeBad (s : State) (w : Nat) (img : List Byte) (quads : List Nat) (pl : List (Nat × Bool)) : Option Nat :=
  match pl.findIdx? fun e => !e.2 with
  | none => none
  | some p => if (upTo 1 (plNvar img)).all fun v => (s.tables w [] img quads (pl.map (·.1)) v).2 then none else some p

/-- Check 7. -/
def State.check7 (s : State) (w : Nat) (f : W64) (quads place : List Nat) (img : List Byte) : Option Bad :=
  let vars := upTo 1 (plNvar img)
  let foot (v : Nat) : List (Bool × Nat × Tab W32) := slotsFor img quads v
  let util := (foot 1).flatMap fun x => (utilOf x.2.1 x.2.2).map fun e => (x.2.1, e.1, e.2)
  let have_ := linkutils img quads
  let run (r : Nat) : Tab W32 := s.bankOf (s.banksAt w f) r
  firstBad [
    fun _ => vars.findSome? fun v => ((foot v).findIdx? fun x =>
      (s.bankErrorIf (place.contains x.2.1 || (x.1 && s.exposedCore x.2.1 && (s.getCore x.2.1).position.isSome)) x.2.1
        x.2.2).isSome || !corePortOk x.2.2 (varRatio img v)).map fun i =>
        { code := ePlateSlots, place := some (plPlace img 0x06 v, some i) },
    fun _ => (have_.findIdx? fun e => !util.contains e).map fun i => badIn img ePlateUtil 0x07 i,
    fun _ => ((List.range have_.length).find? fun i => (have_.take i).contains (have_.getD i (0, 0, 0))).map fun i =>
      badIn img ePlateUtil 0x07 i,
    fun _ => need (util.all fun e => e.2.2 = 0 || have_.contains e) (badSec img ePlateUtil 0x07),
    fun _ => vars.findSome? fun v => ((foot v).findIdx? fun x =>
      !(if x.1 then s.corridorOk w x.2.1 x.2.2 (run x.2.1) (ownBanks (foot v) x.2.1)
        else s.footOk w x.2.1 x.2.2 (run x.2.1))).map fun i =>
        { code := ePlateSlots, place := some (plPlace img 0x06 v, some i) },
    fun _ => vars.findSome? fun v => (ownClash (foot v)).map fun i =>
        { code := ePlateSlots, place := some (plPlace img 0x06 v, some i) }]

/-! ### Check 11 (R342) -/

/-- The half-buses: tile and side, 0 for W and 1 for E; the quadrants each feeds (R334). -/
def halfQuads (t side : Nat) : List Nat := [t * 4 + side, t * 4 + side + 2]

/-- F_h in W: the fixed load of a half-bus (R336, R342). -/
def State.halfFixed (s : State) (t side : Nat) : Nat :=
  if side = 0 && (t = 6 || t = 12) then 128
  else if side = 1 && s.sec.h2 && (t = 11 || t = 17) then 128
  else if side = 0 && (List.range 8).any fun n => s.fioFitted n && fioTile n = t then 98
  else 48

/-- PEAK on a quadrant, in 5 A units: a plate's own in variant `v`, or the other plates'; and lent shares (R397). -/
def State.peakWith (s : State) (w : Nat) (f : W64) (quads : List Nat) (img : List Byte) (v q : Nat) : Nat :=
  (if quads.contains q then peakOn quads img v q else 0) +
    ((s.others w f).map fun e =>
      (if e.2.1.contains q then peakOn e.2.1 e.2.2.2.2 e.2.2.2.1 q else 0) + s.lent e.1 e.2.2.2.2 e.2.2.2.1 q).foldl (· + ·) 0

/-- VSRAM_Q draws its 6 W in a quadrant whose rails are on or ramp (R342; its worked example has none for a DARK one). -/
def Quad.powered (x : Quad) : Bool := x.rail = 1 || x.rail = 2 || x.rail = 3

/-- Check 11 for one variant: quadrants, half-buses (in 10 mW), panel (in mW). The record of a quadrant over its limit is the
one that fails; a half-bus or the panel has none. -/
def State.powerBad (s : State) (w : Nat) (f : W64) (quads : List Nat) (img : List Byte) (v : Nat) : Option Bad :=
  let peak (q : Nat) : Nat := s.peakWith w f quads img v q
  let half (t side : Nat) : Nat :=
    100 * s.halfFixed t side +
      ((halfQuads t side).map fun q => 425 * peak q + if (s.getQuad q).powered then 600 else 0).foldl (· + ·) 0
  let tiles := ((quads.map (· / 4)).eraseDups)
  let total := ((List.range 96).map fun q =>
      peak q * 5 * (s.getQuad q).vset + if (s.getQuad q).powered then 6000 else 0).foldl (· + ·) 0 + 24 * 96000 +
    50000 * ((List.range 8).filter s.fioFitted).length + 150000 * ((List.range 2).filter s.siteFitted).length
  let sec := plPlace img 0x08 v
  match (currentRecs img v).findIdx? fun o =>
      let q := placeQuad quads (bits (plWord img (o / 4)) 24 4) (bits (plWord img (o / 4)) 20 4)
      (s.getQuad q).limit < peak q + 3 with
  | some i => some { code := ePlatePower, place := some (sec, some i) }
  | none =>
    need (tiles.all (fun t =>
        if (s.getTile t).tied then half t 0 + half t 1 ≤ 30000 else half t 0 ≤ 30000 && half t 1 ≤ 30000) &&
      total * 10 ≤ s.pwr.limit * 9000) { code := ePlatePower, place := some (sec, none) }

/-! ### Checks 12 and 13 -/

/-- Stacks that a plate's regions name, with its MEMTIME cadence for each (R233). -/
def memCadence (img : List Byte) (quads : List Nat) : List (Nat × Option (Nat × Nat)) :=
  let own := (memtimes img).map fun m => (refDie quads m.1, m.2.2.1, m.2.2.2)
  (((regions img).filter fun r => bits r.1 12 4 = 1 && r.2.2.2.2 ≠ 0).map fun r => refDie quads r.1).eraseDups.map fun h =>
    (h, (own.find? fun m => m.1 = h).map (·.2))

/-- Check 12 (R233, R234, R262). -/
def State.check12 (s : State) (w : Nat) (f : W64) (t : Nat) (quads : List Nat) (img : List Byte) : Option Bad :=
  let named := memCadence img quads
  let own := (memtimes img).map fun m => refDie quads m.1
  let differs (e : Nat × Option (Nat × Nat)) : Bool :=
    (s.others w f).any fun o => (memCadence o.2.2.2.2 o.2.1).any fun x => x.1 = e.1 && x.2 ≠ e.2
  firstBad [
    fun _ => (List.range own.length).findSome? fun i =>
      let m := (memtimes img).getD i (0, 0, 0, 0)
      need (70 ≤ m.2.1 && m.2.2.1 * t ≤ 60000000 && (named.any fun e => e.1 = refDie quads m.1) &&
        !(own.take i).contains (refDie quads m.1)) (badIn img ePlateMemtime 0x09 i),
    fun _ => (named.find? differs).map fun e =>
      { code := ePlateMemtime, place := some (plPlace img 0x09 0, own.findIdx? (· = e.1)) }]

/-- The attachment of a slice is on the order code (R235, R391). -/
def State.slicePresent (s : State) (kind index : Nat) : Bool :=
  if kind = 3 then index < 16 || s.sec.f32 else s.siteFitted (kind - 1)

/-- A STRAINER descriptor with OP EXACT or PREDICT (R77, R147): KIND 4 with OP 1 or 2. -/
def sparseDesc (d : List W32) : Bool := !d.isEmpty && dKind d = 4 && (stOp d = 1 || stOp d = 2)

/-- The first SPARSE record that does not agree with the streams, or the section where a record is missing (R236). -/
def State.sparseBad (s : State) (img : List Byte) (quads place : List Nat) : Option Bad :=
  let l := (List.range (plCount img 0x0B 8)).map fun r => (plRec img 0x0B 8 r 0, plRec img 0x0B 8 r 1)
  let key (e : Nat × Nat) : Nat × Nat := (bits e.1 16 16, bits e.1 0 14)
  let bad := l.findIdx? fun e =>
    let d := s.copyDesc img quads place (key e).1 (key e).2
    !(bits e.1 0 14 < posLen img (bits e.1 16 16) && sparseDesc d && bits e.2 7 9 = stDmax d &&
      (if stOp d = 2 then bits e.2 16 9 = stStripK d && bits e.2 0 7 = stRot d
       else bits e.2 16 9 = 0 && bits e.2 0 7 = 0))
  match bad with
  | some i => some (badIn img ePlateSparse 0x0B i)
  | none =>
    let want := (List.range (plPos img)).flatMap fun p =>
      ((List.range (posLen img p)).filter fun i => sparseDesc (s.copyDesc img quads place p i)).map fun i => (p, i)
    need (want.all (fun k => (l.filter fun e => key e = k).length = 1) && l.length = want.length)
      (badSec img ePlateSparse 0x0B)

/-- Check 13 (R244, R236, R237, R324). -/
def State.check13 (s : State) (w : Nat) (f : W64) (g : Nat) (quads place : List Nat) (img : List Byte) : Option Bad :=
  let imgs := img :: (s.others w f).map (·.2.2.2.2)
  let s1 := s.imaged img quads place
  firstBad [
    fun _ => ((slices img).findIdx? fun x => !(x.2.2.1 = 0 && x.2.2.2 = 0) && -- a 0/0 record is a no-op (R235)
      let u := sliceUse imgs x.1 x.2.1
      !s.slicePresent x.1 x.2.1 || s.sliceRoom g x.1 x.2.1 < u.1 || s.sliceRoom g x.1 x.2.1 < u.2).map fun i =>
        badIn img ePlateSlice 0x0A i,
    fun _ => s1.sparseBad img quads place,
    fun _ => need ((2 ≤ costNparam img || costWord img 7 = 0) && (s.getWork w).quotasAt f ≤ costCap img)
      (badIn img ePlateCost 0x0C 0)]

/-- T and S in force at Shutter F, counting a pending FRAME_CONFIG (R241). -/
def State.paramsAt (s : State) (f : W64) : Nat × Nat := match s.pmc.next with
  | some n => if n.2.2.2 ≤ f then (n.1, n.2.1) else (s.pmc.t, s.pmc.s)
  | none => (s.pmc.t, s.pmc.s)

/-- G in ns at Shutter F (R239). -/
def State.developAt (s : State) (f : W64) : Nat :=
  let hall : Bool := match s.fab.hallNext with
    | some e => if e.2.2 ≤ f then e.1.isSome else s.fab.hallIndex.isSome
    | none => s.fab.hallIndex.isSome
  ((s.paramsAt f).1 - (s.paramsAt f).2) * 1000 - (if hall then 2000 else 0)

/-- Checks 4 to 13 in order. -/
def State.bindChecks (s : State) (w : Nat) (f : W64) (quads : List Nat) (img : List Byte) : Option Bad :=
  let pl := s.placement quads img
  let place := pl.map (·.1)
  let ts := s.paramsAt f
  let g := s.developAt f
  firstBad [
    fun _ => s.check4 quads img,
    fun _ => need (plT img = ts.1 && plS img = ts.2) { code := ePlateFrame },
    fun _ => need (plDrain img + 2000 ≤ 1000 * ts.2) { code := ePlateTime },
    fun _ => s.check6 w f quads place img,
    fun _ => s.check7 w f quads place img,
    fun _ => (s.placeBad w img quads pl).map fun p => badIn img ePlatePlace 0x01 p,
    fun _ => ((List.range (plPos img)).find? fun p => 16 < posRate img p).map fun p => badIn img ePlateCtl 0x01 p,
    fun _ => ((upTo 1 (plNvar img)).find? fun v => !varFits img g v || varGuard img v < 1000).map fun v =>
      badIn img ePlateTime 0x0D (v - 1),
    fun _ => (upTo 1 (plNvar img)).findSome? (s.powerBad w f quads img),
    fun _ => s.check12 w f ts.1 quads img,
    fun _ => s.check13 w f g quads place img]

end Sys2Proof.Machine
end

