-- ==== Sys2Proof/Machine/Binding.lean ====
section
/-! DEFINITION. The plate store and binding: PLATE_LOAD, PLATE_BIND, PLATE_UNBIND, PLATE_DELETE (R241, R245 to R249, R316),
the installation deadline (R246), failing resident loads (R248), and what the Shutter and the Stop Bath do for binds. -/

namespace Sys2Proof.Machine

def eStoreFull : Nat := 0x0C0A
def ePlateInUse : Nat := 0x0C0B
def ePlateLate : Nat := 0x0914

/-- A refusal by a check: DETAIL names the section and record that failed, each free where there is none (log entry 64). -/
def State.refuseBad (s : State) (c : Cmd) (b : Bad) : State :=
  match b.place with
  | some (p, some r) => s.finish c b.code [] (p * 65536 + r)
  | some (p, none) => s.free.2.finish c b.code [] (p * 65536 + s.free.1.toNat % 65536)
  | none => s.free.2.finish c b.code [] s.free.1.toNat

/-! ### The store -/

/-- The lowest free store slot. -/
def State.freeSlot (s : State) : Option Nat := (List.range 16).find? fun i => !s.pmc.store.any fun e => e.1 = i

/-- R241, R316: PLATE_LOAD. -/
def execPlateLoad (s : State) : Out :=
  s.command 0x20 [fullWord, fullWord, fullWord, fullWord] fun c s =>
    let off := c.w64 0
    let len := c.w64 2
    if !s.winOk c off len then s.finish c eTarget
    else if len = 0 then s.finish c 0 [0, 0, 0] -- a no-op (R10); what it returns: log entry 129
    else
      let r := s.winTake c.site off len
      let img := r.1
      let s := r.2
      match check1 img with
      | some b => s.refuseBad c b
      | none =>
        if !s.plateSigned img then s.verifyFail.refuseBad c { code := ePlateSig, place := some (plNsec img - 1, none) }
        else match check3 img with
          | some b => s.refuseBad c b
          | none =>
            match s.freeSlot with
            | none => s.finish c eStoreFull
            | some i =>
              let st : Stored := { image := img, keySlot := plateSlot img }
              let s := s.modPmc fun p => { p with
                store := (p.store.filter fun e => e.1 < i) ++ (i, st) :: p.store.filter fun e => i < e.1 }
              s.finish c 0 [BitVec.ofNat 32 i, BitVec.ofNat 32 (plId img).1, BitVec.ofNat 32 (plId img).2]

/-- R316: PLATE_DELETE. -/
def execPlateDelete (s : State) : Out :=
  s.command 0x23 [0xF] fun c s =>
    if !s.pmc.store.any fun e => e.1 = c.w 0 then s.finish c eTarget
    else if s.usedSlots.contains (c.w 0) then s.finish c ePlateInUse
    else (s.modPmc fun p => { p with store := p.store.filter fun e => e.1 ≠ c.w 0 }).finish c 0

/-! ### Installation (R246) -/

/-- R247: the resident bytes of the fullest position, and those read from the busiest stack. -/
def residentLoad (img : List Byte) (quads place : List Nat) : Nat × Nat :=
  let es := (List.range (plPos img)).map fun p => (boundCads img quads place p).filter fun e => e.2.resident && e.2.hasCopy
  let sum (l : List (Nat × Cad)) : Nat := (l.map fun e => e.2.size).foldl (· + ·) 0
  ((es.map sum).foldl max 0,
    ((List.range 48).map fun h => sum (es.flatten.filter fun e => e.2.copy / stackSize = h)).foldl max 0)

/-- n of R247 with the Develop length `g` in ns. -/
def setupFrames (img : List Byte) (quads place : List Nat) (g : Nat) : Nat :=
  let l := residentLoad img quads place
  if g = 0 then 1 else max 1 (max (cdiv l.1 (320 * g)) (cdiv (10 * l.2) (11428 * g)))

/-- RELOC patches of descriptors, in the HBM copies (R229). -/
def State.patched (s : State) (img : List Byte) (quads place : List Nat) : State :=
  ((relocs img).filter fun r => r.2.1 = 0).foldl (fun (s : State) (r : Nat × Nat × Nat × Nat) =>
    match streamAddr img quads place r.1 r.2.2.1 with
    | none => s
    | some a =>
      let d := s.words a 16
      let x := refBase quads place r.2.2.2 + dmAddr d
      s.store (a + 12) (natLe 4 (x % 2 ^ 32) ++ natLe 4 (bits x 32 28 + dw d 4 / 2 ^ 28 * 2 ^ 28))) s

/-- A core's pending copy: its layouts and registers with CORE_SEQ_LEN 0, armed for Shutter F (R246). -/
def pendingCopy (img : List Byte) (quads place : List Nat) (p : Nat) (f : W64) : PendCopy :=
  { frame16 := some (f.toNat % 65536)
    cad := ((List.range 256).map fun h => (h, boundCad img quads place p h)).filter fun e => e.2 ≠ {}
    base := posBase img p
    len := 0
    mu := posMu img p
    haz := posHaz img p }

/-- The variant that a plate would run under the limits of now. -/
def State.firstVariant (s : State) (quads : List Nat) (img : List Byte) : Nat :=
  (bestVariant img ((quads.map s.ratioLimit).foldl min 16) fun v =>
    s.manual 1 || quads.all fun q => peakOn quads img v q + 3 ≤ (s.getQuad q).limit).getD (plNvar img)

/-- Installation of an accepted bind: images, patches, pending copies and the banks of the footprint, armed for Shutter F together (R246,
R196). What the plate needs on other routers, corridors and detours, enters the running banks at Shutter F (log entry 132). -/
def State.install (s : State) (w : Nat) (img : List Byte) (b : Binding) : State :=
  let s := (s.imaged img b.quads b.place).patched img b.quads b.place
  let s := b.cores.foldl (fun (s : State) (e : Nat × Nat) => s.modCore e.2 fun c => { c with
    scr := { c.scr with copy := pendingCopy img b.quads b.place e.1 b.frame } }) s
  let own := (footBanks img b.quads b.variant).map (·.1)
  let x := (s.tables w [] img b.quads b.place b.variant).1.filter fun e => own.contains e.1
  let s := x.foldl (fun (s : State) (e : Nat × Tab W32) => s.modRtr e.1 fun r => { r with
    pending := e.2
    frame16 := b.frame.setWidth 16
    arm := true
    validating := true
    status := 0 }) s
  s.modPmc fun p => { p with together := p.together ++ [x.map (·.1)] }

/-- A bind whose FRAME16 can be armed is installed now; another waits (R196). -/
def State.tryInstall (s : State) (w : Nat) (b : Binding) : State :=
  if swapAhead s.frame16 (b.frame.toNat % 65536) && (b.frame - s.pmc.frame).toNat < 32768 then
    (s.install w (s.plate b.slot) b).modWork w fun x => { x with next := some { b with stage := .accepted } }
  else s.modWork w fun x => { x with next := some { b with stage := .waiting } }

/-! ### PLATE_BIND and PLATE_UNBIND (R245, R249) -/

/-- The first frame that R245 allows, counted from the current one. -/
def State.bindLead (s : State) (w : Nat) : Nat :=
  match s.boundPlate w with
  | some img => plD img + 3
  | none => 2

/-- R316: PLATE_BIND. -/
def execPlateBind (s : State) : Out :=
  s.command 0x21 [0xF7F, fullWord, fullWord] fun c s =>
    let slot := bits (c.w 0) 8 4
    let w := bits (c.w 0) 0 7
    let f := c.frame 1
    let x := s.getWork w
    let quads := x.quadsAt f
    let early : Bool := match x.unbindAt with
      | some u => decide (f < u)
      | none => false
    if 96 ≤ w || !s.pmc.store.any fun e => e.1 = slot then s.finish c eTarget
    else if quads.isEmpty then s.finish c eNoCell
    else if f.toNat < s.pmc.frame.toNat + s.bindLead w || x.next.isSome || early then s.finish c ePlateTooSoon
    else
      let img := s.plate slot
      match s.bindChecks w f quads img with
      | some b => s.refuseBad c b
      | none =>
        let pl := s.placement quads img
        let n := setupFrames img quads (pl.map (·.1)) (s.developAt f)
        let b : Binding := {
          slot := slot, frame := f, n := n, left := n, fails := 0, stage := .accepted
          place := pl.map (·.1), variant := s.firstVariant quads img, quads := quads }
        let s := (s.tryInstall w b).modWork w fun x => { x with closed := x.closed || x.bound.isSome }
        let run := f + BitVec.ofNat 64 n
        (s.override [.plate w] f).finish c 0 [BitVec.ofNat 32 n, run.setWidth 32, (run >>> 32).setWidth 32]

/-- R249, R316: PLATE_UNBIND. A cell without a plate has nothing to release. -/
def execPlateUnbind (s : State) : Out :=
  s.command 0x22 [fullWord, fullWord, fullWord] fun c s =>
    let w := c.w 0
    let f := c.frame 1
    let x := s.getWork w
    if 96 ≤ w then s.finish c eTarget
    else if !s.configured (.work w) then s.finish c eNoCell
    else if f.toNat < s.pmc.frame.toNat + s.bindLead w || x.next.isSome || x.unbindAt.isSome then
      s.finish c ePlateTooSoon
    else if x.bound.isNone then s.finish c 0
    else ((s.modWork w fun x => { x with unbindAt := some f, closed := true }).override [.plate w] f).finish c 0

/-! ### Taking effect (R247, R249) -/

/-- The exposed cores of a work cell take a state and lose their reason. -/
def State.workState (s : State) (w : Nat) (st : CellState) (ok : CellState → Bool) : State :=
  let x := s.getWork w
  let own := ((List.range 576).filter fun n => s.exposedCore n && x.quads.contains (coreQuad n)) ++
    (s.borrowed w).map (·.2)
  s.each own fun s n => s.modCore n fun c =>
    if ok c.ccb.state then { c with ccb := { c.ccb with state := st } } else c

def isUp (st : CellState) : Bool := st = .running || st = .ready || st = .starting || st = .degraded

/-- The banks of a plate of variant `v` take the place of what cell `w` has in force; `was` are the banks of the routers that have just
swapped, `old` the hops that leave. Armed banks follow, and whether a stream found no route is noted (R206, R207). -/
def State.plateIn (s : State) (w : Nat) (was : Banks) (old : List PhHop) (img : List Byte) (quads place : List Nat) (v : Nat) : State :=
  let x := s.tables w was img quads place v
  let s := (s.putBanks x.1).modPmc fun p => { p with unrouted := if x.2 then ndel p.unrouted w else nadd p.unrouted w }
  s.follow (was.map (·.1)) old (s.plateHops [] img quads place v)

/-- The hops that a work cell's plate has in the banks `b`. -/
def State.oldHops (s : State) (w : Nat) (b : Banks) : List PhHop :=
  match (s.getWork w).bound with
  | some bd => s.ownHops w b bd bd.variant
  | none => []

/-- A plate leaves a work cell: its cores hold no position and no stream, what it lost of capacity is lost no more. -/
def State.endPlate (s : State) (w : Nat) : State :=
  match (s.getWork w).bound with
  | some b =>
    let s := s.workState w .ready isUp
    let s := s.each b.place fun s n => s.modCore n fun c => { c with
      position := none, seq := { c.seq with lenReg := 0 } }
    (s.modWork w fun x => { x with bound := none, closed := false, losses := [], void := none, recover := 0, mode := 0
                                   replay := false }).dropDoomed.requote w
  | none => s

/-- R249: a plate is released, and exactly its own entries leave the banks in force and those armed behind them (R243). -/
def State.releasePlate (s : State) (w : Nat) : State :=
  let old := s.oldHops w []
  ((s.putBanks (s.without w [])).follow [] old []).endPlate w

/-- The pending copy armed for this Shutter becomes current (R246); every Negative entry is stale (R144). -/
def Core.takeCopy (c : Core) (frame16 : Nat) : Core :=
  if c.scr.copy.frame16 = some frame16 then
    { c with
      seq := { c.seq with baseReg := c.scr.copy.base, lenReg := c.scr.copy.len }
      str := { c.str with muReg := c.scr.copy.mu, neg := [], stats := [] }
      scr := { c.scr with cadReg := c.scr.copy.cad, hazReg := c.scr.copy.haz, copy := {} } }
  else c

/-- A bind takes effect at Shutter F: the cores take their positions and are STARTING (R247). -/
def State.bindNow (s : State) (w : Nat) (b : Binding) : State :=
  let img := s.plate b.slot
  let was : Banks := (footBanks img b.quads b.variant).foldl (fun t e => tput t e.1 (s.getRtr e.1).pending) []
  let s := (s.plateIn w was (s.oldHops w was) img b.quads b.place b.variant).endPlate w
  let s := s.modWork w fun x => { x with
    bound := some { b with stage := .setup, left := b.n, frame := s.pmc.frame }, next := none, closed := true, unbindAt := none }
  let s := s.modComp (409 + w) fun c => { c with reason := whyNone } -- NO_RESERVE of the plate before (R402)
  let s := b.cores.foldl (fun (s : State) (e : Nat × Nat) => s.modCore e.2 fun c => { c with position := some (w, e.1) }) s
  s.workState w .starting isUp

/-- The setup goes on, or the streams run (R247). -/
def State.setupTick (s : State) (w : Nat) (c : Binding) : State :=
  if 1 < c.left then s.modWork w fun x => { x with bound := some { c with left := c.left - 1 } }
  else
    let s := s.modWork w fun x => { x with bound := some { c with stage := .running, left := 0 }, closed := x.next.isSome }
    s.workState w .running isUp

/-- An unbind, then a bind, that takes effect at this Shutter. -/
def State.plateTick (s : State) (w : Nat) : State :=
  let s := match (s.getWork w).unbindAt with
    | some u => if u ≤ s.pmc.frame then
        (s.releasePlate w).modWork w fun x => { x with unbindAt := none, closed := false } else s
    | none => s
  match (s.getWork w).next with
  | some b => if b.frame ≤ s.pmc.frame then s.bindNow w b else s
  | none => s

/-- Binds, unbinds and setup at a Shutter, for one work cell: setup frames follow the one in which the plate was bound. -/
def State.bindTick (s : State) (w : Nat) : State :=
  let s := s.plateTick w
  let s : State := match (s.getWork w).next with
    | some b => if b.stage = .waiting then s.tryInstall w b else s
    | none => s
  match (s.getWork w).bound with
  | some c => if c.stage = .setup && c.frame ≠ s.pmc.frame then s.setupTick w c else s
  | none => s

/-- One 256-byte line of a resident entry is loaded from its HBM copy, as its stack serves it (R172, R247, R256, R261, R263). -/
def State.loadLine (s : State) (n : Nat) (e : Cad) (i : Nat) : State :=
  let r := (s.quietCount (e.copy + 256 * i)).getBytes (e.copy + 256 * i) 256
  r.2.putBytes (scratchAddr n (e.phys (256 * i))) r.1

/-- One resident entry is loaded. -/
def State.loadEntry (s : State) (n : Nat) (e : Cad) : State :=
  (List.range (e.size / 256)).foldl (fun (s : State) i => s.loadLine n e i) s

/-- A core's valid resident entries are loaded. -/
def State.loadCore (s : State) (n : Nat) : State :=
  let c := s.getCore n
  (c.scr.valid.filter fun h => (c.cad h).resident && (c.cad h).hasCopy).foldl (fun (s : State) h => s.loadEntry n (c.cad h)) s

/-- The Stop Bath of a setup frame: the loads end; in the last one the PMC writes CORE_SEQ_LEN (R247). -/
def State.setupBath (s : State) (w : Nat) : State :=
  match (s.getWork w).bound, s.boundPlate w with
  | some b, some img =>
    if b.stage ≠ .setup || b.left ≠ 1 then s
    else
      let s := s.each b.place State.loadCore
      b.cores.foldl (fun (s : State) (e : Nat × Nat) => s.modCore e.2 fun c => { c with
        seq := { c.seq with lenReg := posLen img e.1 } }) s
  | _, _ => s

/-! ### Deadlines and failures -/

/-- R246: drain open of frame F − 2: a bind whose banks are not all armed is abandoned. -/
def execBindInstallDeadline (w : Nat) (s : State) : Out :=
  unit (w < 96) "work cell" <|
  match (s.getWork w).next with
  | none => .next s -- nothing, unless a bind is being installed
  | some b =>
    due s (b.frame = s.pmc.frame + 2) <| -- drain open of frame F − 2
    let rs := (footBanks (s.plate b.slot) b.quads b.variant).map (·.1)
    let ready := rs.all fun r =>
      let x := s.getRtr r
      x.arm && !x.validating && x.frame16 = b.frame.setWidth 16
    if ready then .next (s.modWork w fun x => { x with next := some { b with stage := .installed } })
    else
      let s := s.each rs fun s r => s.modRtr r fun x => if x.frame16 = b.frame.setWidth 16 then x.disarm else x
      let s := s.each b.place fun s n => s.modCore n fun c => { c with scr := { c.scr with copy := {} } }
      .next ((s.modWork w fun x => { x with next := none, closed := x.unbindAt.isSome }).done ePlateLate)

/-- R248: a resident load fails in a setup frame: one frame more; after 3 failed retries the bind ends. -/
def execResidentLoadFail (w position : Nat) (s : State) : Out :=
  unit (w < 96) "work cell" <|
  match (s.getWork w).bound with
  | none => .next s -- nothing, unless a plate is bound
  | some b =>
    due s (b.stage = .setup && position < b.place.length) <| -- the cell is in setup
    if b.fails < 3 then
      .next (s.modWork w fun x => { x with bound := some { b with fails := b.fails + 1, left := b.left + 1 } })
    else .next ((s.releasePlate w).answer (BitVec.ofNat 16 ePlateLate) [BitVec.ofNat 32 position])

end Sys2Proof.Machine
end

