-- ==== Sys2Proof/Machine/Security.lean ====
section
/-! DEFINITION. Firmware update (R452 to R457), the device's LMS state (R447, R448) and attestation (R449 to R451). -/

namespace Sys2Proof.Machine

/-! ### Statuses (R458) -/

def eFwSig : Nat := 0x1201
def eFwRollback : Nat := 0x1202
def eFwSeq : Nat := 0x1203
def eFwImage : Nat := 0x1204
def eFwBusy : Nat := 0x1205
def eFwFlash : Nat := 0x1206
def eSecLms : Nat := 0x1207
def eSecNoTranscript : Nat := 0x1208

/-! ### Banks (R420, R421) -/

def recActive : Nat := 1
def recTrial : Nat := 2
def recDead : Nat := 3

/-- The bank in use and the other one; false is A. -/
def Boot.record (b : Boot) (bank : Bool) : BootRec := if bank then b.recB else b.recA
def Boot.image (b : Boot) (bank : Bool) : List Byte := if bank then b.imageB else b.imageA
def Boot.setRec (b : Boot) (bank : Bool) (r : BootRec) : Boot := if bank then { b with recB := r } else { b with recA := r }
def Boot.setImage (b : Boot) (bank : Bool) (bs : List Byte) : Boot :=
  if bank then { b with imageB := bs } else { b with imageA := bs }

/-- The image area begins here in its bank (R420). -/
def imageBase : Nat := 0x100000

/-- The manifest of a bank. -/
def bankManifest (r : BootRec) (area : List Byte) : List Byte := (area.drop (r.manOff - imageBase)).take r.manLen

/-- Image `t` of a bank: the images follow the manifest in target order (log entry 65). -/
def bankImage (r : BootRec) (area : List Byte) (t : Nat) : List Byte :=
  let m := bankManifest r area
  let before := ((List.range t).map fun i => fwLength m i).foldl (· + ·) 0
  (area.drop (r.manOff - imageBase + r.manLen + before)).take (fwLength m t)

/-- Image `t` of a package: its own where the manifest marks it PRESENT, else the one of the bank in use (R452). -/
def State.packImage (s : State) (pkg m : List Byte) (t : Nat) : List Byte :=
  if fwPresent m t then (pkg.drop (fwWord m t 3)).take (fwLength m t)
  else bankImage (s.boot.record s.boot.bank) (s.boot.image s.boot.bank) t

/-- Whether a flash write reads back right: the spec gives no rule for a failure (log entry 66). -/
def State.flashOk (s : State) : Bool × State :=
  let r := s.choose 116 2
  (r.1 = 0, r.2)

/-! ### Staging (R452) -/

/-- Why a FIRMWARE manifest is refused, and whether that counts as a failed manifest (R441, R442, R458). -/
def State.fwRefused (s : State) (m : List Byte) : Option Nat :=
  if !s.manSigned m manFirmware then some eFwSig
  else if manArb m < s.sec.arb then some eFwRollback
  else if manSeq m ≤ (s.boot.record s.boot.bank).seq.toNat then some eFwSeq
  else if bitOf (manRevEc m) (manEc m) || bitOf (manRevLms m) (manLms m) then some eFwSig
  else none

/-- The images keep to R440 and match their hashes. -/
def State.fwImages (s : State) (pkg m : List Byte) : Bool :=
  (List.range 4).all fun t =>
    fwEntryOk m t && (s.packImage pkg m t).length = fwLength m t && Config.sha384 (s.packImage pkg m t) = fwHash m t

/-- The record that a staging leaves in the inactive bank. -/
def stagedRec (m : List Byte) (st : Nat) : BootRec :=
  { valid := true
    seq := BitVec.ofNat 32 (manSeq m)
    state := st
    tries := 0
    manOff := imageBase
    manLen := m.length
    arb := manArb m }

/-- The inactive bank's record becomes DEAD. -/
def Boot.killOther (b : Boot) : Boot :=
  b.setRec (!b.bank) { b.record (!b.bank) with state := recDead }

/-- The package is written into the inactive bank, last the record as TRIAL; the set is staged. -/
def State.stage (s : State) (pkg m : List Byte) : State :=
  let area := m ++ (List.range 4).flatMap fun t => s.packImage pkg m t
  let s := s.modBoot fun b => (b.setImage (!b.bank) area).setRec (!b.bank) (stagedRec m recTrial)
  s.modSec fun x => { x with
    staged := BitVec.ofNat 32 (manSeq m)
    stagedArb := manArb m
    stagedBurn := manBurn m
    stagedRevEc := BitVec.ofNat 4 (manRevEc m)
    stagedRevLms := BitVec.ofNat 4 (manRevLms m)
    stagedHall := manHall m
    stagedVersion := BitVec.ofNat 32 (fwWord m 0 2)
    stagedHashes := (List.range 4).map fun t => fwHash m t }

def State.fwTarget (s : State) (t : Nat) : FwTarget := tget s.sec.fw t {}
def State.setFw (s : State) (t : Nat) (v : FwTarget) : State := s.modSec fun x => { x with fw := tset x.fw t v {} }

/-- The configured work cells in ascending order. -/
def State.configuredWorks (s : State) : List Nat :=
  (List.range 96).filter fun w => !(s.getWork w).quads.isEmpty

/-- The Fabric I/O dies fitted. -/
def State.fioCount (s : State) : Nat := if s.sec.f32 then 8 else 4

/-- Units of a target's roll (R453). -/
def State.fwUnits (s : State) (t : Nat) : Nat :=
  if t = 0 then 1 else if t = 1 then 1 + s.configuredWorks.length else if t = 2 then (if s.siteFitted 1 then 2 else 1) else s.fioCount

/-- A core's broadcast begins anew. -/
def Core.fwClear (c : Core) : Core :=
  { c with fw := { c.fw with packets := [], complete := false, acked := false, repairs := 0 } }

/-- The named target loads, and rolls from Shutter `f` (R452, R453). -/
def State.startRoll (s : State) (t : Nat) (f : W64) : State :=
  let s := s.setFw t { s.fwTarget t with phase := 2, status := 0, units := s.fwUnits t, done := 0, rollAt := some f }
  if t = 1 then { s with core := s.core.map fun (e : Nat × Core) => (e.1, e.2.fwClear) } else s

/-- A target's last status (R456). -/
def State.fwFailed (s : State) (t st : Nat) : State := s.setFw t { s.fwTarget t with status := BitVec.ofNat 16 st }

/-- R452: the package `pkg` is verified, staged unless it is staged already, and target `t` rolls from `f`. The status,
0 where the roll begins. -/
def State.fwAccept (s : State) (pkg : List Byte) (t : Nat) (f : W64) : Nat × State :=
  let m := pkg.take (plWord pkg 2)
  let seq := BitVec.ofNat 32 (manSeq m)
  match s.fwRefused m with
  | some st => (st, (s.verifyFail).fwFailed t st)
  | none =>
    if s.sec.staged ≠ 0 && s.sec.staged ≠ seq then (eFwSeq, s.fwFailed t eFwSeq)
    else if s.sec.staged = seq then (0, s.startRoll t f)
    else if !s.fwImages pkg m then (eFwImage, (s.modBoot Boot.killOther).fwFailed t eFwImage)
    else
      let r := s.flashOk
      if !r.1 then
        (eFwFlash, ((r.2.modBoot Boot.killOther).rowFault (rowFlash (b2n (!s.boot.bank))) 2 0).fwFailed t eFwFlash)
      else (0, (r.2.stage pkg m).startRoll t f)

/-- R457: an FW express flit with the layout of R454 in its first body word. -/
def State.hallFlit (s : State) (dest kind seq index : Nat) (ws : List W32) : State :=
  s.expressTo 0x8 dest (word [(kind, 30, 2), (seq, 22, 8), (index, 0, 22)] :: ws)

/-- SEQ of the package in distribution. -/
def Security.hallSeq (x : Security) : Nat := manSeq x.hallOut % 256

/-- Packets of `idx` of the package go to a member, and an END with the package's length follows. -/
def State.hallPart (s : State) (idx : List Nat) (stop : Bool) (m : Nat) : State :=
  let b := s.sec.hallOut
  let s := idx.foldl (fun (s : State) i => s.hallFlit m 0 s.sec.hallSeq i (bytesWords ((b.drop (52 * i)).take 52))) s
  if stop then s.hallFlit m 2 s.sec.hallSeq 0 [BitVec.ofNat 32 b.length] else s

/-- A hall master sends a package marked HALL to every other member. -/
def State.hallSend (s : State) (pkg : List Byte) : State :=
  if !(s.hallMaster && manHall pkg) then s else
  let s := s.modSec fun x => { x with hallOut := pkg }
  (s.fab.hallMembers.filter (· ≠ s.panelId)).foldl (fun s m => s.hallPart (List.range (cdiv pkg.length 52)) true m) s

/-- R316, R452: FW_UPDATE. -/
def execFwUpdate (s : State) : Out :=
  s.command 0x50 [3, fullWord, fullWord, fullWord, fullWord, fullWord] fun c s =>
    let t := c.w 0
    let f := c.frame 4
    if !s.winOk c (c.w64 1) (c.w 3) then s.finish c eTarget
    else if s.tooSoon f then s.finish c eCmdTooSoon
    else if (s.fwTarget t).phase = 2 || (s.fwTarget t).phase = 3 then s.finish c eFwBusy
    else if c.w 3 = 0 then s.finish c 0 [0] -- a no-op (R10); what it returns: log entry 129
    else
      let x := s.winTake c.site (c.w64 1) (c.w 3)
      let pkg := x.1
      let r := x.2.fwAccept pkg t f
      if r.1 ≠ 0 then r.2.finish c r.1
      else (r.2.hallSend pkg).finish c 0 [BitVec.ofNat 32 (manSeq pkg)]

/-- A core takes no broadcast (R453): off, dark, resetting, retired, or failed in its repairs. -/
def Core.noFw (c : Core) : Bool :=
  c.ccb.state = .off || c.ccb.state = .dark || c.ccb.state = .resetting || c.ccb.state = .retired || c.failed.isSome

/-- RUN_SEQ: the lowest SEQ that a unit of the target runs (R456). -/
def State.lowestSeq (s : State) (t : Nat) : W32 :=
  let seqs := if t = 1 then (s.core.filter fun e => !e.2.noFw && e.2.fw.runSeq ≠ 0).map fun (e : Nat × Core) => e.2.fw.runSeq else []
  match seqs with
  | [] => (s.fwTarget t).runSeq
  | a :: r => r.foldl (fun (x y : W32) => if y < x then y else x) a

/-- The 16 words of FW_STATUS and SEC_FW (R456). -/
def State.fwWords (s : State) : List W32 :=
  (List.range 4).flatMap fun t =>
    let v := s.fwTarget t
    [word [(v.phase, 28, 4), (v.status.toNat, 0, 16)], s.lowestSeq t, s.sec.staged, word [(v.units, 16, 16), (v.done, 0, 16)]]

/-- R316, R456: FW_STATUS. -/
def execFwStatus (s : State) : Out :=
  s.command 0x51 [] fun c s => s.finish c 0 s.fwWords

/-! ### Activation (R455) -/

/-- The record of the other bank dies where ARB_BURN has passed it. -/
def Boot.killLow (b : Boot) (bank : Bool) (arb : Nat) : Boot :=
  let r := b.record bank
  if r.valid && r.arb < arb then b.setRec bank { r with state := recDead } else b

/-- R455, R437: the staged set, in bank `new`, becomes ACTIVE. -/
def State.activate (s : State) (new : Bool) : State :=
  let seq := s.sec.staged
  let s := s.modBoot fun b =>
    let b := b.setRec new { b.record new with state := recActive, tries := 0 }
    let b := if s.sec.stagedBurn then b.killLow (!new) s.sec.stagedArb else b
    { b with bank := new, seqA := b.recA.seq, seqB := b.recB.seq, tries := 0 }
  let other := s.boot.record (!new)
  let arb := if s.sec.stagedBurn then s.sec.stagedArb
    else if other.state = recActive then min other.arb s.sec.stagedArb else s.sec.arb
  let s := s.modSec fun x => { x with
    revEc := x.revEc ||| x.stagedRevEc
    revLms := x.revLms ||| x.stagedRevLms
    arb := max x.arb arb
    version := x.stagedVersion
    runHashes := x.stagedHashes
    staged := 0 }
  s.event evFw (s.ccbId .panel) 0 seq.toNat

/-- Every target runs the staged set. -/
def State.fwAllRun (s : State) : Bool :=
  s.sec.staged ≠ 0 && (List.range 4).all fun t => (s.fwTarget t).phase = 4 && s.lowestSeq t = s.sec.staged

/-- Target `t` runs the staged image. -/
def Security.runOne (t : Nat) (x : Security) : Security :=
  let l := (List.range 4).map fun i => if i = t then x.stagedHashes.getD i [] else x.runHashes.getD i []
  { x with runHashes := l }

/-- One more unit of target `t` has switched; at the last the target is DONE and runs the staged set. -/
def State.fwSwitched (s : State) (t : Nat) : State :=
  let v := s.fwTarget t
  if v.units ≤ v.done + 1 then
    let s := s.setFw t { v with phase := 4, done := v.units, runSeq := s.sec.staged, rollAt := none }
    let s := s.modSec (Security.runOne t)
    if s.fwAllRun then s.activate (!s.boot.bank) else s
  else s.setFw t { v with phase := 3, done := v.done + 1 }

/-- The cores of unit `k` of the roll of target 1 (R453). -/
def State.fwCores (s : State) (k : Nat) : List Nat :=
  if k = 0 then (List.range 576).filter fun n => !(s.getCore n).exposed || (s.workOfQuad (coreQuad n)).isNone
  else match s.configuredWorks[k - 1]? with
    | some w => (List.range 576).filter fun n => (s.getCore n).exposed && (s.getWork w).quads.contains (coreQuad n)
    | none => []

/-- A core switches its slot where it holds the whole image. -/
def Core.fwSwitch (seq : W32) (c : Core) : Core :=
  if c.fw.complete then
    { c with fw := { c.fw with runSeq := seq, packets := [], complete := false, acked := false, repairs := 0 } }
  else c

/-- The broadcast and its repairs are complete. -/
def State.fwLoaded (s : State) : Bool :=
  (List.range 576).all fun n => let c := s.getCore n; c.fw.acked || c.noFw

/-- A target whose roll has come switches one unit. -/
def State.fwBathOne (s : State) (t : Nat) : State :=
  let v := s.fwTarget t
  match v.rollAt with
  | none => s
  | some f =>
    if s.pmc.frame < f || (v.phase ≠ 2 && v.phase ≠ 3) then s
    else if t = 1 then
      if v.done = 0 && !s.fwLoaded then s
      else (s.each (s.fwCores v.done) fun s n => s.modCore n (Core.fwSwitch s.sec.staged)).fwSwitched 1
    else s.fwSwitched t

/-- R453, at Stop Bath step 4, for the targets that switch there. -/
def State.fwBath (s : State) : State :=
  let s := s.each [1, 2, 3] State.fwBathOne
  if s.fwAllRun then s.activate (!s.boot.bank) else s

/-- R455: the PMC has fallen back to the other bank while a set is staged. -/
def State.fwFallBack (s : State) : State :=
  let run := (s.boot.record s.boot.bank).seq
  let s := s.modBoot Boot.killOther
  let s := s.each [0, 1, 2, 3] fun s t => s.setFw t { s.fwTarget t with phase := 5, runSeq := run, rollAt := none }
  let s := { s with core := s.core.map fun (e : Nat × Core) => (e.1, { e.2.fwClear with fw := { e.2.fwClear.fw with runSeq := run } }) }
  s.modSec fun x => { x with staged := 0 }

/-! ### The broadcast (R454) -/

/-- Packets of a core image of `length` bytes. -/
def fwPackets (length : Nat) : Nat := cdiv length 24

/-- The set that a message names is the one staged. -/
def State.fwSeqOk (s : State) (seq : Nat) : Bool := s.sec.staged ≠ 0 && s.sec.staged.toNat % 256 = seq % 256

/-- R454: a DATA message reaches a core. -/
def execFwData (core : Nat) (seq : Nat) (index : Nat) (words : List W32) (s : State) : Out :=
  unit (coreOk core) "core" <|
  let c := s.getCore core
  if !s.fwSeqOk seq || c.noFw then .next (s.answer 0)
  else .next ((s.setCore core { c with
    fw := { c.fw with packets := tset c.fw.packets index (words.take 6) [] } }).answer 0)

/-- The packets of an image of `length` bytes that a core misses. -/
def CoreFw.missing (f : CoreFw) (length : Nat) : List Nat :=
  (List.range (fwPackets length)).filter fun i => (tget f.packets i []).length ≠ 6

/-- The image a core has received. -/
def CoreFw.image (f : CoreFw) (length : Nat) : List Byte :=
  (((List.range (fwPackets length)).flatMap fun i => wordBytes (tget f.packets i []))).take length

/-- R454: END reaches a core, in the broadcast or as a repair attempt's last message. The answer's first word gives KIND;
a NACK lists what is missing. -/
def execFwEnd (core : Nat) (seq : Nat) (length : Nat) (s : State) : Out :=
  unit (coreOk core) "core" <|
  let c := s.getCore core
  if !s.fwSeqOk seq || c.noFw then .next (s.answer 0)
  else
    let miss := c.fw.missing length
    if miss.isEmpty && Config.sha384 (c.fw.image length) = s.sec.stagedHashes.getD 1 [] then
      .next ((s.setCore core { c with fw := { c.fw with complete := true } }).answer 0 [0xC0000000])
    else if c.fw.repairs < 3 then
      .next ((s.setCore core { c with fw := { c.fw with repairs := c.fw.repairs + 1 } }).answer 0
        (miss.map fun i => word [(1, 30, 2), (seq, 22, 8), (i, 0, 22)]))
    else
      let s := s.setCore core { c with failed := some 0x29 }
      .next ((s.fault core fFwRepair).answer 0)

/-- R454, R460: a NACK reaches the PMC, which repeats the packets it lists. -/
def execFwNack (core : Nat) (indices : List Nat) (s : State) : Out :=
  unit (coreOk core) "core" <|
  .next ((s.countPmc 0x0FA4 indices.length).answer 0 (indices.map (BitVec.ofNat 32)))

/-- R454: an ACK reaches the PMC. -/
def execFwAck (core : Nat) (s : State) : Out :=
  unit (coreOk core) "core" <|
  .next ((s.modCore core fun c => if c.fw.complete then { c with fw := { c.fw with acked := true } } else c).answer 0)

/-! ### Hall distribution (R457) -/

/-- A member fails: its FW_STATUS and its FW event say so. -/
def State.hallFwFailed (s : State) (t st : Nat) : State :=
  let s := s.setFw t { s.fwTarget t with phase := 5, status := BitVec.ofNat 16 st }
  s.event evFw (s.ccbId .panel) t (tget s.sec.hallPackets 0 [] |>.getD 3 0).toNat

/-- The package a member holds after an END of `length` bytes. -/
def State.hallPackage (s : State) (length : Nat) : List Byte :=
  ((List.range (cdiv length 52)).flatMap fun i => wordBytes (tget s.sec.hallPackets i [])).take length

/-- The indices of a member's NACK flits: a flit holds up to 14, and one of 14 has another after it (log entry 67). -/
def nackLists : Nat → List Nat → List (List Nat)
  | 0, l => [l]
  | n + 1, l => if l.length ≤ 13 then [l] else if l.length = 14 then [l.take 13, l.drop 13] else l.take 14 :: nackLists n (l.drop 14)

/-- A member NACKs to the hall master. -/
def State.hallNack (s : State) (seq : Nat) (miss : List Nat) : State :=
  (nackLists miss.length miss).foldl (fun (s : State) l =>
    s.hallFlit (s.fab.hallMembers.foldl min s.panelId) 1 seq (l.headD 0) ((l.drop 1).map (BitVec.ofNat 32))) s

/-- The distribution has ended at a member. -/
def Security.hallDone (x : Security) : Security := { x with hallPackets := [], hallRepairs := 0 }

/-- R457: a firmware express flit. DATA and END come to a member, which allows 3 repair attempts; NACK and ACK come to the master from
panel `src`: it repeats the packets by unicast, and after the last list an END. The target and the frame that the master's command
names travel in no field that R457 gives: they are free (log entry 67). -/
def execFwFlit (rx : Rx) (src : Nat) (head : FwHead) (words : List W32) (s : State) : Out :=
  flit s rx.port rx.flit [] fun s =>
  relayed s rx.flit 0x8 (word [(head.kind, 30, 2), (head.seq, 22, 8), (head.index, 0, 22)] :: words) <|
  if head.kind = 0 then
    .next ((s.modSec fun x => { x with hallPackets := tset x.hallPackets head.index (words.take 13) [] }).answer 0)
  else if head.kind = 2 then
    let n := (words.getD 0 0).toNat
    let miss := (List.range (cdiv n 52)).filter fun i => (tget s.sec.hallPackets i []).length ≠ 13
    if !miss.isEmpty then
      if s.sec.hallRepairs < 3 then
        .next (((s.modSec fun x => { x with hallRepairs := x.hallRepairs + 1 }).hallNack head.seq miss).answer 0
          (miss.map fun i => word [(1, 30, 2), (head.seq, 22, 8), (i, 0, 22)]))
      else
        let t := s.choose 117 4
        .next (((t.2.hallFwFailed t.1 eFwImage).modSec Security.hallDone).answer (BitVec.ofNat 16 eFwImage))
    else
      let t := s.choose 117 4
      let f := t.2.choose 118 (2 ^ 32)
      let r := f.2.fwAccept (s.hallPackage n) t.1 (s.pmc.frame + 2 + BitVec.ofNat 64 f.1)
      let s := if r.1 ≠ 0 then r.2.hallFwFailed t.1 r.1 else r.2
      let s := if r.1 = 0 then s.hallFlit (s.fab.hallMembers.foldl min s.panelId) 3 head.seq 0 [] else s
      .next ((s.modSec Security.hallDone).answer (BitVec.ofNat 16 r.1))
  else if head.kind = 1 then
    let idx := head.index :: (words.take 13).map BitVec.toNat
    .next ((s.hallPart idx (idx.length < 14) src).answer 0 [word [(head.kind, 30, 2), (head.seq, 22, 8), (head.index, 0, 22)]])
  else .next (s.answer 0 [word [(head.kind, 30, 2), (head.seq, 22, 8), (head.index, 0, 22)]])

/-! ### The device's LMS state (R447, R448) -/

/-- R448 steps 1, 2, 4, 5: the index that the next signature takes, if any; 1,024 more are reserved where USE has reached
NEXT. -/
def State.hssIndex (s : State) : Option Nat × State :=
  if s.sec.lmsOff || 2 ^ 30 ≤ s.sec.use then (none, s)
  else
    let s := if s.sec.use < s.sec.next then s
      else
        let r := s.flashOk
        if r.1 then r.2.modSec fun x => { x with
          next := x.next + 1024
          journalA := some (x.next + 1024)
          journalB := some (x.next + 1024) }
        else r.2.modSec fun x => { x with lmsOff := true }
    if s.sec.lmsOff then (none, s) else (some s.sec.use, s.modSec fun x => { x with use := x.use + 1 })

/-- R448 step 3: USE takes the highest NEXT of either bank. -/
def Security.resume (x : Security) : Security :=
  match x.journalA, x.journalB with
  | none, none => { x with lmsOff := true }
  | some a, none => { x with use := a, next := a }
  | none, some b => { x with use := b, next := b }
  | some a, some b => { x with use := max a b, next := max a b }

/-! ### Attestation (R449 to R451) -/

/-- The site's CXL.io is up, so that its DOE mailbox answers (R307, R309). -/
def State.doe (s : State) (site : Nat) (k : Site → Out) : Out :=
  unit (site < 2) "Host Site" <| due s (s.getSite site).open (k (s.getSite site))

/-- ERROR codes of SPDM 1.3 (log entry 68). -/
def spdmInvalid : Status := 1
def spdmUnexpected : Status := 4
def spdmUnsupportedReq : Status := 7

/-- The chain of slot 0 (R449): it changes with the image set, since the Alias certificate names it (R445). -/
def State.chain (s : State) : List Byte := Config.certificate (1 + (s.boot.record s.boot.bank).seq.toNat)
/-- The 60-byte device HSS public key (R445). -/
def hssPublic : List Byte := (Config.certificate 0).take 60

/-- A request of a connection answered without a signature. -/
def Site.spdm (g : Site) (bs : List Byte) : Site :=
  { g with signed := none, transcript := g.transcript ++ bs }

/-- GET_VERSION begins the connection afresh; the one version is 1.3. -/
def execGetVersion (site : Nat) (s : State) : Out :=
  s.doe site fun g => .next ((s.setSite site { g with
    spdmVersion := true, spdmCaps := false, spdmAlgs := false, transcript := [], signed := none }).answer 0 [0x1300])

/-- An SPDM ERROR. -/
def State.spdmError (s : State) (site : Nat) (code : Status) : State :=
  (s.modSite site fun g => { g with signed := none }).answer code

def execGetCapabilities (site : Nat) (s : State) : Out :=
  s.doe site fun g =>
    if !g.spdmVersion then .next (s.spdmError site spdmUnexpected)
    else .next ((s.setSite site { g.spdm [0xE1] with spdmCaps := true }).answer 0)

/-- R449: ECDSA P-384 and SHA-384, the only algorithms, as SPDM numbers them (log entry 68). -/
def execNegotiateAlgorithms (site : Nat) (baseAsym baseHash measHash : W32) (s : State) : Out :=
  s.doe site fun g =>
    if !g.spdmCaps then .next (s.spdmError site spdmUnexpected)
    else
      let a := baseAsym &&& 0x80
      let h := baseHash &&& 0x2
      let m := measHash &&& 0x4
      .next ((s.setSite site { g.spdm (wordBytes [baseAsym, baseHash, measHash, a, h, m]) with
        spdmAlgs := decide (a ≠ 0 ∧ h ≠ 0) }).answer 0 [a, h, m])

def execGetDigests (site : Nat) (s : State) : Out :=
  s.doe site fun g =>
    if !g.spdmAlgs then .next (s.spdmError site spdmUnexpected)
    else
      let d := Config.sha384 s.chain
      .next ((s.setSite site (g.spdm d)).answer 0 (bytesWords d))

/-- Slot 0 only (R449). -/
def execGetCertificate (site : Nat) (slot : Nat) (offset length : Nat) (s : State) : Out :=
  s.doe site fun g =>
    if !g.spdmAlgs then .next (s.spdmError site spdmUnexpected)
    else if slot ≠ 0 || s.chain.length ≤ offset then .next (s.spdmError site spdmInvalid)
    else
      let part := (s.chain.drop offset).take length
      .next ((s.setSite site (g.spdm part)).answer 0 (bytesWords part))

/-- The message is signed with the Alias key, and its hash is what SIGN_TRANSCRIPT may sign. -/
def State.aliasSign (s : State) (site : Nat) (g : Site) (msg : List Byte) : State :=
  let h := Config.sha384 (g.transcript ++ msg)
  let sig := Config.sign 0 s.fresh h
  let s := s.setSite site { g with transcript := [], signed := some h }
  { s with fresh := s.fresh + 1 }.answer 0 (bytesWords (msg ++ sig))

def execChallenge (site : Nat) (slot : Nat) (nonce : List Byte) (s : State) : Out :=
  s.doe site fun g =>
    if !g.spdmAlgs then .next (s.spdmError site spdmUnexpected)
    else if slot ≠ 0 then .next (s.spdmError site spdmInvalid)
    else .next (s.aliasSign site g (nonce ++ Config.nonce s.fresh ++ Config.sha384 s.chain))

/-- A slot record (log entry 65). -/
def KeySlot.bytes (k : KeySlot) : List Byte :=
  natLe 1 (b2n k.filled) ++ k.ec ++ k.lms ++ natLe 4 k.number.toNat ++ natLe 1 (b2n k.revoked)

/-- The measurement blocks (R450). -/
def State.measurement (s : State) (i : Nat) : List Byte :=
  if i = 1 then Config.sha384 Config.bootRom
  else if i ≤ 5 then s.sec.runHashes.getD (i - 2) []
  else if i = 6 then natLe 1 s.sec.arb ++ natLe 1 s.sec.revEc.toNat ++ natLe 1 s.sec.revLms.toNat
  else if i = 7 then Config.sha384 ((List.range 4).flatMap fun k => (s.keySlot k).bytes)
  else wordBytes s.fwWords

/-- R450: block `index`, the number of blocks at 0, all of them at 0xFF. -/
def execGetMeasurements (site : Nat) (index : Nat) (sign : Bool) (nonce : List Byte) (s : State) : Out :=
  s.doe site fun g =>
    if !g.spdmAlgs then .next (s.spdmError site spdmUnexpected)
    else if 8 < index && index ≠ 0xFF then .next (s.spdmError site spdmInvalid)
    else
      let body := if index = 0 then [8] else if index = 0xFF then (upTo 1 8).flatMap s.measurement else s.measurement index
      if sign then .next (s.aliasSign site g (nonce ++ Config.nonce s.fresh ++ body))
      else .next ((s.setSite site (g.spdm body)).answer 0 (bytesWords body))

/-- The LMS companion's response word 0 (R451). -/
def lmsWord (op st : Nat) : W32 := word [(op, 24, 8), (st, 0, 16)]

/-- R451, R448: SIGN_TRANSCRIPT. -/
def execSignTranscript (site : Nat) (word0 : W32) (s : State) : Out :=
  s.doe site fun g =>
    let op := bits word0.toNat 24 8
    due s (op ≠ 2) <| -- SIGN_TRANSCRIPT, or an OP that R451 does not give
    let gone := s.setSite site { g with signed := none }
    if op ≠ 1 || bits word0.toNat 0 24 ≠ 0 then .next (gone.answer 0 [lmsWord op eReserved])
    else match g.signed with
      | none => .next (gone.answer 0 [lmsWord op eSecNoTranscript])
      | some h =>
        let r := gone.hssIndex
        match r.1 with
        | none => .next (r.2.answer 0 [lmsWord op eSecLms])
        | some q => .next (r.2.answer 0 ([lmsWord op 0, BitVec.ofNat 32 q] ++ bytesWords (Config.sign 1 q h)))

/-- R451: GET_PUBLIC. -/
def execGetPublic (site : Nat) (word0 : W32) (s : State) : Out :=
  s.doe site fun g =>
    let op := bits word0.toNat 24 8
    due s (op = 2) <| -- GET_PUBLIC
    let gone := s.setSite site { g with signed := none }
    if bits word0.toNat 0 24 ≠ 0 then .next (gone.answer 0 [lmsWord op eReserved])
    else .next (gone.answer 0 (lmsWord op 0 :: bytesWords hssPublic))

/-- R449: every other request. -/
def execSpdmUnsupported (site : Nat) (code : Nat) (s : State) : Out :=
  s.doe site fun _ => .next ((s.spdmError site spdmUnsupportedReq).answer spdmUnsupportedReq [BitVec.ofNat 32 code])

end Sys2Proof.Machine
end

