-- ==== Sys2Proof/Machine/Health.lean ====
section
/-! DEFINITION. Health: failed cores and their replacement (R396 to R399), void frames and recovery (R400 to R403), resets and
warm recovery (R405, R431, R432), the PMC's restart (R410), ageing and margins (R411 to R414), late cores (R415). -/

namespace Sys2Proof.Machine

/-! ### Row states (R393) -/

def rowGood : Nat := 1
def rowFailing : Nat := 3
def rowRetired : Nat := 4
def rowTesting : Nat := 6
def rowSpare : Nat := 7

/-- DATA of a core's row: work cell, position, BORROWED (R392). -/
def State.coreData (s : State) (n : Nat) : W32 :=
  match (s.getCore n).position with
  | some p => word [(p.1, 25, 7), (p.2, 13, 12), (b2n (!(s.getWork p.1).quads.contains (coreQuad n)), 12, 1)]
  | none => word [(0x7F, 25, 7), (0xFFF, 13, 12)]

/-! ### Replacement (R397, R398) -/

/-- A sparing that waits for its Shutter puts core `n` in, or takes it out. -/
def State.spareIn (s : State) (n : Nat) : Bool :=
  s.pmc.overrides.any fun e => match e.1 with
    | .spare _ m => m = n
    | _ => false
def State.spareOut (s : State) (n : Nat) : Bool :=
  s.pmc.overrides.any fun e => match e.1 with
    | .spare m _ => m = n
    | _ => false

/-- A usable reserve (R397), of a quadrant that is not out of service (R367). -/
def State.usable (s : State) (n : Nat) : Bool :=
  (s.row n).state = rowSpare && (s.row (rowDie (coreDie n))).state = rowGood && (s.getCore n).position.isNone &&
    (s.getCore n).failed.isNone && !s.spareIn n && (s.getQuad (coreQuad n)).missed < 4

def State.usableIn (s : State) (q : Nat) : List Nat := (quadCores q).filter s.usable

/-- RESERVES of HLT_STAT (R417). -/
def State.reserves (s : State) : Nat := ((List.range 576).filter s.usable).length

/-- Mesh hops between the routers of two cores. -/
def meshHops (a b : Nat) : Nat :=
  (max (coreX a) (coreX b) - min (coreX a) (coreX b)) + (max (coreY a) (coreY b) - min (coreY a) (coreY b))

/-- The nearest of a list, ties to the lower ID. -/
def nearest (n : Nat) : List Nat → Option Nat
  | [] => none
  | a :: r => some (r.foldl (fun m x =>
      if meshHops x n < meshHops m n || (meshHops x n = meshHops m n && x < m) then x else m) a)

/-- The share that a position of work cell `w` takes of a lending quadrant, in 5 A units (R397). -/
def State.spareShare (s : State) (w p : Nat) : Nat :=
  match (s.getWork w).bound, s.boundPlate w with
  | some b, some img =>
    let x := posQuad img p
    cdiv (curPeak img b.variant x.1 x.2) (max 1 (plCpq img))
  | _, _ => 0

/-- Quadrant `c` may lend to a position of work cell `w` in quadrant `q` (R397). -/
def State.mayLend (s : State) (q c w p : Nat) : Bool :=
  c = q ||
    ((s.workOfQuad c = s.workOfQuad q || (s.workOfQuad c).isNone) &&
      s.peakOf c + s.spareShare w p ≤ (s.getQuad c).limit)

/-- The quadrants of R397 in their order: q, q XOR 1, q XOR 2, q XOR 3. -/
def lenders (q : Nat) : List Nat := [0, 1, 2, 3].map fun k => q / 4 * 4 + Nat.xor (q % 4) k

/-- R397: the replacement of core `n` at position `p` of work cell `w`. -/
def State.replacement (s : State) (n w p : Nat) : Option Nat :=
  (lenders (coreQuad n)).findSome? fun c =>
    if s.mayLend (coreQuad n) c w p then nearest n (s.usableIn c) else none

/-- The replacement of an exposed core without a position (R3), in R397's order: it takes no share of a lender. -/
def State.standIn (s : State) (n : Nat) : Option Nat :=
  let q := coreQuad n
  (lenders q).findSome? fun c =>
    if c = q || s.workOfQuad c = s.workOfQuad q || (s.workOfQuad c).isNone then nearest n (s.usableIn c) else none

/-- R399: a failed core is not replaced. -/
def State.derate (s : State) (n : Nat) : State :=
  if !((s.getCore n).exposed || (s.getCore n).owed) then s else
  let s := s.modCore n fun c => { c with exposed := false, owed := false }
  let s := (s.modHlt fun h => { h with derated := true }).modComp 408 fun c => { c with reason := whyDerated }
  s.event evDerated (s.ccbId .panel) (s.exposedIn .panel) 0

/-- R402: no reserve: the cell's affected entries end, its plate is unbound at the next Shutter. -/
def State.noReserve (s : State) (w : Nat) : State :=
  let s := s.loseOut w lostNoReserve
  (s.modWork w fun x => { x with unbindAt := some (s.pmc.frame + 1), closed := true }).modComp (409 + w) fun c =>
    { c with reason := whyNoReserve }

/-- Core `m` takes the place of core `n` from the next Shutter (R398). Under MANUAL sparing a DECISION event names both cores
instead (R317). -/
def State.spareBy (s : State) (n m : Nat) : State :=
  if s.manual 0 then s.decision 0 (.core n) (n * 1024 + m)
  else
    (s.override [.spare n m] (s.pmc.frame + 1)).noteSpare n m

/-- R397, R398: at the Stop Bath the position of core `n` goes to a replacement; a failed exposed core without a position is
replaced too while a reserve remains (R3, R399: log entry 109). -/
def State.sparePosition (s : State) (n : Nat) : State :=
  match (s.getCore n).position with
  | none =>
    if (s.getCore n).failed.isNone || !(s.getCore n).exposed || s.spareOut n then s
    else match s.standIn n with
      | some m => s.spareBy n m
      | none => s.derate n
  | some p =>
    if s.spareOut n then s
    else match s.replacement n p.1 p.2 with
      | some m => s.spareBy n m
      | none =>
        if (s.getCore n).failed.isSome then
          let s := (s.noReserve p.1).derate n
          s.modHlt fun h => { h with spareLast := word [(n, 22, 10), (0x3FF, 12, 10), (s.pmc.frame.toNat, 0, 11)] }
        else s

/-- R396: a core found failed: its row is FAILING, and its position is spared. -/
def State.failCore (s : State) (n : Nat) : State :=
  match (s.getCore n).failed with
  | none => s
  | some why =>
    if (s.row n).state = rowFailing || (s.row n).state = rowRetired then s
    else (s.rowState n rowFailing why).sparePosition n

/-- A core that is owed a replacement under MANUAL sparing is derated once no reserve can replace it (R3, R399: log entry 127). -/
def State.owedBath (s : State) (n : Nat) : State :=
  if !(s.getCore n).owed || s.spareOut n then s
  else match (s.getCore n).position with
    | some p => if (s.replacement n p.1 p.2).isSome then s else (s.noReserve p.1).derate n
    | none => if (s.standIn n).isSome then s else s.derate n

/-- From the next Shutter a failed core is retired (R396): its CCB reads RETIRED with the reason of R28. Its exposure is owed while it
has a replacement to come (R3: log entry 127). -/
def State.retireCore (s : State) (n : Nat) : State :=
  let c := s.getCore n
  if (s.row n).state ≠ rowFailing then s else
  let why := if c.failed = some 0x0A then whySelfTest else if c.failed = some 0x09 then whyOperator else whyNone
  ((s.stopCore n).modCore n fun k => { k with
    ccb := { k.ccb with state := .retired, reason := why }
    exposed := false
    owed := c.exposed || c.owed
    rejoin := false }).rowState n rowRetired (s.row n).reason

/-- Frames of recovery: ⌈t_load / G⌉ at 0.32 TB/s, at least one (R402). -/
def State.recoverFrames (s : State) (w : Nat) : Nat :=
  match (s.getWork w).bound, s.boundPlate w with
  | some b, some img => max 1 (cdiv (residentLoad img (s.getWork w).quads b.place).1 (max 1 (320 * s.develop)))
  | _, _ => 1

/-- Position `p` moves to core `m`. -/
def Binding.move (p m : Nat) (b : Binding) : Binding := { b with place := b.place.set p m }

/-- R398: at the Shutter core `m` takes the position that core `n` held, with the layouts and registers that the PMC holds for
it (R246), and its exposure (R3). The replacement's resident entries are loaded in a recovery frame (R401). -/
def State.applySpare (s0 : State) (n m : Nat) : State :=
  let c := s0.getCore n
  let s := (s0.settled 0 (.core n) fun _ => false).modCore n fun c =>
    { c with exposed := false, owed := false, position := none, seq := { c.seq with lenReg := 0 } }
  let s := s.rowData n (s.coreData n)
  let s := s.modCore m fun k => { k with
    exposed := c.exposed || c.owed
    position := c.position
    sparedAt := some s.pmc.frame
    ve := { k.ve with lut := [], lutPoison := [] } -- R131
    ccb := { k.ccb with reason := whySpared } }
  let s := match c.position with
    | none => s
    | some p =>
      let s := s.modWork p.1 fun x => { x with bound := x.bound.map (Binding.move p.2 m) }
      let s := s.modWork p.1 fun x =>
        if (x.bound.map fun (b : Binding) => b.stage) = some BindStage.running then { x with recover := max x.recover (s.recoverFrames p.1) } else x
      match (s.getWork p.1).bound, s.boundPlate p.1 with
      | some b, some img =>
        let k := pendingCopy img b.quads b.place p.2 s.pmc.frame
        let s := s.modCore m fun x => { x with
          seq := { x.seq with baseReg := k.base, lenReg := posLen img p.2 }
          str := { x.str with muReg := k.mu, neg := [], stats := [] }
          scr := { x.scr with cadReg := k.cad, hazReg := k.haz } }
        -- R198: the old router's C port is retired, and its traffic is re-routed; a failed detour cuts the cell's quota (R207)
        match s.detours [(n, m)] with
        | some bs => bs.foldl (fun (s : State) (e : Nat × Tab W32) => s.modRtr e.1 fun x => { x with active := e.2 }) s
        | none => s.modPmc fun x => { x with unrouted := nadd x.unrouted p.1 }
      | _, _ => s
  let s := s.rowState m rowGood 0
  -- a fault that the reserve brings with it is a member's now (R32)
  (s.rowData m (s.coreData m)).relatch s0 ((s0.above m).map (·.1))

/-- SPARED ends after 1,024 frames (R398). -/
def State.endSpared (s : State) (n : Nat) : State :=
  match (s.getCore n).sparedAt with
  | some f =>
    if 1024 ≤ (s.pmc.frame - f).toNat then
      s.modCore n fun c => { c with
        sparedAt := none
        ccb := { c.ccb with reason := if c.ccb.reason = whySpared then whyNone else c.ccb.reason } }
    else s
  | none => s

/-! ### Resets (R405, R431, R432) -/

/-- R405: at Stop Bath step 4 a planned reset acts. -/
def State.takeReset (s : State) (n : Nat) : State :=
  let c := s.getCore n
  if !c.ccb.resetPending then s
  else ((s.stopCore n).modCore n fun k => { k with ccb := { k.ccb with state := .resetting, resetPending := false } }).rowState n
    rowTesting 0

/-- R432 steps 2 and 3: what warm recovery leaves in a core. The scratch that the BIST has run over is undefined. -/
def Core.warm (c : Core) (seq : W32) : Core :=
  { c with
    seq := { baseReg := c.seq.baseReg, lenReg := c.seq.lenReg, markPtr := c.seq.markPtr, markLog := c.seq.markLog,
             faultInfo := c.seq.faultInfo, faultIdx := c.seq.faultIdx, lfEndCycle := c.seq.lfEndCycle }
    arr := { ce := c.arr.ce, ue := c.arr.ue, ueRow := c.arr.ueRow }
    ve := { ce := c.ve.ce, ue := c.ve.ue, faultInfo := c.ve.faultInfo }
    str := { muReg := c.str.muReg, mu := c.str.mu, clippedLf := c.str.clippedLf, ctx := c.str.stale }
    scr := { ce := c.scr.ce, ue := c.scr.ue, eccWord := c.scr.eccWord, hazPtr := c.scr.hazPtr, hazLog := c.scr.hazLog,
             hazReg := c.scr.hazReg, haz := c.scr.haz, expire := c.scr.expire, slipMax := c.scr.slipMax,
             slipMaxCyc := c.scr.slipMaxCyc }
    dma := []
    fw := { runSeq := seq } }

/-- R432 step 4: the self-test of a core in RESETTING ends. -/
def execWarmSelfTestDone (core : Nat) (pass : Bool) (s : State) : Out :=
  unit (coreOk core) "core" <|
  let c := s.getCore core
  due s (c.ccb.state = .resetting && !c.rejoin) <| -- the core is in warm recovery
  let s := (s.setCore core (c.warm (s.boot.record s.boot.bank).seq)).forget (scratchAddr core 0) 0x1000000
  let s := s.unmark (scratchAddr core 0) 0x1000000
  if pass then .next (s.modCore core fun c => { c with rejoin := true })
  else
    let s := (s.modCore core fun c => { c with failed := some 0x0A }).setFault core fSelfTest
    .next (s.rowAttempt core)

/-- R432 step 5: a core that has passed rejoins at the Shutter: at a position that is still its own, or as it stood; its
layouts come from the PMC. -/
def State.rejoinCore (s : State) (n : Nat) : State :=
  let c := s.getCore n
  let q := s.getQuad (coreQuad n)
  let d := coreDie n % 3
  if !c.rejoin || c.ccb.state ≠ .resetting || q.gated.getLsbD d || !q.tested.getLsbD d then s else
  let s := s.modCore n fun c => { c with
    rejoin := false
    ccb := { c.ccb with state := if c.position.isSome then .running else .ready, reason := whyNone } }
  let s := match c.position with
    | none => s
    | some p =>
      match (s.getWork p.1).bound, s.boundPlate p.1 with
      | some b, some img =>
        let k := pendingCopy img (s.getWork p.1).quads b.place p.2 s.pmc.frame
        s.modCore n fun x => { x with
          seq := { x.seq with baseReg := k.base, lenReg := posLen img p.2 }
          str := { x.str with muReg := k.mu }
          scr := { x.scr with cadReg := k.cad, hazReg := k.haz } }
      | _, _ => s
  (s.rowState n (if c.exposed then rowGood else rowSpare) 0).rowData n (s.coreData n)

/-! ### Void frames and recovery (R400 to R403, R405) -/

/-- R401, R403: every affected entry is retried once; one retried already ends LOST RETRY_FAULT. -/
def State.retryOut (s : State) (w : Nat) : State :=
  let l := (s.getWork w).out
  let twice := l.filter (·.retried)
  let s := s.modWork w fun x => { x with out := (l.filter fun q => !q.retried).map fun q => { q with retried := true } }
  (s.countPmc 0x0518 twice.length).lose twice lostRetry

/-- The positions of a work cell whose core cannot run and has no replacement on the way. -/
def State.stuck (s : State) (w : Nat) : Bool :=
  match (s.getWork w).bound with
  | some b => b.place.any fun n =>
    let c := s.getCore n
    (c.failed.isSome || c.ccb.state = .resetting || c.ccb.state = .retired) && !s.spareOut n
  | none => false

/-- Why an entry that comes too late ends LOST: NO_RESERVE while a position waits for a core in reset (R405), else
RETRY_FAULT. -/
def State.lateReason (s : State) (w : Nat) : Nat :=
  match (s.getWork w).bound with
  | some b => if b.place.any fun n => (s.getCore n).ccb.state = .resetting && !s.spareOut n then lostNoReserve else lostRetry
  | none => lostRetry

/-- R323, R402: entries whose promise has passed end: NO_RESULT, or after a retry RETRY_FAULT or NO_RESERVE. -/
def State.deadlines (s : State) (w : Nat) : State :=
  match s.boundPlate w with
  | none => s
  | some img =>
    let f := s.pmc.frame.toNat
    let l := (s.getWork w).out
    let plain := l.filter fun q => !q.retried && q.admitF.toNat + plD img ≤ f
    let again := l.filter fun q => q.retried && q.admitF.toNat + plD img + 2 ≤ f
    let why := s.lateReason w
    let s := s.modWork w fun x => { x with out := l.filter fun q =>
      !(q.admitF.toNat + plD img + (if q.retried then 2 else 0) ≤ f) }
    let s := if why = lostRetry then s.countPmc 0x0518 again.length else s
    (s.lose plain lostNoResult).lose again why

/-- R401 step 1, R405, for one work cell at drain close: `reset` when a planned reset, or a failure that voids no frame (RETIRE), has
taken one of its cores. -/
def State.recoverBath (s : State) (w : Nat) (reset : Bool) : State :=
  let x := s.getWork w
  match x.bound with
  | none => s
  | some b =>
    if b.stage ≠ .running then s
    else if x.void = some s.pmc.frame && x.unbindAt ≠ some (s.pmc.frame + 1) then
      let s := ((s.countPmc 0x0514 1).cellEvent (.work w)).retryOut w
      s.modWork w fun x => { x with recover := s.recoverFrames w, replay := true }
    else if reset then
      let s := s.modWork w fun x => { x with out := x.out.map fun q => { q with retried := true } }
      s.modWork w fun x => { x with recover := max x.recover (s.recoverFrames w) }
    else if x.mode = 2 then s.modWork w fun x => { x with void := none }
    else s

/-- The Stop Bath of a recovery frame: the resident entries of every position are loaded (R401 step 2). -/
def State.recoverLoads (s : State) (w : Nat) : State :=
  match (s.getWork w).bound with
  | some b => if (s.getWork w).mode = 1 then s.each b.place State.loadCore else s
  | none => s

/-- Every position's core runs. -/
def State.mayRun (s : State) (w : Nat) : Bool :=
  match (s.getWork w).bound with
  | some b => b.place.all fun n => match (s.getCore n).ccb.state with
    | .running | .ready | .starting | .degraded => true
    | _ => false
  | none => false

/-- R401, R402: what a bound work cell does in the frame that opens: 1 a recovery frame, 2 the replay, 0 its own work. -/
def State.recoverTick (s : State) (w : Nat) : State :=
  let x := s.getWork w
  match x.bound with
  | none => if x.mode = 0 then s else s.setWork w { x with mode := 0 }
  | some b =>
    if b.stage ≠ .running then s
    else if !s.mayRun w || s.stuck w then
      (s.setWork w { x with mode := 1, recover := max 1 x.recover }).workState w .starting isUp
    else if 0 < x.recover then (s.setWork w { x with mode := 1, recover := x.recover - 1 }).workState w .starting isUp
    else if x.replay then (s.setWork w { x with mode := 2, replay := false }).workState w .running isUp
    else if x.mode = 0 then s
    else (s.setWork w { x with mode := 0 }).workState w .running isUp

/-- The Stop Bath's part: planned resets, failed cores, replacement, recovery (R55 step 4, R396, R397, R401, R405). -/
def State.healthBath (s : State) : State :=
  let resets := (s.core.filter fun e => e.2.ccb.resetPending).map (·.1)
  let s := s.each resets State.takeReset
  let dies := (resets.map coreDie).eraseDups.filter fun d => (dieCores d).all resets.contains && !(s.getQuad (d / 3)).resetPending
  let s := s.each dies fun s d => s.modQuad (d / 3) (Quad.expectAbsent d)
  let s := s.each ((List.range 96).filter fun q => (s.getQuad q).resetPending) (State.powerCycle true)
  let failed := (s.core.filter fun e => e.2.failed.isSome).map (·.1)
  let found := failed.filter fun n => !((s.row n).state = rowFailing || (s.row n).state = rowRetired)
  let s := s.each failed State.failCore
  let s := s.each ((s.core.filter fun e => e.2.owed).map (·.1)) State.owedBath
  let down := (s.core.filter fun e => e.2.ccb.state = .resetting && e.2.position.isSome).map (·.1)
  let s := s.each down State.sparePosition
  let hit := ((resets ++ found).filterMap fun n => (s.getCore n).position.map (·.1)).eraseDups
  let ws := s.pmc.work.map (·.1)
  let s := s.each ws fun s w => s.recoverBath w (hit.contains w)
  s.each ws State.deadlines

/-- Stacks that have FAILED: the plates with a REGION there are unbound at the next Shutter, their entries end LOST CELL_DOWN
(R409). -/
def State.failedStacks (s : State) : State :=
  s.bounds.foldl (fun (s : State) (e : Nat × List Byte) =>
    let quads := (s.getWork e.1).quads
    if (regions e.2).any fun r => r.1 / 2 ^ 28 = 1 && (s.getStack (refDie quads r.1)).state = 4 then
      (s.loseOut e.1 whyCellDown).modWork e.1 fun x => { x with unbindAt := some (s.pmc.frame + 1), closed := true }
    else s) s

/-! ### The PMC's restart (R410, R422, R455) -/

/-- A bank's record is a candidate for booting (R422). -/
def BootRec.candidate (r : BootRec) : Bool := r.valid && (r.state = recActive || (r.state = recTrial && r.tries < 3))

/-- The manifest and the images of a bank verify, and its ARB meets the fuses (R422, R441). -/
def State.bankOk (s : State) (bank : Bool) : Bool :=
  let r := s.boot.record bank
  let area := s.boot.image bank
  let m := bankManifest r area
  s.manSigned m manFirmware && s.sec.arb ≤ manArb m &&
    (List.range 4).all fun t => fwEntryOk m t && Config.sha384 (bankImage r area t) = fwHash m t

/-- Restarts within the last hour. -/
def State.recentRestarts (s : State) : List W64 :=
  s.hlt.restarts.filter fun f => (s.pmc.frame - f).toNat * s.pmc.t < 3600000000

/-- The PMC goes to the other bank (R410, R422); with a set staged it stays on the bank in use (R455). -/
def State.otherBank (s : State) : State :=
  if s.sec.staged ≠ 0 then
    let s := if (s.boot.record s.boot.bank).state = recTrial then s.modBoot fun b => { b with bank := !b.bank } else s
    (s.fwFallBack).modHlt fun h => { h with pmcAlt := true }
  else if (s.boot.record (!s.boot.bank)).candidate && s.bankOk (!s.boot.bank) then
    let m := bankManifest (s.boot.record (!s.boot.bank)) (s.boot.image (!s.boot.bank))
    ((s.modBoot fun b => { b with bank := !b.bank, alt := true }).modSec fun x => { x with
      version := BitVec.ofNat 32 (fwWord m 0 2) }).modHlt fun h => { h with pmcAlt := true }
  else s

/-- R410: the PMC restarts: its commands end with E_PMC_RESTART, and composite CCBs stay as they are. -/
def State.pmcRestart (s : State) : State :=
  let s := s.pmc.cmds.foldl (fun (s : State) (e : Nat × Nat) => (s.stamp (s.cmdAt e.1 e.2)).close (s.cmdAt e.1 e.2) ePmcRestart [] 0) s
  let s := ((s.dropCorridor 3).modPmc fun p => { p with
    restarting := true
    held := some { core := s.core, comp := p.comp, work := p.work, peers := s.fab.peers, frame := p.frame }
    copy := none }).countPmc 0x051C 1
  let l := s.recentRestarts ++ [s.pmc.frame]
  let s := s.modHlt fun h => { h with restarts := l }
  if l.length % 3 = 0 then s.otherBank else s

/-- R410. -/
def execLockstepMismatch (s : State) : Out :=
  due s (!s.pmc.restarting && 2 ≤ s.boot.step) <| .next s.pmcRestart -- the PMC runs

/-- R314, R410: a command has run for twice its limit. -/
def execCommandDeadlineExpiry (s : State) : Out :=
  due s (!s.pmc.restarting && !s.pmc.cmds.isEmpty) <| .next s.pmcRestart -- a command is RUNNING

/-- R410, R448: the PMC runs again; USE goes to the highest NEXT. -/
def execPmcRestartDone (s : State) : Out :=
  due s s.pmc.restarting <| -- the PMC restarts
  .next (((s.modPmc fun p => { p with restarting := false, held := none }).modSec Security.resume).skipUnknown 32)

/-! ### Ageing and margins (R411 to R414) -/

/-- Stop Bath step 5: the monitors are sampled; what they read is measured, so free (log entry 48). -/
def State.sampleAge (s : State) : State :=
  let k := s.fresh
  let s := { s with fresh := k + 192 }
  s.each (List.range 96) fun s q => s.modQuad q fun x =>
    let a := (Config.freeWord (k + 2 * q)).toNat % 65536
    let b := (Config.freeWord (k + 2 * q + 1)).toNat % 65536
    { x with
      slack := a
      roCount := b
      slackSum := x.slackSum + a
      roSum := x.roSum + b
      ageN := x.ageN + 1 }

/-- The hour's means. -/
def Quad.storeAge (x : Quad) : Quad :=
  if x.ageN = 0 then x
  else { x with slackMean := x.slackSum / x.ageN, roMean := x.roSum / x.ageN, slackSum := 0, roSum := 0, ageN := 0 }

/-- R411: each hour the means go to configuration flash. -/
def execAgeingStore (s : State) : Out :=
  .next (s.each (List.range 96) fun s q => s.modQuad q Quad.storeAge)

/-- R412: Bracketing of a quadrant ends. The reserve that it ran on is free among the usable ones (log entry 69). -/
def execBracketing (q : Nat) (m0 m1 m2 : Nat) (failed : Bool) (s : State) : Out :=
  unit (q < 96) "quadrant" <|
  let l := s.usableIn q
  due s (!l.isEmpty) <| -- the quadrant has a usable reserve
  let w := word [(m0, 24, 8), (m1, 16, 8), (m2, 8, 8)]
  let s := s.modQuad q fun x => { x with brk := w, brkDays := (w :: x.brkDays).take 90, brkSlack := x.slackMean }
  if !failed then .next s
  else
    let c := s.choose 119 l.length
    .next (c.2.modCore (l.getD c.1 0) fun x => { x with failed := some 0x2A })

/-- A signed byte. -/
def sbyte (i : Int) : Nat := ofSigned 8 i

/-- An entry of the margin log (R414, R417). -/
def State.marginLog (s : State) (cause q : Nat) (old new predicted : Int) : State :=
  let ws := [word [(cause, 28, 4), (q, 16, 7), (sbyte old, 8, 8), (sbyte new, 0, 8)], word [(ofSigned 16 predicted, 0, 16)],
    s.frame32, (s.pmc.frame >>> 32).setWidth 32]
  let i := s.hlt.mlogPtr
  s.modHlt fun h => { h with
    mlog := ((List.range 4).zip ws).foldl (fun (m : Tab W32) (e : Nat × W32) => tset m (4 * i + e.1) e.2 0) h.mlog
    mlogPtr := (i + 1) % 16 }

/-- `x` rounded up to a multiple of 5. -/
def up5 (x : Int) : Int := -((-x) / 5 * 5)

/-- The least-squares line through the last 90 daily results, newest first, and the prediction 30 days ahead, as a fraction of mV: the days
are −1, −2, … before the next (R413 steps 1 and 2). -/
def fitMargin (l : List Nat) : Int × Nat :=
  let n := l.length
  let xs : List Int := (List.range n).map (fun (i : Nat) => -(i : Int))
  let sx := xs.foldl (· + ·) 0
  let sxx := xs.foldl (fun a x => a + x * x) 0
  let sy : Int := l.foldl (fun (a : Int) (y : Nat) => a + (y : Int)) 0
  let sxy := (xs.zip l).foldl (fun (a : Int) (e : Int × Nat) => a + e.1 * e.2) 0
  let den : Int := n * sxx - sx * sx
  if den = 0 then (sy, max 1 n)
  else ((sy * sxx - sx * sxy) + 30 * (n * sxy - sx * sy), den.toNat)

/-- m̂ in half mV: the fit, corrected by the change in monitor slack since the last Bracketing at 0.5 mV per ps; rounded down: log entry
46. -/
def Quad.predict (x : Quad) : Int :=
  let f := fitMargin (x.brkDays.map fun w => bits w.toNat 24 8)
  2 * f.1 / (f.2 : Int) + ((x.slackMean : Int) - x.brkSlack)

/-- The MARGIN that R413 plans from an old one and a prediction in half mV: the new MARGIN as a whole is rounded up to 5 mV; −50 mV is the
least that MARGIN takes (R337). -/
def planMargin (old half : Int) (reserve : Bool) : Int :=
  max (-50) (max (old - 10) (up5 (-(-(2 * old + (if reserve then 50 else 80) - half) / 2))))

/-- A trigger of R413 holds: the schedule's is the event's; else the last Bracketing's m(RATIO), the monitors, or a core that failed. -/
def State.replanDue (s : State) (q cause : Nat) : Bool :=
  let x := s.getQuad q
  match cause with
  | 1 => true
  | 2 => match x.brkDays with
    | w :: _ => bits w.toNat 24 8 < 15
    | [] => false
  | 3 => 10 * x.slackMean < 9 * x.planSlack
  | 4 => (quadCores q).any fun n => (s.getCore n).failed = some 0x2A
  | _ => false

/-- R413, R414, R317: a re-plan of MARGIN. A quadrant with no usable reserve, or with no daily result yet, uses the monitor fit `monitor`
alone, whose form the spec does not give. -/
def execMarginReplan (q : Nat) (cause : Nat) (monitor : Int) (s : State) : Out :=
  unit (q < 96) "quadrant" <|
  due s (s.replanDue q cause) <| -- a trigger of the cause holds
  let x := s.getQuad q
  let reserve := !(s.usableIn q).isEmpty
  let half := if reserve && !x.brkDays.isEmpty then x.predict else 2 * monitor
  let predicted := half / 2
  let new := planMargin x.margin half reserve
  let s := s.modQuad q fun y => { y with planSlack := y.slackMean }
  let set := min 50 new
  if s.manual 2 then .next (s.decision 2 (.quad q) (ofSigned 32 set))
  else
    let s := if 50 < new then s.modQuad q fun y => { y with marginRatio := s.nextRatio q false x.marginRatio } else s
    let s := s.override [.margin q set false] (s.pmc.frame + 1)
    .next (s.marginLog cause q x.margin set predicted)

/-- A MARGIN takes effect at a Shutter (R337). MARGIN_SET is logged with cause MANUAL; it predicts nothing, so the entry's
prediction is free (log entry 48). -/
def State.applyMargin (s : State) (q : Nat) (mv : Int) (log : Bool) : State :=
  let old := (s.getQuad q).margin
  let s := (s.modQuad q fun x => { x with margin := mv }).settled 2 (.quad q) fun _ => false
  if !log then s else
  let f := s.free
  f.2.marginLog 5 q old mv (toSigned 16 f.1.toNat)

/-! ### Late cores (R415) -/

/-- The higher score first, ties to the lower ID. -/
def insertRank (e : Nat × Nat) : List (Nat × Nat) → List (Nat × Nat)
  | [] => [e]
  | a :: r => if a.2 < e.2 then e :: a :: r else a :: insertRank e r

/-- The frame's last cores score; the ranks and the rows follow. -/
def State.lateBath (s : State) : State :=
  let f := s.pmc.frame
  let now := s.hlt.lastCores.eraseDups
  let keep (l : List W64) : List W64 := l.filter fun g => (f - g).toNat < 16384
  let sc := s.hlt.score.filterMap fun (e : Nat × List W64) => if (keep e.2).isEmpty then none else some (e.1, keep e.2)
  let sc := now.foldl (fun (t : Tab (List W64)) n => tset t n (tget t n [] ++ [f]) []) sc
  let top := (sc.foldl (fun (a : List (Nat × Nat)) (e : Nat × List W64) => insertRank (e.1, e.2.length) a) []).take 16
  let rank : Tab W32 := ((List.range top.length).zip top).map fun e => (e.1, word [(e.2.1, 22, 10), (e.2.2, 0, 15)])
  let s := s.modHlt fun h => { h with score := sc, lastCores := [], rank := rank }
  let s := s.each (s.hlt.sheet.filterMap fun e => if e.2.reason = 0x27 && (tget sc e.1 []).length ≤ 1638 then some e.1 else none) fun s n =>
    s.rowState n (s.row n).state 0
  s.each ((sc.filter fun e => 1638 < e.2.length).map (·.1)) fun s n => s.rowState n (s.row n).state 0x27

end Sys2Proof.Machine
end

