-- ==== Sys2Proof/Machine/Boot.lean ====
section
/-! DEFINITION. Bring-up: the cold start and what it keeps (R419 to R424), the memory test and the host windows (R425, R426),
the core test (R428), the recovery service (R430) and RESET_REQ_N (R489). -/

namespace Sys2Proof.Machine

def eBootFuse : Nat := 0x1101
def eBootFlash : Nat := 0x1102

/-- The values of STEP (R434). -/
def stepFlash : Nat := 1
def stepClocks : Nat := 2
def stepMemory : Nat := 3
def stepLinks : Nat := 4
def stepCores : Nat := 5
def stepDone : Nat := 6
def stepHalted : Nat := 7

/-! ### Bank selection (R422) -/

/-- The candidate banks, the highest SEQ first, on equal SEQ bank A first. -/
def Boot.candidates (b : Boot) : List Bool :=
  let l := [false, true].filter fun k => (b.record k).candidate
  if l.length = 2 && b.recA.seq < b.recB.seq then [true, false] else l

/-- A TRIAL record counts a start. -/
def Boot.tryBank (b : Boot) (k : Bool) : Boot :=
  let r := b.record k
  if r.state = recTrial then b.setRec k { r with tries := r.tries + 1 } else b

/-- The bank that boots, with the TRIES that were written on the way. -/
def State.selectBank (s : State) : List Bool → Option Bool × State
  | [] => (none, s)
  | k :: r =>
    let s := s.modBoot fun b => b.tryBank k
    if s.bankOk k then (some k, s) else s.selectBank r

/-! ### What a cold start keeps (R419) -/

/-- A row's count of changes; and all of a core that the operator has retired. -/
def keepRow (e : Nat × Row) : Option (Nat × Row) :=
  if e.1 < 576 && e.2.state = rowRetired && e.2.reason = 0x09 then some e
  else if e.2.changes = 0 then none
  else some (e.1, { changes := e.2.changes })

def keepTile (e : Nat × Tile) : Nat × Tile :=
  (e.1, { base := e.2.base, daily := e.2.daily, cyc := e.2.flashCyc, tmax := e.2.flashTmax, flashCyc := e.2.flashCyc,
          flashTmax := e.2.flashTmax })

def keepQuad (e : Nat × Quad) : Nat × Quad :=
  (e.1, { margin := e.2.margin, slackMean := e.2.slackMean, roMean := e.2.roMean, brkDays := e.2.brkDays,
          brkSlack := e.2.brkSlack, planSlack := e.2.planSlack })

def keepStack (e : Nat × Stack) : Nat × Stack := (e.1, { repairs := e.2.repairs, repairLog := e.2.repairLog, profile := e.2.profile })

/-- The fuses, the slots and the signing state; the running and the staged image sets come from the banks. -/
def Security.keep (x : Security) : Security :=
  { x with
    fw := []
    hallPackets := []
    hallRepairs := 0
    hallOut := []
    staged := 0
    lmsOff := false }

/-- The PMC clears its copy of the records (R471). -/
def Meter.keep (m : Meter) : Meter :=
  { m with
    copyRecs := []
    copyLines := []
    copyCerts := []
    certsSeen := 0
    state := 0
    linkOk := false
    copyFull := false
    changed := 0
    copySeq := 0
    total := 0
    bypassE := 0
    sent := [] }

/-- Flash, fuses and what lies outside the panel's supplies: the cartridge, the inputs, the references, the wires. Contents of
HBM, windows and scratch are undefined. -/
def State.coldKeep (s : State) : State :=
  let lr := s.boot.lossRec
  { State.reset with
    pmc := { State.reset.pmc with
      westNext := s.pmc.westNext
      eastNext := s.pmc.eastNext }
    fab := { State.reset.fab with id := s.fab.id }
    ring := s.ring.map fun (e : Nat × Ring) => (e.1, { dim := e.2.dim })
    tile := s.tile.map keepTile
    quad := s.quad.map keepQuad
    stack := s.stack.map keepStack
    sec := s.sec.keep
    mtr := s.mtr.keep
    hlt := { State.reset.hlt with live := s.hlt.live.filterMap keepRow, sheet := s.hlt.live.filterMap keepRow }
    thm := { State.reset.thm with
      fan0 := s.thm.fan0
      fan1 := s.thm.fan1
      inlet0 := s.thm.inlet0
      inlet1 := s.thm.inlet1
      inlet0Bad := s.thm.inlet0Bad
      inlet1Bad := s.thm.inlet1Bad }
    boot := { recA := s.boot.recA
              recB := s.boot.recB
              imageA := s.boot.imageA
              imageB := s.boot.imageB
              lossRec := lr
              lossFrame := (lr.map (·.1)).getD 0
              lossCause := (lr.map (·.2)).getD 0
              seqA := if s.boot.recA.valid then s.boot.recA.seq else 0
              seqB := if s.boot.recB.valid then s.boot.recB.seq else 0 }
    pwr := { State.reset.pwr with
      mainOk := s.pwr.mainOk
      backupOk := s.pwr.backupOk
      mainOc := s.pwr.mainOc
      backupOc := s.pwr.backupOc
      source := s.pwr.pick }
    clk := { State.reset.clk with refA := true, refB := true }
    pins := { s.pins with panelOk := false }
    undef := [(0, 48 * stackSize, s.fresh), (winBase 0, winBase 48, s.fresh), (scratchAddr 0 0, scratchAddr 576 0, s.fresh)]
    fresh := s.fresh + 1
    pending := s.pending }

/-! ### COLD_START (R423) -/

/-- ELAPSED at the end of the cold start: measured, so free (R434, log entry 48). -/
def State.stopClock (s : State) : State :=
  let f := s.free
  f.2.modBoot fun b => { b with elapsed := f.1.toNat % 65536 }

/-- The cold start halts (R430). -/
def State.halt (s : State) (code step detail : Nat) : State :=
  (s.stopClock.modBoot fun b => { b with step := stepHalted, err := word [(code, 16, 16), (step, 12, 4), (detail, 0, 12)] }).alert

/-- A core at the cold start: STARTING, unless the operator has retired it. -/
def State.startCore (s : State) (n : Nat) : State :=
  if (s.row n).state = rowRetired then
    s.modCore n fun c => { c with ccb := { c.ccb with state := .retired, reason := whyOperator, frame := 1 } }
  else (s.modCore n fun c => { c with ccb := { c.ccb with state := .starting, frame := 1 } }).rowState n rowTesting 0

/-- A quadrant after step 5: locked and fired, its ramp due (R344). -/
def Quad.started (x : Quad) : Quad :=
  { x with
    rampDue := true
    good := 8
    limit := phaseLimit 8
    tested := 7
    source := 0
    locked := true
    gated := 0
    fired := true
    heard := true }

/-- Steps 4 and 5: rails, clocks, mesh, control network. The control network is released, and its first Shutter has opened frame 1
(R50). -/
def State.powerOn (s : State) : State :=
  let s := s.modPmc fun p => { p with frame := 1, phase := 1, point := 1 }
  let s := s.each (List.range 96) fun s q => (s.modQuad q Quad.started).setVset q 16
  let s := s.each (List.range 24) fun s t => s.modTile t fun x => { x with convW := 0, convE := 0, feedW := true, feedE := true }
  let s := s.each (List.range 32) fun s p =>
    if s.ringFitted (p / 2) then s.modPort p fun x => { x with mode := .training, loopback := true }
    else s.modPort p fun x => { x with mode := .absent }
  let s := s.each (List.range 16) fun s r => s.modRing r fun g => { g with state := 3, bypass := true }
  let s := s.modMesh fun m => { m with fired := s.perimeter, heard := s.perimeter }
  let s := s.each [0, 1] fun s g => s.modSite g fun x =>
    if s.siteFitted g then { x with modules := (List.range 8).map fun m => (m, ModMode.training) } else { x with state := 5 }
  s.each (List.range 576) State.startCore

/-- The image set of the bank that has booted. -/
def State.bootSet (s : State) (bank : Bool) : State :=
  let r := s.boot.record bank
  let m := bankManifest r (s.boot.image bank)
  let hs := (List.range 4).map fun t => fwHash m t
  let trial := r.state = recTrial
  let s := s.modSec fun x => { x with
    version := BitVec.ofNat 32 (fwWord m 0 2)
    runHashes := hs
    staged := if trial then r.seq else 0
    stagedArb := manArb m
    stagedBurn := manBurn m
    stagedRevEc := BitVec.ofNat 4 (manRevEc m)
    stagedRevLms := BitVec.ofNat 4 (manRevLms m)
    stagedHall := manHall m
    stagedVersion := BitVec.ofNat 32 (fwWord m 0 2)
    stagedHashes := hs }
  let s := s.each [0, 1, 2, 3] fun s t => s.setFw t { runSeq := r.seq }
  s.modBoot fun b => { b with bank := bank, tries := r.tries }

/-- R423 steps 1 to 5; the ramps of step 7 follow (R344). `fuseBad` is the index of a fuse word with no majority. -/
def execColdStart (fuseBad : Option Nat) (s : State) : Out :=
  due s ((s.pwr.mainOk || s.pwr.backupOk) && (s.pwr.failed || s.boot.step = 0)) <| -- the first input becomes valid
  let s := s.coldKeep.alert
  match fuseBad with
  | some i => .next (s.halt eBootFuse 0 i)
  | none =>
    let l := s.boot.candidates
    let r := s.selectBank l
    match r.1 with
    | none => .next (r.2.halt eBootFlash stepFlash 0)
    | some k =>
      let s := (r.2.modSec Security.resume).bootSet k
      let s := s.modBoot fun b => { b with step := stepClocks, alt := l.head? ≠ some k }
      .next s.powerOn.alert

/-! ### MEMORY_TEST_DONE (R425, R426, R435) -/

/-- One stack's results. -/
def State.stackTested (s : State) (r : StackTest) : State :=
  if 48 ≤ r.stack then s else
  let s := s.modStack r.stack fun x => { x with
    state := if r.failed then 4 else 2
    bootResult := if r.failed then 2 else if 0 < r.repaired then 1 else 0
    bootRepaired := sat 0x3FF r.repaired
    bootWeak := sat 0x3FF r.weak
    bootCounted := sat 0x3FF r.counted
    profile := [r.repaired, r.weak, r.counted] }
  if r.failed then (s.rowFault (rowStack r.stack) 4 0x2C).stackEvent r.stack
  else if 0 < r.unrepairable then s.rowState (rowStack r.stack) (s.row (rowStack r.stack)).state 0x2B
  else s

/-- R426: a site takes its stacks, skipping those that have FAILED. -/
def State.takeStacks (s : State) (order : List Nat) (n : Nat) : List Nat :=
  (order.filter fun h => (s.getStack h).state ≠ 4).take n

/-- R205: a link direction has trained: a group that failed is retired, and the link takes its mode. -/
def State.trainLink (s : State) (lanes : List LaneGroup) (e : Nat × Nat × Nat) : State :=
  let bad := (List.range 11).filter fun g => lanes.contains ⟨e.1, e.2.1, e.2.2, g⟩
  let s := bad.foldl (fun (s : State) g => s.rowState (rowLane e.1 e.2.1 e.2.2 g) 4 0x21) s
  let good := BitVec.ofNat 11 (((List.range 11).filter fun g => !bad.contains g).foldl (fun a g => a + 2 ^ g) 0)
  let m := linkMode (11 - bad.length)
  let s := s.modLink e.1 e.2.1 e.2.2 fun l => { l with good := good, mode := m, trained := true, trainedAt := [] }
  let r := rowLink e.1 e.2.1 e.2.2
  if m = 0 then s else if m = 1 then s.rowState r 2 0 else s.rowFault r 4 0x21

/-- R425, R426: the memory test and the BIST are over: stacks are READY or FAILED, the windows taken, the lane groups have trained, but
for those that it lists (R205). -/
def execMemoryTestDone (results : MemoryTest) (s : State) : Out :=
  due s (s.boot.step = stepMemory && s.thm.state < 3) <| -- the memory test runs
  let s := s.each (List.range 48) fun s h => s.modStack h fun x => { x with state := 2 }
  let s := results.tests.foldl State.stackTested s
  let w := s.takeStacks [12, 24, 13, 25] s.pmc.westNext
  let e := if s.sec.h2 then s.takeStacks [23, 35, 22, 34] s.pmc.eastNext else []
  let s := s.modPmc fun p => { p with west := w.length, east := e.length, westTaken := w, eastTaken := e }
  let s := s.each (w ++ e) fun s h => s.modStack h fun x => { x with state := 3 }
  let s := linkList.foldl (fun s e => s.trainLink results.lanes e) s
  let s := s.modBoot fun b => { b with step := stepLinks }
  .next (((s.bootCorridors.siteRefresh 0).siteRefresh 1).linksDone)

/-! ### CORE_TEST_DONE (R428, R3, R399) -/

/-- Cores of quadrant `q` fused in a mask, in ascending order of ID. -/
def fusedIn (q : Nat) (m : BitVec 6) : List Nat :=
  (List.range 576).filter fun n => coreQuad n = q && m.getLsbD (((quadCores q).findIdx? (· = n)).getD 6)

/-- The exposed count fused for a quadrant (R2). -/
def Security.exposedCount (x : Security) : Nat := if x.grade = 2 then 4 else 5

/-- A quadrant assigns its cores. -/
def State.assignQuad (s : State) (failed : List Nat) (q : Nat) : State :=
  let pass (n : Nat) : Bool := !failed.contains n && (s.getCore n).ccb.state ≠ .retired
  let a := (fusedIn q (tget s.sec.fuseExposed q 0x1F)).filter pass
  let b := (fusedIn q (tget s.sec.fuseReserve q 0x20)).filter pass
  let exp := (a ++ b).take s.sec.exposedCount
  let seq := (s.sec.fw.map fun (e : Nat × FwTarget) => e.2.runSeq).headD 0
  let s := s.each (quadCores q) fun s n =>
    if exp.contains n then
      (s.modCore n fun c => { c with
        exposed := true
        fw := { c.fw with runSeq := seq }
        ccb := { c.ccb with state := .ready, reason := whyNone } }).rowState n rowGood 0
    else if (a ++ b).contains n then
      (s.modCore n fun c => { c with fw := { c.fw with runSeq := seq }, ccb := { c.ccb with state := .ready, reason := whyNone } }).rowState
        n rowSpare 0
    else if (s.getCore n).ccb.state = .retired then s
    else
      ((s.modCore n fun c => { c with ccb := { c.ccb with state := .retired, reason := whySelfTest } }).setFault n fSelfTest).rowState
        n rowRetired 0x0A
  let s := s.each (quadCores q) fun s n => s.rowData n (s.coreData n)
  -- the Bracketing baseline is measured, so free (log entry 48)
  let s := if (s.usableIn q).isEmpty then s else
    let f := s.free
    f.2.modQuad q fun x => { x with brk := f.1 &&& 0xFFFFFF00, brkSlack := x.slackMean }
  if exp.length < s.sec.exposedCount then s.modHlt fun h => { h with derated := true } else s

/-- R428: the core test ends: cores are assigned and released, a TRIAL record becomes ACTIVE, the panel is up. -/
def execCoreTestDone (failed : List Nat) (s : State) : Out :=
  due s (s.boot.step = stepCores && s.thm.state < 3) <| -- the core test runs
  let s := s.each (List.range 96) fun s q => s.assignQuad failed q
  let s := if s.hlt.derated then
      (s.modComp 408 fun c => { c with reason := whyDerated }).event evDerated (s.ccbId .panel) (s.exposedIn .panel) 0
    else s
  let s := s.each (List.range 24) fun s t => s.modTile t fun x => { x with learned := 0, baseSum := 0 }
  let s := if s.sec.staged ≠ 0 then s.activate s.boot.bank else s
  let s := s.stopClock.modBoot fun b => { b with step := stepDone }
  .next { s with pins := { s.pins with panelOk := true } }

/-! ### RESET_REQ_N and the recovery service -/

/-- R489: a low of 100 ms writes a planned reset to the panel cell. -/
def execResetReq (heldMs : Nat) (s : State) : Out :=
  if heldMs < 100 || s.boot.step ≠ stepDone || 2 ≤ s.thm.state || (List.range 96).all fun q => (s.getQuad q).resetPending then .next s
  else .next ((s.planReset .panel).event evCellState (s.ccbId .panel) (word [(whyOperator, 16, 16), (5, 0, 4)]).toNat 0)

/-- A boot record as a bank image holds it (R421), from a copy at `off`. -/
def parseRec (image : List Byte) (off : Nat) : Option BootRec :=
  let w (i : Nat) : Nat := plWord image (off / 4 + i)
  let st := bits (w 2) 28 4
  if w 0 = 0x544F4F42 && (crc32c ((image.drop off).take 60)).toNat = w 15 && 1 ≤ st && st ≤ 3 && bits (w 2) 0 24 = 0 &&
      w 3 % 4096 = 0 && imageBase ≤ w 3 && w 3 + w 4 ≤ 0x8000000 && w 4 ≠ 0 && (upTo 6 9).all fun i => w i = 0 then
    some { valid := true, seq := BitVec.ofNat 32 (w 1), state := st, tries := bits (w 2) 24 4, manOff := w 3, manLen := w 4,
           arb := w 5 }
  else none

/-- R430: the recovery service takes one bank image and writes it after verification. -/
def execRecoveryImage (bank : Nat) (image : List Byte) (s : State) : Out :=
  unit (bank < 2) "configuration flash bank" <|
  due s (s.boot.step = stepHalted && bits s.boot.err.toNat 16 16 = eBootFlash) <| -- the boot ROM halts with E_BOOT_FLASH
  let k := bank = 1
  match (parseRec image 0).or (parseRec image 0x8000) with
  | none => .next (s.done eFwImage)
  | some r =>
    let t := s.modBoot fun b => (b.setRec k r).setImage k (image.drop imageBase)
    if t.bankOk k then .next (t.done 0) else .next (s.verifyFail.done eFwSig)

end Sys2Proof.Machine
end

