-- ==== Sys2Proof/Machine/Metering.lean ====
section
/-! DEFINITION. The metering cartridge: snapshots and apportionment (R466 to R468), records (R469, R470, R472, R473), the lever,
replacement and power (R462, R464), the record link (R471) and METER_READ (R474). -/

namespace Sys2Proof.Machine

/-! ### Flags (R469) -/

def flShort : Nat := 1
def flPowerLoss : Nat := 2
def flBypass : Nat := 4
def flNoSnapshot : Nat := 8
def flFirst : Nat := 16
def flNoLms : Nat := 32

/-! ### Snapshots (R466) -/

/-- The snapshot of the frame. The energies are measured, so free (log entry 48). -/
def State.snapshotWords (s : State) : List W32 :=
  let k := s.fresh
  let wc (q : Nat) : Nat := (s.workOfQuad q).getD 0x7F
  let body := [(0x01000000 : W32), s.frame32, (s.pmc.frame >>> 32).setWidth 32] ++
    (List.range 97).map (fun i => Config.freeWord (k + i)) ++
    (List.range 24).map (fun i => word ((List.range 4).map fun j => (wc (4 * i + j), 8 * j, 8))) ++
    (List.range 96).map (fun w => if (s.getWork w).quads.isEmpty then 0 else (s.getWork w).tag) ++ [0, 0, 0]
  body ++ [crc32c (wordBytes body)]

/-- Stop Bath step 6: the PMC sends it. -/
def State.sendSnapshot (s : State) : State :=
  if s.pmc.restarting then s else
  let ws := s.snapshotWords
  let k := s.fresh
  let s := { s with fresh := k + 97 }
  (s.modMtr fun m => { m with sent := ws }).countPmc 0x0720 1

/-- The panel's own measurement while the lever is in BYPASS (R464 step 3): measured, so free. -/
def State.bypassEnergy (s : State) : State :=
  if s.mtr.metering then s else
  let f := s.free
  f.2.modMtr fun m => { m with bypassE := m.bypassE + f.1 }

/-! ### Weights (R468) -/

/-- Weight goes to the line of a work cell's tag; a fifth tag goes to the fourth line. -/
def addLine (l : List MLine) (w : Nat) (tag : W32) (weight : Nat) : List MLine :=
  let mine := l.filter fun x => x.wcell = w
  if mine.any fun x => x.tag = tag then
    l.map fun x => if x.wcell = w && x.tag = tag then { x with weight := x.weight + weight, frames := x.frames + 1 } else x
  else if mine.length < 4 then l ++ [{ wcell := w, tag := tag, weight := weight, frames := 1, multi := false }]
  else
    let last := (mine.getLast?.map (·.tag)).getD 0
    l.map fun x => if x.wcell = w && x.tag = last then
      { x with weight := x.weight + weight, frames := x.frames + 1, multi := true } else x

/-- A snapshot's quadrants of work cell `w`. -/
def snapQuads (ws : List W32) (w : Nat) : List Nat :=
  (List.range 96).filter fun q => bits (ws.getD (100 + q / 4) 0).toNat (8 * (q % 4)) 8 = w

/-- 96 × the energy of quadrants, and their parts of the shared energy. -/
def snapWeight (ws : List W32) (qs : List Nat) : Nat :=
  96 * (qs.map fun q => (ws.getD (4 + q) 0).toNat).foldl (· + ·) 0 + (ws.getD 3 0).toNat * qs.length

/-- A snapshot that passes is accepted into the open interval. -/
def Meter.accept (m : Meter) (ws : List W32) : Meter :=
  let k : W64 := (ws.getD 1 0).setWidth 64 ||| ((ws.getD 2 0).setWidth 64 <<< 32)
  let cells := (List.range 96).filter fun w => !(snapQuads ws w).isEmpty
  let lines := cells.foldl (fun l w => addLine l w (ws.getD (124 + w) 0) (snapWeight ws (snapQuads ws w))) m.lines
  let none' := (List.range 96).filter fun q => 96 ≤ bits (ws.getD (100 + q / 4) 0).toNat (8 * (q % 4)) 8
  { m with
    snaps := m.snaps + 1
    gaps := if m.snaps = 0 then m.gaps else m.gaps + (k.toNat - m.lastFrame.toNat - 1)
    firstFrame := if m.snaps = 0 then k else m.firstFrame
    lastFrame := k
    lines := lines
    unassigned := m.unassigned + snapWeight ws none'
    unassignedFrames := m.unassignedFrames + b2n (!none'.isEmpty) }

/-- CRC and TYPE (R465, R466). -/
def snapOk (ws : List W32) : Bool :=
  ws.length = 224 && bits (ws.getD 0 0).toNat 24 8 = 1 && ws.getD 223 0 = crc32c (wordBytes (ws.take 223))

/-- R466 to R468: the cartridge takes a snapshot, or ignores it. -/
def execSnapshot (words : List W32) (s : State) : Out :=
  due s (s.mtr.present && s.mtr.powered && s.mtr.intOpen) <| -- the cartridge runs
  if snapOk words then .next (s.modMtr fun m => m.accept words) else .next s

/-! ### Records (R468 to R470, R472, R473) -/

/-- The interval's lines in order, UNASSIGNED last, each with its energy. -/
def Meter.lineEnergies (m : Meter) (e : Nat) : List (MLine × Nat) :=
  let l := (List.range 96).flatMap fun w => m.lines.filter fun x => x.wcell = w
  let total := (l.map (·.weight)).foldl (· + ·) 0 + m.unassigned
  let part (w : Nat) : Nat := if total = 0 then 0 else e * w / total
  let es := l.map fun x => (x, part x.weight)
  let rest := e - (es.map (·.2)).foldl (· + ·) 0
  es ++ [({ wcell := 0x7F, tag := 0, weight := m.unassigned, frames := m.unassignedFrames, multi := false }, rest)]

/-- No snapshot gave any weight. -/
def Meter.noWeight (m : Meter) : Bool := m.lines.all (fun x => x.weight = 0) && m.unassigned = 0

/-- An informative line's 16 words. -/
def lineWords (seq : Nat) (noSnap : Bool) (i : Nat) (x : MLine × Nat) : List W32 :=
  [word [(1, 31, 1), (x.1.wcell, 24, 7), (b2n (noSnap && x.1.wcell = 0x7F), 17, 1), (b2n x.1.multi, 16, 1), (i, 0, 16)],
    BitVec.ofNat 32 seq, x.1.tag, BitVec.ofNat 32 x.2, BitVec.ofNat 32 x.1.weight, BitVec.ofNat 32 (x.1.weight / 2 ^ 32),
    BitVec.ofNat 32 x.1.frames] ++ List.replicate 9 0

/-- Low and high word. -/
def two (x : W64) : List W32 := [x.setWidth 32, (x >>> 32).setWidth 32]

/-- Bytes cut or filled to a length. -/
def sized (n : Nat) (bs : List Byte) : List Byte := (bs ++ List.replicate (n - bs.length) 0).take n

/-- The cartridge's next HSS index (R473): a block of 1,024 is reserved where USE has reached NEXT; a failed write ends LMS
signing. Whether one fails is free (log entry 66). -/
def State.cartIndex (s : State) : Option Nat × State :=
  if s.mtr.noLms then (none, s)
  else
    let s := if s.mtr.use < s.mtr.next then s
      else
        let r := s.flashOk
        r.2.modMtr fun m => if r.1 then { m with next := m.next + 1024 } else { m with noLms := true }
    if s.mtr.noLms then (none, s) else (some s.mtr.use, s.modMtr fun m => { m with use := m.use + 1 })

/-- The registers take the energies measured; in BYPASS nothing registers, and nothing ever falls (R461, R464). Each Wh of
E_TOTAL gives a pulse. -/
def State.register (s : State) (eMain eBackup : Nat) : State :=
  if !s.mtr.metering then s else
  let a := max s.mtr.eMain.toNat eMain
  let b := max s.mtr.eBackup.toNat eBackup
  let n := (a + b) / 1000 - (s.mtr.eMain.toNat + s.mtr.eBackup.toNat) / 1000
  let s := s.modMtr fun m => { m with eMain := BitVec.ofNat 64 a, eBackup := BitVec.ofNat 64 b }
  { s with pins := { s.pins with pulses := s.pins.pulses + n } }

/-- R467 to R470, R472: the open interval closes with flags, and its record is sealed. -/
def State.sealInterval (s : State) (second eMain eBackup flags : Nat) : State :=
  let s := s.register eMain eBackup
  let r := s.cartIndex
  let s := r.2
  let m := s.mtr
  let total := m.eMain + m.eBackup
  let e := (total - m.startE).toNat
  let seq := m.seq + 1
  let fl := m.flags ||| flags ||| (if m.noWeight then flNoSnapshot else 0) ||| (if r.1.isNone then flNoLms else 0)
  let le := m.lineEnergies e
  let lines := ((List.range le.length).zip le).map fun x => lineWords seq m.noWeight x.1 x.2
  let body := [(0x52474C4D : W32), word [(1, 16, 16), (fl, 0, 16)], BitVec.ofNat 32 seq, BitVec.ofNat 32 m.start,
      BitVec.ofNat 32 second] ++ two m.eMain ++ two m.eBackup ++ two total ++
    [BitVec.ofNat 32 e, BitVec.ofNat 32 m.snaps, BitVec.ofNat 32 m.gaps] ++ two m.firstFrame ++ two m.lastFrame ++
    [BitVec.ofNat 32 lines.length] ++ bytesWords (sized 48 (Config.sha384 (wordBytes lines.flatten))) ++
    two m.cartSerial ++ [Config.cartVersion] ++ bytesWords (sized 48 Config.cartHash) ++ List.replicate 18 0
  let msg := wordBytes body
  let hss := match r.1 with
    | some q => Config.sign 2 q msg
    | none => []
  let record := body ++ bytesWords (sized 96 (Config.sign 3 seq msg) ++ sized 3604 hss) ++ [0, 0, 0]
  s.modMtr fun m => { m with
    seq := seq
    seconds := second
    intOpen := false
    records := m.records ++ [(seq, record)]
    recLines := m.recLines ++ [(seq, lines)] }

/-- An interval opens. -/
def Meter.openInterval (m : Meter) (second flags : Nat) : Meter :=
  { m with
    intOpen := true
    start := second
    startE := m.eMain + m.eBackup
    seconds := second
    flags := flags
    snaps := 0
    gaps := 0
    firstFrame := 0
    lastFrame := 0
    lines := []
    unassigned := 0
    unassignedFrames := 0 }

/-- What an interval that opens now carries: BYPASS, FIRST in a bay that is new to it, else SHORT where it does not follow
a full one. -/
def Meter.openFlags (m : Meter) (whole : Bool) : Nat :=
  if !m.metering then flBypass
  else if !m.bay.contains m.cartSerial then flFirst else if whole then 0 else flShort

/-- The bay knows the cartridge. -/
def Meter.settle (m : Meter) : Meter :=
  if m.metering && !m.bay.contains m.cartSerial then { m with bay := m.bay ++ [m.cartSerial] } else m

/-- The next interval opens. -/
def State.reopen (s : State) (second : Nat) (whole : Bool) : State :=
  s.modMtr fun m => (m.openInterval second (m.openFlags whole)).settle

def State.cartRuns (s : State) : Bool := s.mtr.present && s.mtr.powered && s.mtr.intOpen

/-- MTR_STAT.STATE as the PMC takes it, with the cartridge's row (R476, R464; of FAULT the rule names no row state: log
entry 47). -/
def State.meterState (s : State) (st : Nat) : State :=
  let st := if s.mtr.noLms && st ≠ 0 then 3 else st -- R473: FAULT after a failed write
  let s := if s.mtr.state = st then s else s.modMtr fun m => { m with state := st, changed := s.frame16 }
  (match st with
   | 0 => s.rowState rowCart 5 0x09
   | 1 => s.rowState rowCart 1 0
   | 2 => s.rowState rowCart 5 0x09
   | _ => s.rowState rowCart 2 0).alert

/-- R473: once an index could not be reserved, MTR_STAT.STATE reads FAULT. -/
def State.faulty (s : State) : State := if s.mtr.noLms && s.mtr.state ≠ 3 then s.meterState 3 else s

/-- R467: an interval closes at a second that is a multiple of 900, or where MEASURING changes, which leaves it SHORT. -/
def execIntervalClose (second eMain eBackup : Nat) (s : State) : Out :=
  due s (s.cartRuns && s.mtr.start ≤ second) <| -- an interval is open
  let whole := second % 900 = 0
  .next ((s.sealInterval second eMain eBackup (if whole then 0 else flShort)).reopen second whole).faulty

/-! ### The lever, replacement, power (R462, R464) -/

/-- R464 steps 1 and 2. -/
def execLeverBypass (second eMain eBackup : Nat) (s : State) : Out :=
  due s s.mtr.metering <| -- the lever is at METER
  let s := if s.cartRuns then s.sealInterval second eMain eBackup (flShort ||| flBypass) else s
  let s := s.modMtr fun m => { m with metering := false }
  let s := if s.mtr.present && s.mtr.powered then s.reopen second false else s
  .next (s.meterState (if s.mtr.present then 2 else 0))

/-- R464 step 5. -/
def execLeverMeter (second : Nat) (s : State) : Out :=
  due s (!s.mtr.metering && s.mtr.present) <| -- the lever is at BYPASS and a cartridge is there
  let s := if s.cartRuns then s.sealInterval second 0 0 (flShort ||| flBypass) else s
  let s := s.modMtr fun m => { m with metering := true }
  let s := if s.mtr.powered then s.reopen second false else s
  .next (s.meterState 1)

/-- The cartridge in the bay, as it is. -/
def Meter.cartridge (m : Meter) : Cartridge :=
  { eMain := m.eMain, eBackup := m.eBackup, seconds := m.seconds, seq := m.seq, next := m.next, noLms := m.noLms,
    records := m.records, recLines := m.recLines }

/-- Cartridge `n` comes into the bay: as it left it, or from manufacture, its registers at 0 (R461, R467; log entry 144). -/
def Meter.insert (m : Meter) (n : W64) : Meter :=
  if m.cartSerial = n then m else
  let c := ((m.away.find? fun e => e.1 = n).map (·.2)).getD {}
  { m with
    cartSerial := n
    eMain := c.eMain
    eBackup := c.eBackup
    seconds := c.seconds
    seq := c.seq
    next := c.next
    noLms := c.noLms
    records := c.records
    recLines := c.recLines }

/-- A cartridge that is withdrawn loses both inputs, and closes its interval as R462 says. The second at which it does travels in no
command: it is free, not below the interval's start (log entry 142). -/
def State.withdrawn (s : State) : State :=
  if !s.cartRuns then s else
  let f := s.free
  f.2.sealInterval (s.mtr.start + f.1.toNat % (900 - s.mtr.start % 900)) 0 0 (flShort ||| flPowerLoss ||| flBypass)

/-- R464 step 4: a cartridge is withdrawn, or one is inserted; the same one returns as it left. -/
def execCartridgeSwap (inserted : Option W64) (s : State) : Out :=
  due s (!s.mtr.metering) <| -- the lever is at BYPASS
  match inserted with
  | none =>
    due s s.mtr.present <| -- a cartridge is there
    let s := s.withdrawn
    .next ((s.modMtr fun m => { m with
      away := (m.cartSerial, m.cartridge) :: m.away.filter fun e => e.1 ≠ m.cartSerial
      present := false
      powered := false
      intOpen := false
      linkOk := false }).meterState 0)
  | some n =>
    due s (!s.mtr.present) <| -- the bay is empty
    let s := s.modMtr fun m =>
      let m := m.insert n
      (({ m with present := true, powered := true, use := m.next } : Meter).openInterval m.seconds flBypass)
    .next (s.meterState 2)

/-- R462: both inputs fall below 36 V. -/
def execCartridgePowerLoss (second eMain eBackup : Nat) (s : State) : Out :=
  due s s.cartRuns <| -- the cartridge runs
  let s := s.sealInterval second eMain eBackup (flShort ||| flPowerLoss ||| (if s.mtr.metering then 0 else flBypass))
  .next (s.modMtr fun m => { m with powered := false })

/-- R462, R473: the cartridge's supply returns. -/
def execCartridgePowerUp (second : Nat) (s : State) : Out :=
  due s (s.mtr.present && !s.mtr.powered) <| -- the cartridge has no supply
  .next ((s.modMtr fun m => { m with powered := true, use := m.next }).reopen second false)

/-! ### The record link (R471) -/

/-- A frame of the record link: one that fails its CRC is counted and discarded. -/
def State.linkFrame (s : State) (crcOk : Bool) (k : State → State) : Out :=
  if crcOk then .next (k s) else .next (s.countPmc 0x0728 1)

def execStatusFrame (crcOk : Bool) (state : Nat) (seconds : W32) (eTotal : W64) (s : State) : Out :=
  s.linkFrame crcOk fun s =>
    ((s.modMtr fun m => { m with linkOk := true, total := eTotal }).meterState (state % 16)).answer 0 [seconds]

/-- The copy keeps one of each SEQ. -/
def execLegalFrame (crcOk : Bool) (words : List W32) (s : State) : Out :=
  s.linkFrame crcOk fun s =>
    let seq := (words.getD 2 0).toNat
    if s.mtr.copyRecs.any fun e => e.1 = seq then s
    else (s.modMtr fun m => { m with
      copyRecs := tset m.copyRecs seq words []
      copySeq := if m.copySeq.toNat < seq then BitVec.ofNat 32 seq else m.copySeq }).countPmc 0x0724 1

/-- LINE of an informative line. -/
def lineIndex (l : List W32) : Nat := bits (l.getD 0 0).toNat 0 16

/-- A line joins the lines held, in order, once. -/
def joinLine (l : List W32) : List (List W32) → List (List W32)
  | [] => [l]
  | a :: r => if lineIndex l < lineIndex a then l :: a :: r else if lineIndex l = lineIndex a then a :: r else a :: joinLine l r

def execLinesFrame (crcOk : Bool) (seq : W32) (lines : List (List W32)) (s : State) : Out :=
  s.linkFrame crcOk fun s =>
    s.modMtr fun m => { m with
      copyLines := tset m.copyLines seq.toNat (lines.foldl (fun a l => joinLine l a) (tget m.copyLines seq.toNat [])) [] }

/-- The chain comes once in each cycle, so that its second coming ends a whole cycle (log entry 72). -/
def execCertsFrame (crcOk : Bool) (chain : List Byte) (s : State) : Out :=
  s.linkFrame crcOk fun s =>
    s.modMtr fun m => { m with
      copyCerts := chain
      certsSeen := m.certsSeen + 1
      copyFull := m.copyFull || 1 ≤ m.certsSeen }

/-- 10 ms without STATUS. -/
def execStatusTimeout (s : State) : Out :=
  let s := (s.modMtr fun m => { m with linkOk := false }).countPmc 0x072C 1
  .next (if s.mtr.metering then s.rowState rowCart 2 0 else s)

/-! ### METER_READ (R316, R474) -/

/-- METER_READ of a kind. -/
def State.meterRead (s : State) (kind : Nat) (k : Cmd → State → State) : Out :=
  s.vilsal 0x52 (fun c => bits (c.w 0) 0 1 = kind) (fun _ => 12) [1, fullWord, fullWord] k

def execMeterReadLegal (s : State) : Out :=
  s.meterRead 0 fun c s =>
    if 1 < c.w 2 then s.finish c eTarget
    else if c.w 2 = 0 then s.finish c 0
    else if c.w 1 = fullWord then
      (if s.mtr.copyCerts.isEmpty then s.finish c eTarget else s.finish c 0 ((bytesWords s.mtr.copyCerts).take 1008))
    else
      let r := tget s.mtr.copyRecs (c.w 1) []
      if r.isEmpty then s.finish c eTarget else s.finish c 0 r

def execMeterReadInformative (s : State) : Out :=
  s.meterRead 1 fun c s =>
    let n := c.w 2
    let first := bits (c.w 1) 0 10
    if 63 < n then s.finish c eTarget
    else if n = 0 then s.finish c 0
    else match (s.mtr.copyRecs.filter fun e => e.1 % 2 ^ 22 = bits (c.w 1) 10 22).getLast? with
      | none => s.finish c eTarget
      | some e =>
        let held := tget s.mtr.copyLines e.1 []
        let part := (upTo first n).map fun i => (held.find? fun l => lineIndex l = i).getD []
        if (e.2.getD 18 0).toNat < first + n || part.any List.isEmpty then s.finish c eTarget
        else s.finish c 0 part.flatten

end Sys2Proof.Machine
end

