-- ==== Sys2Proof/Machine/Drain.lean ====
section
/-! DEFINITION. The end of Develop: the deadline's classification and expired waits (R51, R177), the extension limit (R52), drain
open (R55 step 1): reloads of resident units (R169), setup and recovery loads (R247, R401), the outbox (R327). -/

namespace Sys2Proof.Machine

/-! ### The Develop deadline (R51, R176, R177) -/

/-- The lowest valid handle that names a semaphore: as CONS_SEM for ROLE 0, as PROD_SEM for ROLE 1 (R176). -/
def Core.attributed (c : Core) (role : Bool) (sem : Nat) : Option Nat :=
  c.scr.valid.find? fun h => (if role then (c.cad h).prodSem else (c.cad h).consSem) = sem

/-- SEM_SLIP_MAX and SEM_EXPIRE (R180). -/
def slipWord (tag : Nat) (h : Option Nat) (role : Bool) (sem : Nat) : W32 :=
  word [(tag, 24, 8), (h.getD 0, 16, 8), (b2n h.isSome, 15, 1), (b2n role, 14, 1), (sem, 0, 9)]

/-- R177: a SEM_WAIT expires. -/
def State.expire (s : State) (n : Nat) (w : Waiting) : State :=
  let c := s.getCore n
  let x := slipWord w.tag (c.attributed w.role w.sem) w.role w.sem
  let t := max (s.deadlineCycle (coreQuad n)) w.since
  let s := s.fault n (if w.role then fOverrun else fUnderrun)
  let s := ((s.slipped n w t).countCore n 0x054C 1).haltAt n t
  let s := s.modCore n fun c => { c with scr := { c.scr with expire := x } }
  s.emit n (token 5 n)

/-- The cores that the deadline classifies: exposed, of cells that are RUNNING (R51); and every core whose SEM_WAIT still holds
(R177). -/
def State.classified (s : State) : List Nat :=
  (s.core.filter fun e => (e.2.exposed && e.2.ccb.state = .running) || (e.2.ccb.state = .faulted && e.2.seq.waiting.isSome)).map
    (·.1)

/-- R51: core `n` at the end of the deadline cycle. -/
def State.classify (s : State) (n : Nat) : State :=
  let c := s.getCore n
  let late (s : State) : State := (s.modCore n fun c => { c with late := true }).countCore n 0x0124 1
  match c.seq.state, c.seq.waiting with
  | .done, _ => s
  | .stopped, _ => s
  | _, some w => if w.count ≤ tget c.scr.sem w.sem 0 then late s else s.expire n w
  | _, none => late s

/-- A core that is late and still executes. -/
def Core.stillLate (c : Core) : Bool :=
  c.late && match c.seq.state with
    | .done | .stopped => false
    | _ => true

/-- R46, R51: the Develop deadline. With A = 0 no extension is granted (R45). -/
def execDevelopDeadline (s : State) : Out :=
  due s (s.pmc.point = 1) <| -- the frame is in Develop
  let s := s.each s.classified State.classify
  let any := s.core.any fun e => e.2.stillLate
  .next (s.modPmc fun p => { p with
    point := 2
    extended := any && p.a ≠ 0
    phase := if any || s.fab.hallIndex.isSome then 2 else p.phase })

/-! ### The extension limit (R52) -/

/-- R52: a core still late at the deadline plus A is stopped: LATE, FAULTED, its outputs void. -/
def State.stopLate (s : State) (n : Nat) : State :=
  let s := (s.stopCore n).fault n fLate
  let s := s.modCore n fun c => { c with ccb := { c.ccb with
    state := .faulted
    former := if c.ccb.state = .faulted then c.ccb.former else c.ccb.state } }
  s.each (s.worksOf n) State.voidFrame

/-- R52. -/
def execExtensionLimit (s : State) : Out :=
  due s (s.pmc.point = 2 && s.core.any fun e => e.2.stillLate) <| -- a core is late
  let l := (s.core.filter fun e => e.2.stillLate).map (·.1)
  .next ((s.each l State.stopLate).modPmc fun p => { p with point := 3 })

/-! ### Bit errors in resident buffers (R169) -/

/-- The double-bit errors that reads of the frame met in resident buffers of core `n`: handle, and 2 KiB unit of its entry. -/
def Core.badParts (c : Core) : List (Nat × Nat) :=
  (c.scr.badUnits.filterMap fun w =>
    (c.scr.valid.find? fun h =>
      let e := c.cad h
      e.resident && e.hasCopy && e.base ≤ 32 * w && 32 * w < e.base + e.size).map fun h => (h, (32 * w - (c.cad h).base) / 2048)).eraseDups

/-- R169: the units of resident buffers in which reads of the frame met a double-bit error are reloaded from their HBM copies. The third
frame in a row makes the core failed. -/
def State.repairUnits (s : State) (n : Nat) : State :=
  let c := s.getCore n
  if c.scr.badUnits.isEmpty && c.scr.unitErrs.isEmpty then s
  else
    let l := c.badParts
    let key (x : Nat × Nat) : Nat := x.1 * 8192 + x.2
    let s := l.foldl (fun (s : State) x => (upTo (8 * x.2) 8).foldl (fun (s : State) i => s.loadLine n (c.cad x.1) i) s) s
    let errs := l.foldl (fun t x => tset t (key x) (tget c.scr.unitErrs (key x) 0 + 1) 0) ([] : Tab Nat)
    s.modCore n fun c => { c with
      scr := { c.scr with badUnits := [], unitErrs := errs }
      failed := if errs.any fun e => 3 ≤ e.2 then c.failed.or (some 0x28) else c.failed }

/-! ### The outbox (R327, R367, R400) -/

/-- The units of 256 bytes that a site's OUT slice and IN slice of a plate leave (R235). -/
def siteUnits (img : List Byte) (site : Nat) (out : Bool) : Nat :=
  (((slices img).filter fun x => x.1 = site + 1).map fun x => if out then x.2.2.2 else x.2.2.1).foldl (· + ·) 0

/-- Whether the Host Gate of a site fired the last Shutter. -/
def State.gateFired (s : State) (site : Nat) : Bool := s.mesh.fired.contains (rowGate site)

/-- One byte of a buffer; outside the buffer nothing is stated, so it is free. -/
def State.bufByte (s : State) (n h o : Nat) : Byte :=
  if o < ((s.getCore n).cad h).size then s.byte (s.bufAddr n h o) else Config.freeByte s.fresh o

/-- Reading an outbox: what was read so far, the units taken of each site, and whether reading has stopped. -/
structure OutRead where
  west : Nat := 0
  east : Nat := 0
  stop : Bool := false
  deriving DecidableEq, Repr

def OutRead.used (r : OutRead) (site : Nat) : Nat := if site = 0 then r.west else r.east
def OutRead.take (r : OutRead) (site n : Nat) : OutRead :=
  if site = 0 then { r with west := r.west + n } else { r with east := r.east + n }

/-- The result of entry `q` is written and its final answer follows (R323, R327). -/
def State.deliver? (s : State) (w n : Nat) (q : Req) (off len : Nat) : State :=
  let k := min len q.resCap
  let s := s.winWrite q.site q.resOff ((upTo off k).map fun o => s.bufByte n 0xFE o)
  let s := s.modWork w fun x => { x with out := x.out.filter fun z => !(z.admitF = q.admitF && z.record = q.record) }
  s.finalAnswer q (if q.retried then ansRetried else ansDelivered) 0 k (q.resCap < len)

/-- Record `i` of the outbox of work cell `w` at core `n` (R327). -/
def State.outRecord (s : State) (w n : Nat) (img : List Byte) (r : OutRead) (i : Nat) : State × OutRead :=
  if r.stop then (s, r) else
  let o := 64 + 64 * i
  let v (j : Nat) : Nat := leNat (s.bufBytes n 0xFE (o + 4 * j) 4)
  let bad := s.bufBad n 0xFE o 64 ≠ 0
  let s := s.look n (s.bufWords n 0xFE o 64)
  if bad then (s.voidFrame w, { r with stop := true })
  else
    match (s.getWork w).out.find? fun q => q.admitF = BitVec.ofNat 64 (v 0 + 2 ^ 32 * v 1) && q.record = v 2 with
    | none => (s, r)
    | some q =>
      let k := min (v 3) q.resCap
      let u := cdiv (64 + k) 256
      if !s.gateFired q.site then (s.voidFrame w, { r with stop := true })
      else if siteUnits img q.site true < r.used q.site + u then (s, r)
      else
        let bad := s.bufBad n 0xFE (v 4) k ≠ 0
        let s := s.look n (s.bufWords n 0xFE (v 4) k)
        if bad then (s.voidFrame w, { r with stop := true })
        else (s.deliver? w n q (v 4) (v 3), r.take q.site u)

/-- Drain reads the outbox of a work cell that runs, unless its frame is void (R327, R400). Records that do not lie in the buffer
are none. -/
def State.outbox (s : State) (w : Nat) : State :=
  let x := s.getWork w
  match x.bound, s.boundPlate w, s.tailCore w with
  | some b, some img, some n =>
    let c := s.getCore n
    if b.stage ≠ .running || x.mode = 1 || x.void = some s.pmc.frame || !c.writable 0xFE || (c.cad 0xFE).size < 64 then s
    else
    let bad := s.bufBad n 0xFE 0 32 ≠ 0
    let s := s.look n (s.bufWords n 0xFE 0 32)
    if bad then s.voidFrame w
    else
      let count := min (leNat (s.bufBytes n 0xFE 0 4)) (((c.cad 0xFE).size - 64) / 64)
      ((List.range count).foldl (fun (a : State × OutRead) i => a.1.outRecord w n img a.2 i) (s, {})).1
  | _, _, _ => s

/-! ### Drain open (R53, R54, R55 step 1, R91) -/

/-- R91: an armed phase that has not been applied is discarded; the router poisons until the Shutter. -/
def State.dropPhase (s : State) (r : Nat) : State :=
  if (s.getRtr r).armed.isNone then s
  else ((s.modRtr r fun x => { x with armed := none, poisoning := true }).countCore r 0x0128 1).fault r fMesh

/-- Entries not finally answered take the flags of this frame: extended (R54), clipped (R151). -/
def State.markFlags (s : State) (w : Nat) : State :=
  s.modWork w fun x =>
    let clip : Bool := match x.bound with
      | some b => b.place.any fun n => (s.getCore n).str.clipped
      | none => false
    { x with out := x.out.map fun q => { q with late := q.late || s.pmc.extended, clip := q.clip || clip } }

/-- From the deadline to the end of core `n`, late, in 10 ns units rounded up (R53): its END, or the event that stopped it. A
core cycle at RATIO r lasts 6.4 / r ns (R353). -/
def State.overtime (s : State) (n : Nat) : Nat :=
  let c := s.getCore n
  cdiv ((c.seq.endCycle.getD c.seq.now - s.deadlineCycle (coreQuad n)) * 64) (100 * max 1 (s.getQuad (coreQuad n)).ratio)

/-- R53: the extension of an extended frame: A where the limit was reached, else up to the end of the last late core. -/
def State.countExtension (s : State) : State :=
  if !s.pmc.extended then s
  else
    let l := (s.core.filter fun e => e.2.late).map fun e => s.overtime e.1
    s.modPmc fun p => { p with
      ovrCount := sat 0xFFFF (p.ovrCount + 1)
      lastExt := if p.point = 3 then 100 * p.a else min (100 * p.a) (l.foldl max 1) }

/-- R55 step 1: drain opens, after the Develop deadline and once no core is late. -/
def execStopBath (s : State) : Out :=
  due s ((s.pmc.point = 2 || s.pmc.point = 3) && !s.core.any fun e => e.2.stillLate) <| -- Develop and extension have ended
  let ws := s.pmc.work.map (·.1)
  let s := s.countExtension.modPmc fun p => { p with phase := phStopBath, point := 4 }
  let s := (s.each (List.range 576) State.dropPhase).each (List.range 576) State.repairUnits
  let s := s.each ws State.markFlags
  let s := (s.each ws State.setupBath).each ws State.recoverLoads
  .next (s.each ws State.outbox)

end Sys2Proof.Machine
end

