-- ==== Sys2Proof/Machine/Bath.lean ====
section
/-! DEFINITION. Drain close and the rest of the Stop Bath (R55 steps 3 to 7): what is dropped (R499, R65), the PMC's evaluations,
what R56 empties, the counters (R100) and the Contact Sheet's commit (R395). -/

namespace Sys2Proof.Machine

/-! ### What is in flight at drain close (R65, R499) -/

/-- A port holds beats or transfers. -/
def MeshPort.busy (p : MeshPort) : Bool := !(p.rx.isEmpty && p.xfers.isEmpty && p.tx.isEmpty)

/-- An item occupies a unit of quadrant `q` (R65). -/
def State.quadBusy (s : State) (q : Nat) : Bool :=
  (quadCores q).any fun n => !(s.getCore n).dma.isEmpty || (tget s.mesh.core n {}).busy ||
    s.mesh.flights.any fun f => f.router = n

/-- The Fabric I/O die of a port (R19). -/
def portFio (port : Nat) : Nat := port / 4

/-- A Fabric I/O die that missed its Shutter holds its egress queues (R367). -/
def State.egressHeld (s : State) (port : Nat) : Bool := !s.mesh.fired.contains (rowFio (portFio port))

/-- An item of the panel is in flight. -/
def State.panelBusy (s : State) : Bool :=
  (List.range 96).any s.quadBusy || s.mesh.res.any (fun e => e.2.busy) || s.mesh.fio.any (fun e => e.2.busy) ||
    s.mesh.gate.any (fun e => e.2.busy) || s.port.any fun e => !e.2.egress.isEmpty && !s.egressHeld e.1

/-- Bytes from `k` on of the local range of a transfer are marked poisoned. -/
def State.markLocal (s : State) (n : Nat) (d : List W32) (k : Nat) : State :=
  (((upTo k (dmBytes d - k)).map fun p => s.bufAddr n (dmHandle d) (localAt d p) / 32).eraseDups).foldl
    (fun (s : State) w => s.mark (32 * w) 32) s

/-- Bytes from `k` on of the address side of a transfer are marked poisoned at unit `u`. -/
def State.markFar (s : State) (u : UnitId) (d : List W32) (k : Nat) : State :=
  (((upTo k (dmBytes d - k)).map fun p => localAddr u (dmAddr d + p / dmRow d * dmAstride d + p % dmRow d) / 32).eraseDups).foldl
    (fun (s : State) w => s.mark (32 * w) 32) s

/-- The ports at which the slot tables deliver stream `x` of core `n` (R186, R191). -/
def State.destinations (s : State) (n x : Nat) : List (UnitId × Nat) :=
  let slots := ((s.getRtr n).active.filter fun e => e.1 < 16384 && entryStream e.2.toNat = x &&
    (entryOuts e.2.toNat).any fun o => o.2 = 5).map fun e => (e.1 / 1024, e.1 % 1024)
  ((slots.flatMap fun k => s.ends (s.walk [] k.1 64 [(n, 5, k.2)])).filterMap fun e =>
    if e.2.1 = 5 then some (.core e.1, 5) else match s.attach e.1 e.2.1 with
      | .die u k => some (u, k)
      | .mgmt => some (.mgmt, 0)
      | _ => none).eraseDups

/-- The unit that an address names, where the tables in force deliver the stream nowhere. -/
def State.destinationsOf (s : State) (n : Nat) (d : List W32) : List (UnitId × Nat) :=
  match s.destinations n (dmStream d), s.unitAt (dmAddr d) with
  | [], some u => [(u.1, 0)]
  | l, _ => l

/-- Acknowledgements under way count for what has been written. -/
def State.ackedBy (s : State) (n : Nat) : List Queued :=
  s.mesh.net.foldl (fun l m =>
    let f := ackFields m
    let mine (q : Queued) : Bool := dmPut q.desc && !dmZero q.desc && q.started && dmStream q.desc = f.2.2.2.1 && !q.acks.contains (m.src, f.1)
    if m.type = tyAck && m.dest = coreQuad n && f.2.1 = coreSlot n && f.2.2.1 then
      match l.findIdx? mine with
      | some i => l.modify i fun q => { q with acks := q.acks ++ [(m.src, f.1)] }
      | none => l
    else l) (s.getCore n).dma

/-- What a port has written of a PUT of core `n`: all of it once it has acknowledged; else what the transfer open there has moved, where
no earlier PUT of the stream stands open there. -/
def State.wroteAt (s : State) (n : Nat) (before : List Queued) (q : Queued) (e : UnitId × Nat) : Nat :=
  let key := (unitNode e.1, ackPlace e.1 e.2)
  if q.acks.contains key then dmBytes q.desc
  else if before.any fun z => dmPut z.desc && !dmZero z.desc && dmStream z.desc = dmStream q.desc && !z.acks.contains key then 0
  else match (s.meshPort e.1).xfers.find? fun x => x.src = n && x.stream = dmStream q.desc with
    | some x => x.moved
    | none => 0

/-- R499: one transfer of core `n` is dropped: every part of its destination not yet written is marked poisoned. A GET's beats that have
arrived are written. -/
def State.dropTransfer (s : State) (n : Nat) (before : List Queued) (q : Queued) : State :=
  let d := q.desc
  if dmZero d then s
  else if !dmPut d then
    let port := tget s.mesh.core n {}
    let got := if q.started then (port.rx.filter (isData (dmRstream d))).take (dmBeats d) else []
    let s := s.modMesh fun m => { m with core := tset m.core n { port with rx := dropData (dmRstream d) got.length port.rx } {} }
    (s.getWrite n q got).2.markLocal n d (got.map fun e => e.2.2.data.length).sum
  else if dmHall d then s
  else (s.destinationsOf n d).foldl (fun (s : State) e => s.markFar e.1 d (s.wroteAt n before q e)) s

/-- The transfers of a list in the order in which they started. -/
def inOrder (l : List Queued) : List Queued :=
  l.mergeSort fun a b => !b.started || (a.started && a.start ≤ b.start)

/-- Every transfer of core `n` still open is dropped, and its cell faults with MESH. -/
def State.dropCore (s : State) (n : Nat) : State :=
  if (s.getCore n).dma.isEmpty then s
  else
    let l := inOrder (s.ackedBy n)
    (((List.range l.length).zip l).foldl (fun (s : State) (q : Nat × Queued) => s.dropTransfer n (l.take q.1) q.2) s).fault n fMesh

/-- The cores whose trains wait in an egress queue (R295, R499). -/
def State.trainOwners (s : State) (port : Nat) : List Nat :=
  (s.getPort port).egress.filterMap fun t =>
    if t.src = s.panelId then (s.fab.remotes.find? fun r => r.xid = t.xid && (t.op = 1 || t.op = 2 || t.op = 4)).map (·.core)
    else none

/-- The requests and writes of this panel that wait in an egress queue are dropped; what other panels sent or asked for goes on (R296). -/
def State.dropEgress (s : State) (port : Nat) : State :=
  if s.egressHeld port then s
  else
    let own (t : Train) : Bool := t.src = s.panelId && (t.op = 1 || t.op = 2 || t.op = 4)
    let gone := ((s.getPort port).egress.filter own).map (·.xid)
    let s := s.faultAll (s.trainOwners port).eraseDups fMesh
    (s.modPort port fun p => { p with egress := p.egress.filter fun t => !own t }).modFab fun f => { f with
      remotes := f.remotes.filter fun r => !(r.op = 1 && gone.contains r.xid) }

/-- A remote transaction after drain close: a fill goes on for the cache alone (R57), a PUT waits for its refusal (R298), the
rest is over. -/
def Remote.after (r : Remote) : Option Remote :=
  if r.op = 4 then some { r with want := 0 } else if r.op = 1 then some r else none

/-- When drain opened, in ns from the Shutter (R55, R59): E − S with E = T + τ and the frame's extension. -/
def State.drainOpen (s : State) : Nat :=
  (1000 * ((s.pmc.t : Int) - s.pmc.s) + s.fab.tau).toNat + if s.pmc.extended then 10 * s.pmc.lastExt else 0

/-- The base-branch cycle in which drain opened: stretching has taken a ninth of its time from the branch (R361). -/
def State.drainCycle (s : State) : Nat := (9 * s.drainOpen - 10 * s.clk.used) * 5 / 18

/-- R55 step 3, R65: drain closes. -/
def State.closeDrain (s : State) : State :=
  let busy := (List.range 96).filter s.quadBusy
  let any := s.panelBusy
  let o := s.drainCycle
  let s := s.each (List.range 96) fun s q => s.modQuad q fun x => { x with
    drainFail := busy.contains q
    drainTime := sat 0xFFFF (cdiv (4 * (x.lastItem - o)) 100)
    lastItem := 0 }
  let s := s.each (List.range 576) State.dropCore
  let s := s.each (List.range 32) State.dropEgress
  let s := s.modMesh fun m => { m with flights := [], core := [], res := [], fio := [], gate := [], mgmt := {}, net := drained m.net }
  let s := s.modFab fun f => { f with remotes := f.remotes.filterMap Remote.after }
  s.modPmc fun p => { p with drainFail := any, point := 5 }

/-! ### The PMC's evaluations -/

/-- R301, R304: lateness of the frame: LAST in 10 ns units, SUM; the panel's last 1,024 (R415). Rounded down: log entry 76. -/
def State.lateness (s : State) : State :=
  let now := s.fab.lateNow
  let last : Tab Nat := now.filterMap fun e => if e.2 / 10 = 0 then none else some (e.1, sat 0xFFFFFFFF (e.2 / 10))
  let s := s.modFab fun f => { f with
    lateLast := last
    lateSum := now.foldl (fun t e => tset t e.1 (tget t e.1 0 + e.2) 0) f.lateSum
    lateNow := [] }
  s.modHlt fun h => { h with panelLate := (tget last 96 0 :: h.panelLate).take 1024 }

/-- The row of a fabric port shows the errors of the frame (R392): what failed CRC there, log entry 121. -/
def State.portBath (s : State) (p : Nat) : State :=
  let n := (s.getPort p).errs
  let s := if n = 0 then s else s.modPort p fun x => { x with errs := 0 }
  if (s.row (rowPort p)).data = BitVec.ofNat 32 n then s else s.rowData (rowPort p) (BitVec.ofNat 32 n)

/-- Cores that CELL_FORCE retires at the next Shutter are found failed at this Stop Bath (R396). -/
def State.forcedRetires (s : State) : State :=
  let hit (e : Override × W64) : Option Nat := match e.1 with
    | .retire n => if e.2 ≤ s.pmc.frame + 1 then some n else none
    | _ => none
  let l := s.pmc.overrides.filterMap hit
  (s.each l fun s n => s.modCore n fun c => { c with failed := some whyOperator }).modPmc fun p => { p with
    overrides := p.overrides.filter fun e => (hit e).isNone }

/-- The rules that act at a Stop Bath (R203, R244, R343, R364, R366, R373 to R381, R396 to R405, R409, R415, R453). -/
def State.evaluate (s : State) : State :=
  let s := s.forcedRetires.healthBath.failedStacks
  let s := (linkList.foldl State.laneBath s).each (List.range 32) State.portBath
  s.sliceBath.clockBath.thermalBath.powerCheck.fwBath.lateness.lateBath

/-! ### What R56 empties -/

/-- The registers and stores of a core after step 4. Resident entries, the lookup table, the Negatives, the statistics, the logs
and the counts since cold start stay (R57). -/
def Core.bath (c : Core) : Core :=
  let q := c.seq
  let slip := q.slipCyc ≠ 0
  { c with
    ccb := { c.ccb with inport := [], tokenOut := 0, emitted := 0, ovf := 0 }
    seq := { baseReg := q.baseReg, lenReg := q.lenReg, base := q.base, len := q.len
             lfEndCycle := match q.state, q.endCycle with
               | .done, some t => BitVec.ofNat 32 t
               | _, _ => 0xFFFFFFFF
             faultInfo := q.faultInfo, faultIdx := q.faultIdx, markPtr := q.markPtr, markLog := q.markLog }
    arr := { activeHalf := c.arr.activeHalf, ce := c.arr.ce, ue := c.arr.ue, ueRow := c.arr.ueRow }
    ve := { lut := c.ve.lut, lutPoison := c.ve.lutPoison, faultInfo := c.ve.faultInfo, ce := c.ve.ce, ue := c.ve.ue }
    str := { ctx := c.str.stale
             neg := c.str.neg, muReg := c.str.muReg, mu := c.str.mu, clippedLf := c.str.clipped, stats := c.str.stats }
    scr := { c.scr with
      valid := c.scr.valid.filter fun h => (c.cad h).resident
      sem := []
      satAt := none
      reads := []
      writes := []
      ports := {}
      slipMax := if slip then slipWord q.slipTag (c.attributed q.slipRole q.slipSem) q.slipRole q.slipSem else 0
      slipMaxCyc := BitVec.ofNat 32 q.slipCyc }
    dma := []
    dmaIssued := 0
    dmaDone := 0
    dmaLast := []
    dmaHeld := 0
    late := false
    released := []
    cnt := c.cnt.close }

/-- A core is cleared; what its transient entries mapped is undefined, and no mark of poison stays there (R56). -/
def State.clearCore (s : State) (n : Nat) : State :=
  let t := s.holdTill n
  let s := ((s.countHolds n).veRowsTo n (some t)).countWaits n t
  let c := s.getCore n
  let gone := (c.scr.valid.filter fun h => !(c.cad h).resident).map c.cad
  let s := gone.foldl (fun (s : State) e =>
    (s.forget (scratchAddr n e.base) e.size).unmark (scratchAddr n e.base) e.size) s
  s.modCore n Core.bath

/-- R56: no load notice is pending; the largest current of the frame is measured, so free (log entry 48). -/
def Quad.bath (peak : Nat) (x : Quad) : Quad := { x with notices := [], peakLf := peak % 256, cnt := x.cnt.close }

/-- R55 step 4: everything that R56 lists is emptied, and the counters are closed (R100). -/
def State.clearPanel (s : State) : State :=
  let k := s.fresh
  let s := { s with fresh := k + 1 }
  let s := s.each (List.range 576) State.clearCore
  let s := s.each (List.range 96) fun s q => s.modQuad q (Quad.bath (Config.choice 138 (k + 97 * q)))
  let s := s.each (List.range 24) fun s t => s.modTile t fun x => { x with cnt := x.cnt.close }
  let s := s.each (List.range 48) fun s h => s.modStack h fun x => { x with cnt := x.cnt.close }
  let s := s.each (List.range 32) fun s p => s.modPort p fun x => { x with cnt := x.cnt.close }
  let s := s.modFab fun f => { f with barriers := [], placed := [] }
  s.modPmc fun p => { p with cnt := p.cnt.close }

/-- R395: the rows of the frame are committed; DATA of a core's row follows its position (R392). -/
def State.commitSheet (s : State) : State :=
  let s := s.each ((s.core.filter fun e => e.2.position.isSome || (s.row e.1).data ≠ 0).map (·.1)) fun s n =>
    if s.row n = {} then s else s.rowData n (s.coreData n)
  let s := s.modHlt fun h => { h with sheet := h.live }
  -- the base tiles' router faults of the next frame count from zero (R392)
  s.each (List.range 24) fun s t => s.rowData (rowTile t) ((s.row (rowTile t)).data &&& 0x3FF)

/-- R55 steps 3 to 6: drain closes and the Stop Bath goes on to its snapshot. SHUTTER_ARM (step 7) and the Shutter are commands
of their own. -/
def execDrainClose (s : State) : Out :=
  due s (s.pmc.point = 4) <| -- drain is open
  .next (s.closeDrain.evaluate.clearPanel.commitSheet.sampleAge.sendSnapshot.bypassEnergy)

end Sys2Proof.Machine
end

