-- ==== Sys2Proof/Machine/Admission.lean ====
section
/-! DEFINITION. The admission cut (R47, R325), the inbox (R326) and the replay's inbox (R401), and GO (R47, R326). -/

namespace Sys2Proof.Machine

def eAdmCost : Nat := 0x0C10
def eAdmRange : Nat := 0x0C11
def eAdmSize : Nat := 0x0C12

/-! ### Copying entries (R321, R322) -/

/-- The entry of a site's Admission Ring at an index, as its stack serves the read. -/
def State.ringEntryAt (s : State) (site i : Nat) : Req × State :=
  let r := s.winTake site ((s.getSite site).aOff + 64 * i) 64
  let q : Req := {
    site := site
    aindex := i
    words := bytesWords r.1
    cost := 0
    earliest := 0
    admitF := 0
    record := 0
    retried := false
    late := false
    clip := false }
  (q, r.2)

/-- The Host Gate of a site makes an admission cut: it fired the Shutter and the site is FULL. -/
def State.gateCuts (s : State) (site : Nat) : Bool := s.gateFired site && (s.getSite site).state = 3

/-- Entries that a site's ring lets its Host Gate copy now: it stops where the Completion Ring has no free entry (R322). -/
def State.copyRoom (s : State) (site : Nat) : Nat :=
  if s.gateCuts site && (s.getSite site).held.isEmpty then (s.getSite site).cFree else 0

/-- The entries of one doorbell, up to its tail, at most `room`; HEAD advances. -/
def State.copyOne (s : State) (site tail room : Nat) : List Req × State :=
  let g := s.getSite site
  let n := 2 ^ g.aLog
  let k := min room ((tail + n - g.aHead) % n)
  let r := (List.range k).foldl (fun (r : List Req × State) i =>
    let e := r.2.ringEntryAt site ((g.aHead + i) % n)
    (r.1 ++ [e.1], e.2)) ([], s)
  (r.1, r.2.setSite site { g with aHead := (g.aHead + k) % n })

/-- What the copying has taken: entries, room left at each site, doorbells left for a later cut. -/
structure Copied where
  reqs : List Req := []
  west : Nat := 0
  east : Nat := 0
  left : List (Nat × Nat) := []
  deriving DecidableEq, Repr

/-- One doorbell's entries. -/
def State.copyDoorbell (a : State × Copied) (e : Nat × Nat) : State × Copied :=
  let room := if e.1 = 0 then a.2.west else a.2.east
  let g := a.1.getSite e.1
  let want := (e.2 + 2 ^ g.aLog - g.aHead) % 2 ^ g.aLog
  let r := a.1.copyOne e.1 e.2 room
  let k := r.1.length
  (r.2,
    { reqs := a.2.reqs ++ r.1
      west := if e.1 = 0 then room - k else a.2.west
      east := if e.1 = 0 then a.2.east else room - k
      left := if k < want then a.2.left ++ [e] else a.2.left })

/-- The entries bound to this frame, in doorbell order (R325). -/
def State.copyRings (s : State) : List Req × State :=
  let r := s.pmc.posted.foldl State.copyDoorbell (s, { west := s.copyRoom 0, east := s.copyRoom 1 })
  (r.2.reqs, r.1.modPmc fun p => { p with posted := r.2.left })

/-! ### Room (R326) -/

/-- An entry's staged size. -/
def Req.staged (q : Req) : Nat := 64 + cdiv q.argLen 256 * 256

/-- Room of an inbox and units left of each site's IN slice. -/
structure Room where
  bytes : Nat := 0
  west : Nat := 0
  east : Nat := 0
  deriving DecidableEq, Repr

def Room.units (r : Room) (site : Nat) : Nat := if site = 0 then r.west else r.east
/-- The entry's staging fits. -/
def Room.fits (r : Room) (q : Req) : Bool := q.staged ≤ r.bytes && cdiv q.staged 256 ≤ r.units q.site
def Room.take (r : Room) (q : Req) : Room :=
  { bytes := r.bytes - q.staged
    west := if q.site = 0 then r.west - cdiv q.staged 256 else r.west
    east := if q.site = 0 then r.east else r.east - cdiv q.staged 256 }

/-- The plate whose rules new entries of work cell `w` meet: the one that will run them (R245). -/
def State.admPlate (s : State) (w : Nat) : Option (List Byte) :=
  match (s.getWork w).next, (s.getWork w).bound with
  | some b, some _ => some (s.plate b.slot)
  | _, _ => s.boundPlate w

/-- The inbox of the plate bound to `w`: the head core, where its handle 0xFF is valid and transient (R326). -/
def State.inbox (s : State) (w : Nat) : Option (Nat × Nat) :=
  (s.headCore w).bind fun n => if (s.getCore n).writable 0xFF then some (n, ((s.getCore n).cad 0xFF).size) else none

/-- The room of a frame: the inbox after its header, the slices. -/
def State.roomOf (s : State) (w : Nat) : Room :=
  match s.inbox w, s.boundPlate w with
  | some b, some img => { bytes := b.2 - 64, west := siteUnits img 0 false, east := siteUnits img 1 false }
  | _, _ => {}

/-- The inbox size that new entries are held to: the bound plate's as established, or the next plate's as it will be. -/
def State.inboxSize (s : State) (w : Nat) : Nat :=
  match (s.getWork w).next, s.admPlate w with
  | some _, some img => (cadOfPlate img (plHead img) 0xFF).size
  | none, some img => match s.inbox w with
    | some b => b.2
    | none => (cadOfPlate img (plHead img) 0xFF).size
  | _, none => 0

/-! ### The checks of R325 -/

/-- How a cell stands at a cut. -/
inductive Stand where
  /-- It admits, or takes entries into its queues: RUNNING, DEGRADED, FAULTED, and in recovery frames (R325, R401). -/
  | runs
  /-- In STARTING during bind setup, or closed for the next plate: entries wait (R245, R325). -/
  | waits
  | refuses
  deriving DecidableEq, Repr

def State.stand (s : State) (w : Nat) : Stand :=
  let x := s.getWork w
  let st := (s.view (.work w)).state
  match x.bound with
  | none => .refuses
  | some b =>
    if st ≠ .running && st ≠ .degraded && st ≠ .faulted && st ≠ .starting then .refuses
    else if st = .starting && b.stage ≠ .setup && x.mode ≠ 1 then .refuses
    else if x.next.isSome then .waits
    else if x.closed && b.stage = .running then .refuses
    else if b.stage = .setup then .waits
    else if x.mode = 1 then .runs
    else if (s.inbox w).isNone then .refuses
    else .runs

/-- Why a new entry is refused, if it is: reason and status (R323, R325). -/
def State.refusal (s : State) (q : Req) : Option (Nat × Nat) :=
  let w := q.wcell
  let top := s.winSize q.site
  if bits (q.w 0) 15 17 ≠ 0 || bits (q.w 0) 3 5 ≠ 0 || q.w 13 ≠ 0 || q.w 14 ≠ 0 || q.w 15 ≠ 0 then
    some (whyInvalid, eReserved)
  else if 96 ≤ w || !s.configured (.work w) then some (whyInvalid, eNoCell)
  else
    let cost : Bool := match s.admPlate w with
      | none => false -- without a plate no COST record is broken
      | some img => !costOk img q.params
    let range := q.argOff % 32 ≠ 0 || q.resOff % 32 ≠ 0 || 16777216 < q.argLen || 16777216 < q.resCap ||
      top < q.argOff + q.argLen || top < q.resOff + q.resCap
    let size : Bool := match s.admPlate w with
      | none => false
      | some img => s.inboxSize w < 64 + q.staged || siteUnits img q.site false < cdiv q.staged 256
    let bad : Option Nat :=
      if cost then some eAdmCost else if range then some eAdmRange else if size then some eAdmSize else none
    match bad with
    | some e => some (whyInvalid, e)
    | none =>
      if s.stand w = .refuses then some (whyCellDown, 0)
      else if ((s.getWork w).getCls q.cls).quota < q.cost then some (whyQuota, 0)
      else none

/-- The entry with its cost (R237). -/
def State.costed (s : State) (q : Req) : Req :=
  match s.admPlate q.wcell with
  | some img => { q with cost := costOf img q.params }
  | none => q

/-- Refused entries are answered, in order; the others go on. COST is 0 where the entry was refused before costing (R322, R325). -/
def State.refuseBad' (a : State × List Req) (q : Req) : State × List Req :=
  let q := a.1.costed q
  match a.1.refusal q with
  | some e =>
    let q := if e.2 = eReserved || e.2 = eNoCell then { q with cost := 0 } else q
    (a.1.firstAnswer q ansRefused e.1 a.1.pmc.frame e.2, a.2)
  | none => (a.1, a.2 ++ [q])

/-! ### Queues -/

/-- Queued entries taken in order while they fit and their frame has come: those taken, those left, what is left of the quota
and the room. -/
def takeQueue (ok : Req → Bool) (quota : Nat) (room : Room) : List Req → List Req × List Req × Nat × Room
  | [] => ([], [], quota, room)
  | q :: r =>
    if q.cost ≤ quota && room.fits q && ok q then
      let x := takeQueue ok (quota - q.cost) (room.take q) r
      (q :: x.1, x.2.1, x.2.2.1, x.2.2.2)
    else ([], q :: r, quota, room)

/-- One later frame: the queues of classes with their quotas, taken in order. -/
def laterFrame (room : Room) : List (Nat × List Req) → List (Nat × List Req)
  | [] => []
  | e :: r =>
    let x := takeQueue (fun _ => true) e.1 room e.2
    (e.1, x.2.1) :: laterFrame x.2.2.2 r

/-- The frames until the last queue of a list is empty: its last entry is taken. None where a frame takes nothing. -/
def framesUntil (room : Room) : Nat → List (Nat × List Req) → Option Nat
  | 0, _ => none
  | k + 1, l =>
    let m := laterFrame room l
    if (m.getLast?.map (·.2.isEmpty)).getD true then some 0
    else if m = l then none
    else (framesUntil room k m).map (· + 1)

/-- The first frame in which queued entries of a cell may be admitted: after setup (R247), after recovery (R401), else the next. -/
def State.firstChance (s : State) (w : Nat) : W64 :=
  let x := s.getWork w
  match x.next, x.bound with
  | some b, _ => b.frame + BitVec.ofNat 64 b.n
  | none, some b =>
    if b.stage = .setup then s.pmc.frame + BitVec.ofNat 64 b.left
    else if x.mode = 1 then s.pmc.frame + BitVec.ofNat 64 (1 + x.recover + b2n x.replay)
    else s.pmc.frame + 1
  | none, none => s.pmc.frame + 1

/-- The quota that a later frame will have: as in force, recovery aside. -/
def State.laterQuota (s : State) (w c : Nat) : Nat :=
  let x := s.getWork w
  if x.quads.any fun q => (s.getQuad q).capGated then 0 else (x.getCls c).inForce

/-- E(e) for an entry at the end of its class's queue (R325). Where it never fits as things stand, E is free (log entry 77). -/
def State.earliestFor (s : State) (w c : Nat) : W64 × State :=
  let x := s.getWork w
  let l := (List.range (c + 1)).map fun k => (s.laterQuota w k, (x.getCls k).queue)
  let img := (s.admPlate w).getD []
  let room : Room := { bytes := s.inboxSize w - 64, west := siteUnits img 0 false, east := siteUnits img 1 false }
  match framesUntil room ((l.map fun e => e.2.length).foldl (· + ·) 2) l with
  | some k => (s.firstChance w + BitVec.ofNat 64 k, s)
  | none => (s.firstChance w + (s.free.1).setWidth 64, s.free.2)

/-- A new entry that waits: DEFERRED, or the queue is full. -/
def State.deferReq (s : State) (w c : Nat) (q : Req) : State :=
  let k := (s.getWork w).getCls c
  if k.depth ≤ k.queue.length then s.firstAnswer q ansRefused whyQueueFull s.pmc.frame 0
  else
    let e := (s.modCls w c fun k => { k with queue := k.queue ++ [q] }).earliestFor w c
    let q := { q with earliest := e.1 }
    (e.2.modCls w c fun k => { k with queue := k.queue.dropLast ++ [q] }).firstAnswer q ansDeferred 0 e.1 0

/-! ### Admission -/

/-- A cut of one work cell in progress: the room left and the entries admitted, in order. -/
structure Cut where
  room : Room
  got : List Req := []
  deriving DecidableEq, Repr

/-- The entry is admitted at this frame, as the next record of the inbox. -/
def Cut.admitReq (x : Cut) (f : W64) (q : Req) : Cut :=
  { room := x.room.take q, got := x.got ++ [{ q with admitF := f, record := x.got.length }] }

/-- Entries of one class: the queue first, then the new ones (R325). -/
def State.cutClass (w : Nat) (fresh : List Req) (a : State × Cut) (c : Nat) : State × Cut :=
  let s := a.1
  let f := s.pmc.frame
  let runs := s.stand w = .runs
  let quota := if runs then s.quotaIn w c else 0
  let room := if runs then a.2.room else {}
  let ok (q : Req) : Bool := q.earliest ≤ f && s.gateFired q.site
  let t := takeQueue ok quota room ((s.getWork w).getCls c).queue
  let s := s.modCls w c fun k => { k with queue := t.2.1 }
  let cut := t.1.foldl (fun (x : Cut) q => x.admitReq f q) a.2
  let r := (fresh.filter fun q => q.cls = c).foldl (fun (r : State × Cut × Nat) q =>
    let queued := !((r.1.getWork w).getCls c).queue.isEmpty
    if queued || r.2.2 < q.cost || !(runs && r.2.1.room.fits q) then (r.1.deferReq w c q, r.2.1, r.2.2)
    else
      let q := { q with earliest := f }
      (r.1.firstAnswer q ansAdmitted 0 f 0, r.2.1.admitReq f q, r.2.2 - q.cost)) (s, cut, t.2.2.1)
  (r.1, r.2.1)

/-! ### The inbox (R326) -/

/-- Bytes with their poison written into the inbox from offset `o`, a multiple of 32, padded to whole words. -/
def State.inboxWrite (s : State) (n o : Nat) (bs : List (Byte × Bool)) : State :=
  (List.range (cdiv bs.length 32)).foldl (fun (s : State) i =>
    let c := (bs.drop (32 * i)).take 32
    s.putBytes (s.bufAddr n 0xFF (o + 32 * i)) (c ++ List.replicate (32 - c.length) (0, false))) s

/-- The offsets of the arguments of entries whose first starts at `o`. -/
def argOffsets (o : Nat) : List Req → List Nat
  | [] => []
  | q :: r => o :: argOffsets (o + cdiv q.argLen 256 * 256) r

/-- The Host Gates write an inbox: COUNT and the frame, the records, then the arguments, each from a 256-byte boundary. -/
def State.stageInbox (s : State) (n : Nat) (f : W64) (l : List Req) : State :=
  let offs := argOffsets (cdiv (64 + 64 * l.length) 256 * 256) l
  let head : List W32 := [BitVec.ofNat 32 l.length, f.setWidth 32, (f >>> 32).setWidth 32] ++ List.replicate 13 0
  let recs := (l.zip offs).flatMap fun (e : Req × Nat) =>
    (e.1.words.take 13) ++ [BitVec.ofNat 32 e.1.record, BitVec.ofNat 32 e.2, BitVec.ofNat 32 e.1.argLen]
  let s := s.inboxWrite n 0 ((wordBytes (head ++ recs)).map fun b => (b, false))
  (l.zip offs).foldl (fun (s : State) (e : Req × Nat) =>
    let r := s.winRead e.1.site e.1.argOff e.1.argLen
    r.2.inboxWrite n e.2 r.1) s

/-- GO is due to a cell that runs a plate in RUNNING, DEGRADED or FAULTED, with no request too (R47). -/
def State.goDue (s : State) (w : Nat) : Bool :=
  let x := s.getWork w
  let st := (s.view (.work w)).state
  (x.bound.map (·.stage)) = some .running && x.mode ≠ 1 && (st = .running || st = .degraded || st = .faulted)

/-- The cut of one work cell: its classes, its inbox and GO due. The queues of a cell that can admit no longer end (R323, R325). In
a replay the inbox of the void frame is staged again, as it was (R401: log entry 78). -/
def State.cutWork (fresh : List Req) (s : State) (w : Nat) : State :=
  let stand := s.stand w
  let st := (s.view (.work w)).state
  if stand = .refuses then
    let due := s.goDue w
    (s.loseQueued w (if st = .hold then lostHold else whyCellDown)).modWork w fun x => { x with
      goCount := if due then some 0 else none }
  else
    let r := (List.range 8).foldl (State.cutClass w (fresh.filter fun q => q.wcell = w)) (s, { room := s.roomOf w })
    let s := r.1
    let x := s.getWork w
    let l := if x.mode = 2 then x.staged else r.2.got
    let f := if x.mode = 2 then (l.head?.map (·.admitF)).getD s.pmc.frame else s.pmc.frame
    let s := s.modWork w fun x => { x with
      out := x.out ++ r.2.got
      staged := if x.mode = 1 then x.staged else l
      goCount := none }
    if !s.goDue w then s
    else
      let s := match s.inbox w with
        | some b => s.stageInbox b.1 f l
        | none => s
      s.modWork w fun x => { x with goCount := some l.length }

/-- R47, R325: the admission cut. While the PMC restarts, the cut waits for the next Shutter (R410). -/
def State.cut (s : State) : State :=
  if s.pmc.restarting then s
  else
    let c := s.copyRings
    let r := c.1.foldl State.refuseBad' (c.2, [])
    (r.1.pmc.work.map (·.1)).foldl (State.cutWork r.2) r.1

/-- R47, R326: GO goes to the work cell's head member with the number of requests admitted. -/
def execGoSend (w : Nat) (s : State) : Out :=
  unit (w < 96) "work cell" <|
  match (s.getWork w).goCount with
  | none => .next s -- nothing, unless the inbox of the frame is complete
  | some k =>
    let s := s.modWork w fun x => { x with goCount := none }
    match s.head (.work w) with
    | some n => .next (s.tokenArrive n (token 1 k) none)
    | none => .next s

end Sys2Proof.Machine
end

