-- ==== Sys2Proof/Machine/Frames.lean ====
section
/-! DEFINITION. The nodes of the control network and their heartbeats (R48, R213, R214, R366, R367), and the overrides, changes
and layouts that a Shutter puts into force (R172, R316, R427, R433). -/

namespace Sys2Proof.Machine

/-! ### Nodes (R209) -/

/-- The node exists on the order code. -/
def State.nodeOk (s : State) : Node → Bool
  | .quad q => q < 96
  | .fio n => n < 8 && s.fioFitted n
  | .gate g => g < 2 && s.siteFitted g

/-- The Contact Sheet row of a perimeter node. -/
def nodeRow : Node → Nat
  | .quad _ => 0
  | .fio n => rowFio n
  | .gate g => rowGate g

/-- R48: a node receives SHUTTER_ARM. A quadrant whose base branch is stopped receives nothing (R364). -/
def execShutterArm (node : Node) (frame count : W64) (s : State) : Out :=
  unit (s.nodeOk node) "node" <|
  due s (s.reaches nodePmc (nodeId node)) <| -- a message that would cross a link that has failed is lost (R213)
  match node with
  | .quad q => .next (s.modQuad q fun x => if x.source = 5 then x else { x with armFrame := some (frame, count) })
  | n => .next (s.modMesh fun m => { m with
      armed := (m.armed.filter fun e => e.1 ≠ nodeRow n) ++ [(nodeRow n, frame, count)] })

/-- R214: the PMC receives a heartbeat of a node that fired this Shutter. -/
def execHeartbeat (node : Node) (frame : W32) (s : State) : Out :=
  unit (s.nodeOk node) "node" <|
  match node with
  | .quad q =>
    due s (frame = s.frame32 && (s.getQuad q).fired && s.reaches q nodePmc) <| -- the node fired this Shutter
    .next (s.modQuad q fun x => { x with heard := true })
  | n =>
    due s (frame = s.frame32 && s.mesh.fired.contains (nodeRow n) && s.reaches (nodeId n) nodePmc) <| -- the node fired this Shutter
    .next (s.modMesh fun m => { m with heard := nadd m.heard (nodeRow n) })

/-- The Contact Sheet row of the control link `d` (0 N, 1 S, 2 E, 3 W) of a quadrant's node (R391): horizontal links west to
east then south to north, then vertical ones in the same order. -/
def controlRow (q d : Nat) : Option Nat :=
  let p := quadXY q
  match d with
  | 0 => if p.2 < 7 then some (6896 + p.2 * 12 + p.1) else none
  | 1 => if 0 < p.2 then some (6896 + (p.2 - 1) * 12 + p.1) else none
  | 2 => if p.1 < 11 then some (6808 + p.2 * 11 + p.1) else none
  | 3 => if 0 < p.1 then some (6808 + p.2 * 11 + p.1 - 1) else none
  | _ => none

/-- R213: a node switches a link to its twin wire set. The row keeps its STATE; its REASON gives TWIN_WIRES. Where the twin fails too the
link is cut, both ways, until the PMC's reroute at the next Shutter. -/
def execTwinSwitch (q link : Nat) (s : State) : Out :=
  unit (q < 96 && link < 4) "control link" <|
  match controlRow q link with
  | none => .fault (.noUnit "control link")
  | some r =>
    let b := BitVec.ofNat 4 (2 ^ link)
    if !(s.getQuad q).twin.getLsbD link then
      .next ((s.modQuad q fun x => { x with twin := x.twin ||| b }).rowState r (s.row r).state 0x2E)
    else
      -- both wire sets have failed
      let s := s.modQuad q fun x => { x with cut := x.cut ||| b }
      .next (match ctlMate q link with
        | some m => s.modQuad m.1 fun x => { x with cut := x.cut ||| BitVec.ofNat 4 (2 ^ m.2) }
        | none => s)

/-! ### Missed Shutters (R214, R366, R367) -/

/-- Cells whose heartbeat is missing: HEARTBEAT sets and stays until they rejoin. -/
def State.missCores (s : State) (l : List Nat) : State :=
  (s.faultAll l fHeartbeat).each l fun s n => (s.hold n fHeartbeat).setReason n whyHeartbeat

/-- The dies of a quadrant that fire no Shutter: gated, or ungated with their self-test still to pass, and not marked expected-absent
(R365, R366). -/
def State.gatedCores (s : State) (q : Nat) : List Nat :=
  let x := s.getQuad q
  (quadCores q).filter fun n =>
    let d := coreDie n % 3
    (x.gated.getLsbD d || !x.tested.getLsbD d) && !x.absent.getLsbD d

/-- The cores of a quadrant that the check finds missing: all of one without heartbeat, else those of the dies marked absent in it
(R366, R367). A core in RESETTING counts with its die alone. -/
def State.missingIn (s : State) (q : Nat) : List Nat :=
  if !(s.getQuad q).heard then (quadCores q).filter s.live
  else (s.gatedCores q).filter fun n => s.live n || (s.getCore n).ccb.state = .resetting

/-- Quadrants without heartbeat whose cells come to miss it. -/
def State.newlyLost (s : State) (q : Nat) : Bool :=
  !(s.getQuad q).heard && (s.missingIn q).any fun n => (s.getCore n).ccb.reason ≠ whyHeartbeat

/-- The missing heartbeats of a quadrant go to the Contact Sheet rows of its cores, which keep their STATE: DEDUCED, log entry 131. -/
def State.missRows (s : State) (q : Nat) : State :=
  s.each (s.missingIn q) fun s n => if (s.row n).reason = 0 then s.rowState n (s.row n).state whyHeartbeat else s

/-- R214: at Shutter + 1.5 µs every missing heartbeat is recorded. -/
def execHeartbeatCheck (s : State) : Out :=
  due s (s.pmc.point = 0 && s.pmc.phase = 1) <| -- a Shutter has fired
  let lost := (List.range 96).filter s.newlyLost
  let s := (s.missCores ((List.range 96).flatMap s.missingIn)).each lost fun s q => (s.missRows q).cellEvent (.quad q)
  let s := s.each (s.perimeter.filter fun r => !s.mesh.heard.contains r) fun s r => s.rowState r (s.row r).state whyHeartbeat
  .next (s.modPmc fun p => { p with point := 1 })

/-- R367 step 1: a node that fired the Shutter before has had no SHUTTER_ARM in time: a quadrant's cores stop and its routers
idle; a perimeter die injects nothing. -/
def execShutterArmTimeout (node : Node) (s : State) : Out :=
  unit (s.nodeOk node) "node" <|
  match node with
  | .quad q =>
    due s (!(s.getQuad q).fired && (s.getQuad q).missed = 1) <| -- the quadrant has missed one Shutter
    .next ((s.stopCores (quadCores q)).each (quadCores q) fun s r => s.modRtr r fun x => { x with idle := true })
  | n =>
    due s (!s.mesh.fired.contains (nodeRow n)) <| -- the die has missed its Shutter
    .next (s.modMesh fun m => { m with stopped := nadd m.stopped (nodeRow n) })

/-- A position of a core that is out of service goes to a replacement; without one the cell's entries end (R397, R402). -/
def State.spareOrEnd (s : State) (n : Nat) : State :=
  match (s.getCore n).position with
  | none => s
  | some p =>
    let s := s.sparePosition n
    if s.spareOut n || s.manual 0 then s else s.noReserve p.1

/-- R367: a quadrant that has not fired by Shutter N + 4: its links and core ports are retired, its positions spared. -/
def execQuadrantMissLimit (q : Nat) (s : State) : Out :=
  unit (q < 96) "quadrant" <|
  due s (!(s.getQuad q).fired && 4 ≤ (s.getQuad q).missed) <| -- four Shutters have passed without the quadrant
  let s := s.each (quadCores q) fun s r =>
    (s.modRtr r fun x => { x with idle := true }).each [1, 2, 3, 4, 5, 6] fun s p => s.needDetour r p
  .next (s.each (quadCores q) State.spareOrEnd)

/-! ### Firing (R48, R196) -/

/-- A router at its quadrant's Shutter: phase 0, round 0, and its bank swapped where FRAME16 says so. -/
def Router.start (f16 : Nat) (r : Router) : Router :=
  let r := { r with
    phase := 0
    round := 0
    armed := none
    sched := 0
    poisoning := false
    idle := false }
  if r.arm && r.frame16.toNat = f16 then
    if r.status = 1 then { r with active := r.pending, pending := r.active, arm := false, status := 0 }
    else { r with arm := false, validating := false, status := 3 }
  else r

/-- A die whose self-test has passed rejoins at this Shutter (R366). -/
def State.rejoinDie (s : State) (n : Nat) : State :=
  let q := s.getQuad (coreQuad n)
  if !q.passed.getLsbD (coreDie n % 3) then s
  else (((s.release n fClock).release n fHeartbeat).release n fPower).setReason n
    (if q.forwarded (coreDie n) then whyClockForwarded else if q.cap < 16 then whyThermalCap else whyNone)

/-- A core of a die that is clocked and has passed its test latches the frame and takes its pending copy; it is heard of again (R48, R246,
R366, R367). -/
def State.fireCore (s : State) (n : Nat) : State :=
  let q := s.getQuad (coreQuad n)
  let d := coreDie n % 3
  let s := s.modRtr n (Router.start s.frame16)
  if q.gated.getLsbD d || !q.tested.getLsbD d then s
  else
    let f := s.pmc.frame
    let s := s.modCore n fun c => { c.takeCopy s.frame16 with ccb := { c.ccb with frame := f } }
    let s := (s.rejoinDie n).release n fHeartbeat
    let s := if (s.row n).reason = whyHeartbeat then s.rowState n (s.row n).state 0 else s
    if (s.getCore n).ccb.reason = whyHeartbeat then s.setReason n whyNone else s

/-- Dies that have rejoined: their outage is over, with its ATTEMPTS (R366). -/
def Quad.rejoined (x : Quad) : Quad :=
  if x.passed = 0 then x else { x with passed := 0, attempts := 0, absent := x.absent &&& ~~~ x.passed }

/-- A quadrant fires where it was armed for this frame. -/
def State.fireQuad (s : State) (q : Nat) : State :=
  let x := s.getQuad q
  match x.armFrame with
  | some a =>
    if a.1 = s.pmc.frame then
      let s := s.setQuad q { x with armFrame := none, fired := true, heard := false, missed := 0 }
      let s := s.modPmc fun p => { p with timebase := if p.timebase < a.2 then a.2 else p.timebase }
      (s.each (quadCores q) State.fireCore).modQuad q Quad.rejoined
    else s.setQuad q { x with armFrame := none, fired := false, heard := false, missed := x.missed + 1 }
  | none => s.setQuad q { x with fired := false, heard := false, missed := x.missed + 1 }

/-- The perimeter dies fire where they were armed for this frame. -/
def Mesh.fire (f : W64) (m : Mesh) : Mesh :=
  let l := (m.armed.filter fun e => e.2.1 = f).map fun e => e.1
  { m with
    core := m.core.map fun e => (e.1, { e.2 with busyTo := 0 })
    cycle := 0
    net := drained m.net
    fired := l.foldl nadd []
    heard := []
    armed := []
    stopped := m.stopped.filter fun r => !l.contains r }

/-! ### Multicast counts (R186) -/

/-- A beat of stream `x` of core `n` at input `a.2.1` of router `a.1` in cycle `a.2.2` of a round, under every phase that the
table in force holds (DEDUCED, log entry 9): the ports that write it here, and where it goes on. -/
def State.hop (s : State) (x n : Nat) (a : Nat × Nat × Nat) : List (UnitId × Nat) × List (Nat × Nat × Nat) :=
  let bank := (s.getRtr a.1).active
  let ws := (List.range (bankNph bank)).map fun ph => (tget bank (1024 * ph + a.2.2) 0).toNat
  let ws := if a.1 = n && a.2.1 = 5 then ws.filter fun w => entryStream w = x else ws
  let outs := (ws.flatMap fun w => ((entryOuts w).filter fun o => o.2 = a.2.1).map fun o => (o.1, entryStream w)).eraseDups
  (outs.filterMap fun o =>
      if o.1 = 5 then (if o.2 = x then some (.core a.1, 5) else none)
      else match s.attach a.1 o.1 with
        | .die u k => some (u, k)
        | _ => none,
    outs.filterMap fun o => if o.1 = 5 then none else match s.attach a.1 o.1 with
      | .router m q => some (m, q, (a.2.2 + if (linkOf a.1 o.1).isSome then 80 else hopTime a.1 m) % 1024)
      | _ => none)

/-- The ports that write a beat, hop by hop: each a unit and its port. -/
def State.reach (s : State) (x n : Nat) : Nat → List (Nat × Nat × Nat) → List (UnitId × Nat)
  | 0, _ => []
  | i + 1, l =>
    let hs := l.map (s.hop x n)
    if l.isEmpty then [] else hs.flatMap (·.1) ++ s.reach x n i (hs.flatMap (·.2)).eraseDups

/-- The streams that core `n` injects, with the number of ports that write each: 1 for one that is not multicast. -/
def State.mcastOf (s : State) (n : Nat) : Tab Nat :=
  let es := (s.getRtr n).active.filter fun e => e.1 < 16384 && (entryOuts e.2.toNat).any fun o => o.2 = 5
  let xs := es.foldl (fun l e => nadd l (entryStream e.2.toNat)) []
  xs.foldl (fun (t : Tab Nat) x =>
    let ks := ((es.filter fun e => entryStream e.2.toNat = x).map fun e => (n, 5, e.1 % 1024)).eraseDups
    tset t x (max 1 (s.reach x n 64 ks).eraseDups.length) 1) []

/-- The PMC sets the counts of every core (R186). -/
def State.setMcast (s : State) : State :=
  s.each (List.range 576) fun s n => s.modCore n fun c => { c with mcast := s.mcastOf n }

/-! ### Overrides that take effect (R316, R317) -/

/-- A cell forced DARK: its cores stop; a quadrant or more loses its rails. What DARK does to a cell's parts: log entry 79. -/
def State.darken (s : State) (cell : CellId) : State :=
  let s := s.each (s.coresOf cell) fun s n =>
    match (s.getCore n).ccb.state with
    | .off | .retired => s
    | _ => (s.stopCore n).modCore n fun c => { c with ccb := { c.ccb with state := .dark, reason := whyOperator } }
  s.each (s.quadsOf cell) fun s q => s.modQuad q Quad.unpower

/-- The state that a core of a powered quadrant returns to. -/
def Core.back (c : Core) : CellState := if c.position.isSome then .running else .ready

/-- A cell is released: its quadrants ramp (R344), or run one more probe where DARK_SHORT (R347); its cores return. -/
def State.undark (s : State) (cell : CellId) : State :=
  let s := s.each (s.quadsOf cell) fun s q => s.modQuad q fun x =>
    if x.tripped then { x with probeDue := true }
    else if x.rail = 0 then { x with rampDue := true } else x
  let s := s.each (s.coresOf cell) fun s n => s.modCore n fun c =>
    if c.ccb.state = .dark && c.ccb.reason = whyOperator then
      { c with
        fw := { runSeq := (s.boot.record s.boot.bank).seq } -- R453
        ccb := { c.ccb with state := if (s.getQuad (coreQuad n)).rail = 3 then c.back else .starting, reason := whyNone } }
    else c
  if cell = .panel && s.thm.state = 3 && s.mayExit then s.startResume else s

/-- Binds and setup wait in Safelight hold, until the resume starts the setup frames (R433). -/
def State.bindsWait (s : State) : Bool := 2 ≤ s.thm.state && (s.thm.state ≠ 4 || s.thm.resumeAt.isSome)

/-! ### Changes that the host has set for this frame (R63, R316, R466) -/

/-- FRAME_CONFIG takes effect. -/
def Pmc.takeParams (f : W64) (p : Pmc) : Pmc :=
  match p.next with
  | some n => if n.2.2.2 ≤ f then { p with t := n.1, s := n.2.1, a := n.2.2.1, next := none } else p
  | none => p

/-- CLASS_SET takes effect. -/
def Cls.takeNext (f : W64) (k : Cls) : Cls :=
  let q := atFrame (k.quota, k.depth) (k.next.map fun e => ((e.1, e.2.1), e.2.2)) f
  { k with quota := q.1, depth := q.2, next := k.next.filter fun e => f < e.2.2 }

/-- A work cell's changes: its quadrants, its classes, its tag. -/
def Work.takeNext (f : W64) (x : Work) : Work :=
  { x with
    quads := x.quadsAt f
    config := x.config.filter fun e => f < e.2
    cls := x.cls.map fun e => (e.1, e.2.takeNext f)
    tag := atFrame x.tag x.tagNext f
    tagNext := x.tagNext.filter fun e => f < e.2 }

/-- A work cell at a Shutter: its changes, and the quotas they leave (R324). -/
def State.changeWork (s0 : State) (w : Nat) : State :=
  let old := (s0.getWork w).cls
  let s := s0.modWork w (Work.takeNext s0.pmc.frame)
  let s := s.relatch s0 [.work w]
  let s := if (s.getWork w).quads.isEmpty then s.modComp (409 + w) fun c => { c with reason := whyNone } else s
  if (s.getWork w).cls = old then s else s.requote w

/-! ### What takes effect (R314) -/

/-- One override takes effect at this Shutter. -/
def State.applyOverride (s : State) : Override → State
  | .dark c => s.darken c
  | .release c => s.undark c
  | .siteDark g => (s.modSite g fun x => { x with railOff := true }).siteRefresh g
  | .siteRelease g => (s.modSite g fun x =>
      if x.railOff then { x with railOff := false, modules := (List.range 8).map fun m => (m, .training) } else x).siteRefresh g
  | .retire n => s.modCore n fun c => { c with failed := some whyOperator }
  | .spare n m => s.applySpare n m
  | .linkRetire t n d g => s.retireGroup t n d g whyOperator
  | .linkRetrain t n d g => s.startRetrain t n d g
  | .linkReturn t n d g =>
    (s.modLink t n d fun l => { l with good := l.good ||| BitVec.ofNat 11 (2 ^ g) }).rowState (rowLane t n d g) rowGood 0
  | .clock _ _ => s -- prepared a Shutter ahead (R360)
  | .margin q mv log => s.applyMargin q mv log
  | .ring r release => s.ringChange r release
  | .params => s.modPmc fun p => p.takeParams p.frame
  | .cell w => s.changeWork w
  | .hall => s.memberTick
  | .ids => s.rebindTick
  | .split h => s.splitTick h
  | .plate w => if s.bindsWait then s else s.plateTick w

/-- The change acts at this Shutter. A RATIO stays until it is prepared (R360). -/
def dueNow (f : W64) (e : Override × W64) : Bool :=
  match e.1 with
  | .clock _ _ => false
  | _ => e.2 ≤ f

/-- The changes of this Shutter, in their order of acceptance (R314). -/
def State.applyOverrides (s : State) : State :=
  let l := s.pmc.overrides.filter (dueNow s.pmc.frame)
  let s := s.modPmc fun p => { p with overrides := p.overrides.filter fun e => !dueNow s.pmc.frame e }
  let s := l.foldl (fun (s : State) e => s.applyOverride e.1) s
  s.pmc.overrides.foldl (fun (s : State) e =>
    match e.1 with
    | .ring r true => if e.2 = s.pmc.frame + 1 then s.sendLeave r e.2 else s
    | _ => s) s

/-! ### Quadrants that power up (R344 to R347) -/

/-- A core that was DARK loads the image of the bank in use (R453). -/
def Core.reload (c : Core) (seq : W32) : CoreFw := if c.ccb.state = .dark then { runSeq := seq } else c.fw

/-- A quadrant at its first frame F1, or deferred; one whose eFuse has tripped is DARK with reason DARK_SHORT (R346). -/
def State.quadShutter (s : State) (q : Nat) : State :=
  let x := s.getQuad q
  if x.tripped then
    s.each (quadCores q) fun s n => s.modCore n fun c =>
      match c.ccb.state with
      | .off | .retired => c
      | _ => { c with ccb := { c.ccb with state := .dark, reason := whyDarkShort } }
  else match x.rampF1 with
    | none => s
    | some f1 =>
      if s.pmc.frame < f1 then s
      else if x.rail ≠ 3 || x.tested ≠ 7 then s.deferRamp q
      else
        let s := (s.modQuad q fun x => { x with rampF1 := none }).quadClear q whyPowerDeferred
        s.each (quadCores q) fun s n => s.modCore n fun c =>
          match c.ccb.state with
          | .starting | .dark | .hold => { c with fw := c.reload (s.boot.record s.boot.bank).seq, ccb := { c.ccb with
              state := if s.thm.state = 4 then .starting else c.back
              reason := if c.ccb.reason = whyCoolingLoss || c.ccb.reason = whyDarkShort then whyNone else c.ccb.reason } }
          | _ => c

/-! ### Resume after Safelight hold (R433) -/

/-- Bound plates start their setup frames again. -/
def State.resumeWork (s : State) (w : Nat) : State :=
  match (s.getWork w).bound with
  | none => s
  | some b =>
    let s := s.modWork w fun x => { x with
      bound := some { b with stage := .setup, left := b.n, fails := 0, frame := s.pmc.frame }
      closed := true
      void := none
      recover := 0
      replay := false
      mode := 0 }
    s.each b.place fun s n => s.modCore n fun c => { c with seq := { c.seq with lenReg := 0 } }

/-- Steps 5 and 6: the first Shutter after Z + 30 ms, and the end of every setup. -/
def State.resumeTick (s : State) : State :=
  if s.thm.state ≠ 4 then s
  else match s.thm.resumeAt with
    | some z =>
      if (s.pmc.frame - z).toNat * s.pmc.t ≤ 30000 then s
      else
        let s := (s.modThm fun t => { t with resumeAt := none }).each (s.pmc.work.map (·.1)) State.resumeWork
        s.each (List.range 576) fun s n => s.modCore n fun c =>
          if (c.ccb.state = .starting || c.ccb.state = .hold) && (s.getQuad (coreQuad n)).rail = 3 then
            { c with ccb := { c.ccb with state := if c.position.isSome then .starting else .ready, reason := whyNone } }
          else c
    | none =>
      if s.pmc.work.any fun e => (e.2.bound.map (·.stage)) = some .setup then s
      else (s.thermalState 0).refreshWarning

/-! ### Rows that still show a fault (R40) -/

/-- The row belongs to a component (R22). -/
def isComponent (r : Nat) : Bool :=
  (rowTileOf r).isSome || (984 ≤ r && r < 994) || r = 996 || (1000 ≤ r && r < 1032)

/-- COMPONENT sets again while a component's row shows a fault. -/
def State.components (s : State) : State :=
  s.each ((s.hlt.live.filter fun e => isComponent e.1 && (e.2.state = 2 || e.2.state = 3 || e.2.state = 4)).map (·.1))
    State.component

/-! ### Faulted cells (R39, R58) -/

/-- The bits of a core whose condition holds. -/
def Core.held (c : Core) : List Nat := (List.range 16).filter c.ccb.holding.getLsbD

/-- Bits whose condition holds set again, all in the Shutter's own cycle (R32, R39). -/
def State.setAgain (s : State) : State := s.faultEach (s.core.flatMap fun e => e.2.held.map fun b => (e.1, b))

/-- A FAULTED core whose conditions have gone returns. -/
def State.returnCore (s : State) (n : Nat) : State :=
  let c := s.getCore n
  if c.ccb.state = .faulted && c.ccb.holding = 0 then s.setCore n { c with ccb := { c.ccb with state := c.ccb.former } } else s

/-! ### Caddy entries and streams (R172, R74) -/

/-- The cause for which a defined entry fails by itself, if it does. -/
def cadCause (e : Cad) : Option Nat :=
  if 2 ≤ e.ilv || bits e.w1.toNat 25 7 ≠ 0 || bits e.w1.toNat 9 7 ≠ 0 || (e.resident && bits e.w3.toNat 16 15 ≠ 0) ||
      0x1000000 < e.base + e.size then some 1
  else if e.resident && (!e.hasCopy || e.copy % 2048 ≠ 0 || 48 * stackSize < e.copy + e.size) then some 2
  else none

/-- What a layout establishes: valid handles, failures with their causes, in handle order. -/
def establish (t : Tab Cad) : List Nat × List (Nat × Nat) :=
  let d := t.filter fun e => e.2.defined
  let good := d.filter fun e => (cadCause e.2).isNone
  let res := good.filter fun e => e.2.resident
  let clash (e : Cad) : Bool := !e.resident && res.any fun r => overlap e.base e.size r.2.base r.2.size
  ((good.filter fun e => !clash e.2).map (·.1),
    d.filterMap fun e => match cadCause e.2 with
      | some k => some (e.1, k)
      | none => if clash e.2 then some (e.1, 3) else none)

/-- The Caddy at a Shutter: CAD_STAT is cleared, then the layout is established. -/
def Core.establish (c : Core) : Core :=
  let r := Machine.establish c.scr.cadReg
  let first := r.2.headD (0, 0)
  { c with scr := { c.scr with
    cad := c.scr.cadReg
    valid := r.1
    cause := first.2
    firstBad := first.1
    bad := r.2.length
    haz := c.scr.hazReg } }

/-- A core that executes frames. -/
def CellState.runs : CellState → Bool
  | .starting | .ready | .running | .degraded => true
  | _ => false

/-- The stream of a core from its first descriptor: none in a cell that does not run, in recovery frames (R401), or with LEN 0. -/
def Core.begin (idle : Bool) (c : Core) : Core :=
  let len := if idle || !c.ccb.state.runs then 0 else c.seq.lenReg
  { c with
    seq := { c.seq with
      base := c.seq.baseReg
      len := len
      state := if len = 0 then .done else .issuing
      index := 0
      now := 0
      nextIssue := 16 }
    str := { c.str with mu := c.str.muReg } }

/-- The stream lies wholly in one valid resident entry (R74). -/
def Core.streamOk (c : Core) : Bool :=
  c.scr.valid.any fun h =>
    let e := c.cad h
    e.resident && e.base ≤ 64 * c.seq.base && 64 * (c.seq.base + c.seq.len) ≤ e.base + e.size

/-- A core at the Shutter: R39, R58 for its faults; where it fired it opens its frame. TAG and KIND of a stream that lies in no entry are those
of no descriptor: free. -/
def State.openCore (s : State) (n : Nat) : State :=
  let q := s.getQuad (coreQuad n)
  let s := s.returnCore n
  if !q.fired || q.gated.getLsbD (coreDie n % 3) || !q.tested.getLsbD (coreDie n % 3) then s
  else
    let idle : Bool := match (s.getCore n).position with
      | some p => (s.getWork p.1).mode = 1
      | none => false
    let s := s.modCore n fun c => c.establish.begin idle
    let c := s.getCore n
    if c.seq.len = 0 || c.streamOk then s
    else s.free.2.reject n eDescHandle s.free.1.toNat 0

/-! ### Memory at a Shutter (R258 to R261, R267, R299) -/

/-- A stack at a Shutter. In the quiet frame of a repair without a window the repair buffer takes cache lines, which are free (log
entry 32). -/
def State.stackShutter (s : State) (h : Nat) : State :=
  let k := s.fresh
  let q := s.quietFrame h s.pmc.frame
  let now : W32 := s.hallFrame.setWidth 32
  ({ s with fresh := k + 1 }).modStack h fun t =>
    let buffer := if q && !t.repairs.isEmpty && t.win = 0 then some k else none
    let gone := (t.cache.filter (inBuffer buffer)).take 256
    { t with
      quiet := q
      buffer := buffer
      hostWait := t.hostWait - s.pmc.t
      tempRead := false
      steps := 0
      failedNow := []
      heldTo := 0
      pcFree := []
      ceFrame := []
      hot := t.hot && t.coldReads < 1000
      cache := t.cache.filter fun l => now ≤ l.leaseEnd && !gone.contains l }

/-- A ring at a Shutter: its members, and in the cold start its bypass opens where both ports have passed (R427). -/
def State.ringShutter (s : State) (r : Nat) : State :=
  let s := (s.ringTick r).ringRow r
  let ok (p : Nat) : Bool :=
    let x := s.getPort p
    x.mode = .training && !x.loopback && !x.localFault
  if (s.getRing r).bypass && !(s.getRing r).released && ok (2 * r) && ok (2 * r + 1) then
    s.modRing r fun g => { g with bypass := false }
  else s

/-! ### The Shutter (R48, R55 step 8) -/

/-- Tokens, counts and notices that came after drain closed are gone at the Shutter (R56). -/
def Core.emptied (c : Core) : Core :=
  { c with
    ccb := { c.ccb with inport := [], tokenOut := 0, emitted := 0, ovf := 0 }
    scr := { c.scr with sem := [] }
    released := [] }

/-- The trains that wait at a port by the Shutter are on the fibre, as far as its credit reaches; the queue is empty then (R56, R296). -/
def State.flushEgress (s : State) (port : Nat) : State :=
  if s.egressHeld port || (s.getPort port).egress.isEmpty then s
  else
    let r := s.resp
    let s := (s.getPort port).egress.foldl (fun (s : State) _ =>
      match s.nextTrain port with
      | some (i, t, q) => if (s.getPort port).fits t then s.sendNew port i t q else s
      | none => s) s
    { s.modPort port fun p => { p with egress := [] } with resp := r }

/-- R56 for what may come between drain close and the Shutter. -/
def State.emptied (s : State) : State :=
  let s := s.each (s.core.map (·.1)) fun s n => s.modCore n Core.emptied
  let s := s.each (s.quad.map (·.1)) fun s q => s.modQuad q fun x => { x with notices := [] }
  (s.each (List.range 32) State.flushEgress).modFab fun f => { f with barriers := [] }

/-- What fires: the counter, the quadrants, the perimeter. -/
def State.fire (s : State) : State :=
  let s := s.emptied
  let s := s.modPmc fun p => { p with
    frame := p.frame + 1
    phase := 1
    point := 0
    extended := false }
  let s := s.modMesh (Mesh.fire s.pmc.frame)
  let s := s.each (s.quad.map (·.1)) fun s q => s.modQuad q fun x => { x with cut := 0, lastItem := 0 }
  (s.each (List.range 96) State.fireQuad).modClk fun c => { c with used := 0, crossed := c.active }

/-- Routers armed together are forgotten once none of them is armed (R196). -/
def State.endGroups (s : State) : State :=
  s.modPmc fun p => { p with together := p.together.filter fun g => g.any fun r => (s.getRtr r).arm }

/-- The frame's own changes: what the last frame left due at the rings and the links, then what has been accepted for it (R314), then
setup, sparing and recovery. -/
def State.changes (s : State) : State :=
  let s := (s.modFab fun x => { x with express := [] }).trimTick
  let s := s.each (List.range 16) State.ringShutter
  let s := (linkList.foldl State.linkShutter s).linksDone.resumeTick.applyOverrides.hallTick
  let ws := s.pmc.work.map (·.1)
  let held := s.bindsWait
  let s := if held then s else s.each ws State.bindTick
  let s := s.each (List.range 48) State.stackShutter
  let s := s.each (List.range 576) State.retireCore
  let s := s.each (List.range 576) State.rejoinCore
  let s := s.each (List.range 576) State.endSpared
  let s := (s.each (List.range 96) State.quadShutter).detourCuts.endGroups
  if held then s else s.each ws State.recoverTick

/-- Every Negative entry is stale where frame bits [31:0] are 0 (R144). -/
def State.staleNegatives (s : State) : State :=
  if s.frame32 ≠ 0 then s
  else s.each (s.core.map (·.1)) fun s n => s.modCore n fun c => { c with str := { c.str with neg := [], stats := [] } }

/-- A port with more than 16 replays in the frame retrains (R293). -/
def State.fabricShutter (s : State) : State :=
  s.each (List.range 32) fun s p =>
    let many : Bool := 16 < (s.getPort p).replays
    let s := s.modPort p fun x => { x with replays := 0 }
    if many && (s.getPort p).up then ((s.repoint p).startTraining p).portRow p else s

/-- Rates and set-points (R337, R359, R360, R376). With another variant in force its tables are in force too (R238). -/
def State.rates (s : State) : State :=
  let was := s.pmc.work.map fun (e : Nat × Work) => (e.1, (e.2.bound.map (·.variant)).getD 0)
  let s := s.each (List.range 96) fun s q => ((s.modQuad q Quad.derated).rampRestore q).callPhases q
  let s := (s.each (List.range 96) State.capShutter).setRatios
  was.foldl (fun (s : State) (e : Nat × Nat) =>
    match (s.getWork e.1).bound, s.boundPlate e.1 with
    | some b, some img =>
      if e.2 = 0 || (plFind img 0x06 b.variant).map (·.off) = (plFind img 0x06 e.2).map (·.off) then s
      else
        let old := s.ownHops e.1 [] b e.2
        let t := s.modWork e.1 fun x => { x with bound := some { b with variant := e.2 } }
        (t.plateIn e.1 [] old img b.quads b.place b.variant).modWork e.1 fun x => { x with bound := some b }
    | _, _ => s) s

/-- The management die's own firmware rolls at a Shutter: it restarts into the staged image (R453). -/
def State.rollPmc (s : State) : State :=
  match (s.fwTarget 0).rollAt with
  | some f =>
    if f ≤ s.pmc.frame && ((s.fwTarget 0).phase = 2 || (s.fwTarget 0).phase = 3) then s.pmcRestart.fwSwitched 0 else s
  | none => s

/-- R48: the Shutter. -/
def execShutter (s : State) : Out :=
  due s (s.pmc.point = 5) <| -- the Stop Bath has ended
  let s := s.fire.changes.staleNegatives.fabricShutter.components.rates.thermalShutter.setAgain.setMcast
  let s := s.each (s.pmc.work.map (·.1)) State.zeroQuotas
  .next ((s.each (List.range 576) State.openCore).rollPmc.cut.fireVectors)

end Sys2Proof.Machine
end

