-- ==== Sys2Proof/Machine/Pldm.lean ====
section
/-! DEFINITION. The PLDM endpoint of the management connector (R416, R475). Its completion codes and the order of the
state sensors' values are PRESUMED (DSP0248, log entry 74). -/

namespace Sys2Proof.Machine

/-- A reading of `x` / `d` in whole units, two's complement; which of the two nearest, the spec leaves open
(log entry 74). -/
def State.inUnits (s : State) (x : Int) (d : Nat) : W32 × State :=
  if x % d = 0 then (BitVec.ofInt 32 (x / d), s)
  else
    let r := s.choose 120 2
    (BitVec.ofInt 32 (x / d + (r.1 : Int)), r.2)

/-- The highest governing reading (R416), in 1/16 °C. -/
def State.hottest (s : State) : Int :=
  match s.thm.pairs with
  | [] => 0
  | e :: l => l.foldl (fun a x => max a x.2.temp) e.2.temp

/-- The panel's lateness mean over the frames kept (R415), in ns. -/
def State.latenessMean (s : State) : Nat :=
  let l := s.hlt.panelLate
  if l.isEmpty then 0 else 10 * l.foldl (· + ·) 0 / l.length

/-- R416, R475: a numeric sensor's reading. -/
def State.numeric (s : State) (id : Nat) : Option (W32 × State) :=
  match id with
  | 1 => some (s.inUnits s.thm.inlet0 16)
  | 2 => some (s.inUnits s.thm.inlet1 16)
  | 3 => some (s.inUnits s.hottest 16)
  | 4 => some (BitVec.ofNat 32 s.pwr.pLf, s)
  | 5 => some (BitVec.ofNat 32 (s.getTile s.worstTile).rth, s)
  | 6 => some (BitVec.ofNat 32 (s.exposedIn .panel), s)
  | 7 => some (BitVec.ofNat 32 s.reserves, s)
  | 8 => some (BitVec.ofNat 32 s.latenessMean, s)
  | 11 => some (s.inUnits s.mtr.total.toNat 1000000)
  | 12 => some (s.mtr.copySeq, s)
  | 13 => some (s.mtr.bypassE, s)
  | _ => none

/-- DSP0248's INVALID_SENSOR_ID and INVALID_RECORD_HANDLE. -/
def pldmBadSensor : Nat := 0x80
def pldmBadRecord : Nat := 0x82

/-- R416. -/
def execGetSensorReading (id : Nat) (s : State) : Out :=
  match s.numeric id with
  | some r => .next (r.2.answer 0 [r.1])
  | none => .next (s.done pldmBadSensor)

/-- The panel's states that hold, of 1 Normal, 2 Warning, 3 Hold, 4 Derated. -/
def State.panelStates (s : State) : List Nat :=
  let l := (if 2 ≤ s.thm.state then [3] else if s.thm.state = 1 then [2] else []) ++ (if s.hlt.derated then [4] else [])
  if l.isEmpty then [1] else l

/-- R416: where the panel is derated and in another of the states too, which it reads is open (log entry 74). -/
def execGetStateSensorReadings (id : Nat) (s : State) : Out :=
  match id with
  | 9 =>
    let l := s.panelStates
    let r := s.choose 121 l.length
    .next (r.2.answer 0 [BitVec.ofNat 32 (l.getD r.1 1)])
  | 10 => .next (s.answer 0 [BitVec.ofNat 32 (b2n (s.thm.state = 1))])
  | _ => .next (s.done pldmBadSensor)

/-- R416: record `n` describes sensor `n`, record 0 the first; the spec gives no more of its contents, which are a free
word (log entry 74). -/
def execGetPdr (record : Nat) (s : State) : Out :=
  let n := if record = 0 then 1 else record
  if 13 < n then .next (s.done pldmBadRecord) else
  let r := s.free
  .next (r.2.answer 0 [BitVec.ofNat 32 n, r.1])

end Sys2Proof.Machine
end

