-- ==== Sys2Proof/Machine/Regs.lean ====
section
/-! DEFINITION. The register map (R493 to R497): what a read of each word gives, and the writes of the register paths
(R7, R8, R310, R407). -/

namespace Sys2Proof.Machine

/-! ### Fields -/

/-- One bit. -/
def bit (b : Bool) (i : Nat) : Nat × Nat × Nat := (b2n b, i, 1)
/-- A signed field of `n` bits. -/
def sfield (x : Int) (lo n : Nat) : Nat × Nat × Nat := (ofSigned n x, lo, n)
def lowWord (x : W64) : W32 := x.setWidth 32
def highWord (x : W64) : W32 := (x >>> 32).setWidth 32

/-- A cumulative counter at `off` from `lo` to `hi`, or its last-frame copy `gap` above (R100). -/
def Counters.read (c : Counters) (lo hi gap off : Nat) : W32 :=
  if lo ≤ off && off ≤ hi then tget c.now off 0 else tget c.last (off - gap) 0
/-- The offsets of a block of counters and of its copies. -/
def inCounters (lo hi gap off : Nat) : Bool := (lo ≤ off && off ≤ hi) || (lo + gap ≤ off && off ≤ hi + gap)

/-! ### Cell Control Blocks (R24 to R43) -/

/-- A token word of the cell's tail or head (R33, R40). -/
def State.tailCcb (s : State) (cell : CellId) : Ccb := ((s.tail cell).map fun n => (s.getCore n).ccb).getD {}
def State.headCcb (s : State) (cell : CellId) : Ccb := ((s.head cell).map fun n => (s.getCore n).ccb).getD {}

/-- What another member panel told (R42). -/
def State.peerOf (s : State) (p : Option Nat) (f : Peer → W32) : W32 := (p.map fun p => f (tget s.fab.peers p {})).getD 0

/-- Word `i` of a cell's CCB as the cells stand. -/
def State.ccbNow (s : State) (cell : CellId) (i : Nat) : W32 :=
  if !s.configured cell then
    match i with
    | 0 => s.ccbId cell
    | 14 => 0xFFFFFFFF
    | _ => 0
  else
    let v := s.view cell
    let own := s.ccbOf cell
    match i with
    | 0 => s.ccbId cell
    | 1 => v.word
    | 2 => word [(s.memberCount cell, 16, 16), (s.exposedIn cell, 0, 16)]
    | 3 => lowWord v.frame
    | 4 => highWord v.frame
    | 5 => (s.faultOf cell).setWidth 32
    | 6 => if s.faultOf cell = 0 then 0 else own.first
    | 7 => if s.faultOf cell = 0 then 0 else own.firstFrame
    | 9 => if cell = .hall && (s.tail cell).isNone then s.peerOf s.hallTail (·.tokenOut) else (s.tailCcb cell).tokenOut
    | 10 =>
      let out := if cell = .hall && (s.tail cell).isNone then s.peerOf s.hallTail (·.tokenStat) &&& 0xFFFF0000
        else word [((s.tailCcb cell).emitted, 16, 16)]
      let into := if cell = .hall && (s.head cell).isNone then s.peerOf s.hallHead (·.tokenStat) &&& 0xFFFF
        else word [((s.headCcb cell).inport.length, 8, 8), ((s.headCcb cell).ovf, 0, 8)]
      out ||| into
    | 13 => word [bit own.dbPending 0]
    | 14 => s.workWord cell
    | _ => 0

/-- The state whose cells a CCB shows: while the PMC restarts, a composite's is not updated (R410). -/
def State.shown (s : State) (cell : CellId) : State :=
  match cell, s.pmc.held with
  | .core _, _ => s
  | _, none => s
  | _, some h => { s with
      core := h.core
      pmc := { s.pmc with comp := h.comp, work := h.work, frame := h.frame }
      fab := { s.fab with peers := h.peers } }

/-- Word `i` of a cell's CCB. -/
def State.ccbWord (s : State) (cell : CellId) (i : Nat) : W32 := (s.shown cell).ccbNow cell i

/-! ### The per-core block (R99, R137, R156, R179, R217) -/

def SeqState.code : SeqState → Nat
  | .done => 0
  | .issuing => 1
  | .waitSem => 2
  | .waitQueue => 3
  | .waitNotice => 4
  | .waitPhase => 5
  | .inEnd => 6
  | .stopped => 7

/-- CORE_ARRAY_STAT at core cycle `now`. -/
def Core.arrayStat (c : Core) (now : Nat) : W32 :=
  let fill := c.arr.queue.filter fun q => !q.closed || now < q.finish - arrP q.desc
  word [(fill.length, 4, 4), bit (c.arr.queue.any fun q => q.started && (!q.closed || now < q.finish)) 3,
    bit (c.arr.loadFor.isSome && c.arr.loadFrom ≤ now && now < c.arr.loadEnd) 2, bit c.arr.activeHalf 1]

/-- CORE_ registers at core cycle `now`; `notice`: a NOTICE holds the next descriptor. -/
def Core.seqReg (c : Core) (now : Nat) (notice : Bool) (off : Nat) : W32 :=
  let q := c.seq
  match off with
  | 0x40 => BitVec.ofNat 32 q.baseReg
  | 0x44 => BitVec.ofNat 32 q.lenReg
  | 0x48 => word [((if notice then SeqState.waitNotice else q.state).code, 28, 4), bit (!c.dma.isEmpty) 27, bit (!c.str.queue.isEmpty) 26,
    bit (!c.ve.queue.isEmpty) 25,
      bit (!c.arr.queue.isEmpty) 24, (q.index, 0, 15)]
  | 0x4C => q.faultInfo
  | 0x50 => q.faultIdx
  | 0x54 => c.arrayStat now
  | 0x58 => word [(c.arr.ce, 16, 16), (c.arr.ue, 12, 4), (c.arr.ueRow, 0, 9)]
  | 0x170 => q.lfEndCycle
  | 0x200 => BitVec.ofNat 32 q.markPtr
  | _ =>
    if inCounters 0x100 0x12C 0x40 off then c.cnt.read 0x100 0x12C 0x40 off
    else if 0x300 ≤ off && off < 0x400 then tget q.markLog ((off - 0x300) / 4) 0
    else 0

/-- VE_STAT.STATE (R137) at core cycle `now`: DEDUCED, log entry 75. -/
def Core.veState (c : Core) (now : Nat) : Nat :=
  match c.ve.queue with
  | [] => if c.seq.state = .stopped then 5 else 0
  | q :: _ => if !q.started then (if now < q.entered + 12 then 1 else 2) else if q.progress < veNt q.desc then 3 else 4

/-- Tile `t` is held (R120). -/
def Core.tileHeld (c : Core) (t : Nat) : Bool :=
  c.ve.ftq.any (·.1 = t) ||
    c.ve.queue.any fun v => veSrc v.desc = 1 && !veZero v.desc && veAIdx v.desc + v.progress ≤ t &&
      t < veAIdx v.desc + veNt v.desc

/-- VE_ registers. -/
def Core.veReg (c : Core) (now off : Nat) : W32 :=
  match off with
  | 0x400 => word [(c.veState now, 28, 4), (c.vqFill, 24, 4), bit (c.tileHeld 3) 23, bit (c.tileHeld 2) 22, bit (c.tileHeld 1) 21,
      bit (c.tileHeld 0) 20, (c.ve.rowPair, 0, 9)]
  | 0x404 => word ((c.ve.ftq.length, 8, 3) :: ((List.range 4).zip c.ve.ftq).map fun e => (e.2.1, 2 * e.1, 2))
  | 0x408 => c.ve.faultInfo
  | 0x40C => word [(c.ve.ce, 16, 16), (c.ve.ue, 12, 4)]
  | _ => c.cnt.read 0x410 0x42C 0x40 off

/-- STR_STAT.STATE (R156): the head of the Strainer queue, DEDUCED, log entry 75. OP 1 is EXACT, 2 PREDICT, 3 KEEP (R153). -/
def Core.strState (c : Core) (now : Nat) : Nat :=
  match c.str.queue with
  | [] => if c.seq.state = .stopped then 4 else if c.str.gathers.any fun g => g.1 ≤ now && now < g.2 then 3 else 0
  | q :: _ => if stOp q.desc = 3 then 2 else 1

/-- STR_ registers at core cycle `now` of frame `f`. -/
def Core.strReg (c : Core) (now : Nat) (f : W64) (off : Nat) : W32 :=
  match off with
  | 0x480 => word ([(c.strState now, 28, 4), (c.str.queue.length, 24, 4), bit c.str.clippedLf 16] ++
      (List.range 16).map fun i => bit ((tget c.str.ctx i {}).built = some f) i)
  | 0x484 => BitVec.ofNat 32 c.str.muReg
  | 0x488 => BitVec.ofNat 32 c.str.muUsed
  | _ =>
    if 0x1000 ≤ off then tget c.str.stats ((off - 0x1000) / 4) 0
    else c.cnt.read 0x490 0x4BC 0x40 off

/-- A CAD_ENTRY word as it reads (R170). -/
def Core.cadReg (c : Core) (h w : Nat) : W32 :=
  let e := tget c.scr.cadReg h {}
  match w with
  | 0 => e.w0 ||| word [bit (c.scr.valid.contains h) 31]
  | 1 => e.w1
  | 2 => e.w2
  | _ => e.w3

/-- SCR_, CAD_ and SEM_ registers; `held`: the cycles that the wait has held. -/
def Core.scrReg (c : Core) (held off : Nat) : W32 :=
  let x := c.scr
  match off with
  | 0x500 => word [bit x.hazReg 0]
  | 0x504 => word [(x.ce, 16, 16), (x.ue, 12, 4)]
  | 0x508 => word [(x.eccWord, 0, 19)]
  | 0x50C => word [(x.cause, 28, 4), (x.firstBad, 16, 8), (x.bad, 0, 9)]
  | 0x510 =>
    match c.seq.waiting with
    | some w => word [(1, 31, 1), bit w.role 30, (w.sem, 16, 9), (sat 0xFFFF (held / 1024), 0, 16)]
    | none => 0
  | 0x514 => x.slipMax
  | 0x518 => x.slipMaxCyc
  | 0x51C => x.expire
  | 0x520 => word [(x.hazPtr, 0, 3)]
  | _ =>
    if inCounters 0x530 0x54C 0x40 off then c.cnt.read 0x530 0x54C 0x40 off
    else if 0x600 ≤ off && off < 0x680 then tget x.hazLog ((off - 0x600) / 4) 0
    else if 0x2000 ≤ off && off < 0x3000 then c.cadReg ((off - 0x2000) / 16) (off / 4 % 4)
    else if 0x3000 ≤ off && off < 0x3800 then BitVec.ofNat 32 (tget x.sem ((off - 0x3000) / 4) 0)
    else 0

/-- RTR_ registers. -/
def State.rtrReg (s : State) (n off : Nat) : W32 :=
  let r := s.getRtr n
  match off with
  | 0x700 => word [(r.phase, 28, 4), ((r.armed.map (·.1)).getD 0, 24, 4), bit r.armed.isSome 23, (r.round, 0, 16)]
  | 0x704 => word [bit r.bankSel 31, (r.index, 0, 15)]
  | 0x708 => r.data
  | 0x70C => word [(r.frame16.toNat, 16, 16), (r.status, 2, 2), bit r.validating 1, bit r.arm 0]
  | 0x710 => r.tblErr
  | _ => if inCounters 0x720 0x72C 0x40 off then (s.getCore n).cnt.read 0x720 0x72C 0x40 off else 0

/-- A word of the block of core `n`. -/
def State.coreReg (s : State) (n off : Nat) : W32 :=
  let now := s.coreNow n
  let holds := s.liveHold n
  -- row pairs have issued up to now, and the cycles of what stands count as they pass
  let c := (s.veRowsTo n (some (s.holdTill n))).getCore n
  let c := { c with cnt := (holds ++ c.waits (s.holdTill n)).foldl (fun (k : Counters) (e : Nat × Nat) => k.add e.1 e.2) c.cnt }
  if off < 0x40 then s.ccbWord (.core n) (off / 4)
  else if off < 0x400 then c.seqReg now (s.noticeHolds n (s.holdTill n)) off
  else if off ≤ 0x46C then c.veReg now off
  else if 0x480 ≤ off && off < 0x500 || 0x1000 ≤ off && off < 0x2000 then c.strReg now s.pmc.frame off
  else if 0x700 ≤ off && off ≤ 0x76C then s.rtrReg n off
  else c.scrReg ((holds.head?.map (·.2)).getD 0) off

/-! ### Tile blocks (R220, R270, R351, R389, R435) -/

/-- A word of an inter-tile link record. -/
def State.linkReg (s : State) (t n d w : Nat) : W32 :=
  if !linkFitted t n then (if w = 0 then 0xC0000000 else 0) else
  let l := s.getLink t n d
  let off := 0x100 + 0x20 * n + 0x10 * d + 8
  match w with
  | 0 => word [(l.mode, 30, 2), bit l.retraining 29, bit l.skipped 28, (l.group, 24, 4), (l.goodCount, 16, 4), (l.changed, 0, 16)]
  | 1 => l.good.setWidth 32
  | 2 => tget (s.getTile t).cnt.now off 0
  | _ => tget (s.getTile t).cnt.last off 0

/-- A word of a stack's memory record. -/
def Stack.reg (x : Stack) (off : Nat) : W32 :=
  match off with
  | 0x00 => word [(x.state, 28, 4), bit x.hot 27, bit x.tempStale 26, bit (x.quiet || (x.stepBusy && x.state = 3)) 25,
      (sat 15 x.repairs.length, 16, 4), (x.lastStep, 0, 16)]
  | 0x04 => word [(x.tempFrame, 16, 16), (x.temp, 0, 8)]
  | 0x08 => word [(x.ce, 16, 16), (x.ue, 12, 4)]
  | 0x0C => word [(x.sector, 0, 31)]
  | 0x10 => word [((x.winNext.map (·.1)).getD 0, 16, 4), bit x.winNext.isSome 15, (x.win, 0, 4)]
  | 0x14 => word [(x.resCe, 16, 16), (x.resUe, 12, 4), (x.resWord / 1024, 0, 12)]
  | 0x18 => word [(x.bootResult, 30, 2), (x.bootRepaired, 20, 10), (x.bootWeak, 10, 10), (x.bootCounted, 0, 10)]
  | _ => if inCounters 0x20 0x3C 0x40 off then x.cnt.read 0x20 0x3C 0x40 off else 0

/-- A word of the block of tile `t`. -/
def State.tileReg (s : State) (t off : Nat) : W32 :=
  let x := s.getTile t
  if 0x100 ≤ off && off < 0x240 then s.linkReg t ((off - 0x100) / 0x20) (off / 0x10 % 2) (off / 4 % 4)
  else if 0x400 ≤ off && off < 0x600 then (s.getStack (2 * t + (off - 0x400) / 0x100)).reg (off % 0x100)
  else if off = 0x600 then word [(x.convW, 30, 2), (x.convE, 28, 2), bit x.tied 27, bit x.feedW 26, bit x.feedE 25, (x.pE, 9, 9),
      (x.pW, 0, 9)]
  else if off = 0x700 then word [(x.rth, 16, 16), (x.base, 0, 16)]
  else if 0x704 ≤ off && off ≤ 0x714 then tget x.cyc ((off - 0x704) / 4) 0
  else if off = 0x718 then word [sfield x.tmax 0 16]
  else 0

/-! ### Quadrant blocks (R65, R219, R350, R368, R389, R417) -/

/-- The RATIO accepted for quadrant `q` and not in force (R368). -/
def State.ratioPending (s : State) (q : Nat) : Option Nat :=
  match (s.getQuad q).ratioNext with
  | some r => some r.1
  | none => s.pmc.overrides.findSome? fun e => match e.1 with
    | .clock p r => if p = q then some r else none
    | _ => none

/-- A word of the block of quadrant `q`. -/
def State.quadReg (s : State) (q off : Nat) : W32 :=
  let x := s.getQuad q
  match off with
  | 0x40 => word [bit x.drainFail 31, (x.drainTime, 0, 16)]
  | 0x44 => word [(x.ctlLate, 16, 16), (x.twin.toNat, 0, 4)]
  | 0x80 => word [(x.rail, 28, 4), (x.good, 24, 4), (x.limit, 16, 8), (sat 15 x.defers, 8, 4), bit x.vclamp 7,
      (if x.rail = 3 then 0 else x.step, 0, 5)]
  | 0x84 => word [sfield x.margin 24 8, (x.vset, 0, 10)]
  | 0x88 => word [(x.peakLf, 24, 8), (x.iNow, 0, 8)]
  | 0x8C => word [(x.failedPh.toNat, 16, 8), (x.activePh.toNat, 8, 8), (x.sramGood.toNat, 0, 2)]
  | 0x100 => word [(x.source, 28, 4), (x.standby, 24, 4), bit x.locked 23, (if x.capGated then 7 else x.gated.toNat, 20, 3), (x.dieFwd.toNat, 17, 3),
      (x.attempts, 15, 2), sfield x.phase 0 8]
  | 0x104 => word [(x.ratioChanged, 16, 16), bit (s.ratioPending q).isSome 15, ((s.ratioPending q).getD 0, 8, 5), (x.ratio, 0, 5)]
  | 0x180 => word [sfield x.tbase 16 16, bit x.capGated 15, (x.tlimit, 8, 5), (x.cap, 0, 5)]
  | 0x200 => word [(x.slack, 16, 16), (x.roCount, 0, 16)]
  | 0x204 => x.brk ||| word [bit (s.boot.step = 6 && (s.usableIn q).isEmpty) 0]
  | _ =>
    if inCounters 0x90 0x9C 0x40 off then x.cnt.read 0x90 0x9C 0x40 off
    else if inCounters 0x110 0x114 0x40 off then x.cnt.read 0x110 0x114 0x40 off
    else 0

/-! ### Host Gate blocks (R329, R496) -/

def ModMode.code : ModMode → Nat
  | .down => 0
  | .x64 => 1
  | .x32 => 2
  | .training => 3

/-- A word of the Host Gate block of site `g`. -/
def State.gateReg (s : State) (g off : Nat) : W32 :=
  if !s.siteFitted g then (if off = 0 then 0x50000000 else 0) else
  let x := s.getSite g
  match off with
  | 0x00 => word [(x.state, 28, 4), bit (x.ringsSet && x.cFree = 0) 27, bit x.ringsSet 26, (x.trained, 16, 4), (x.changed, 0, 16)]
  | 0x04 => word ((List.range 8).map fun m => (ModMode.code (tget x.modules m .down), 2 * m, 2))
  | 0x08 => word [(x.aHead, 16, 16), (x.aTail, 0, 16)]
  | 0x0C => word [(x.cTail, 16, 16), (x.cHead, 0, 16)]
  | 0x10 => word [(x.dropWr, 22, 10), (x.dropDb, 11, 11), (x.dropEvt, 0, 11)]
  | _ => 0

/-! ### The fabric block (R303, R304) -/

def PortMode.code : PortMode → Nat
  | .down => 0
  | .x8 => 1
  | .x4lo => 2
  | .x4hi => 3
  | .training => 4
  | .absent => 5

/-- A word of the record of port `p`. -/
def State.portReg (s : State) (p off : Nat) : W32 :=
  if !s.ringFitted (p / 2) then (if off = 0 then 0xA0000000 else 0) else
  let x := s.getPort p
  match off with
  | 0x00 => word [(PortMode.code x.mode, 29, 3), bit x.localFault 28, bit x.spanFault 27, bit x.rttLong 26, bit x.miswired 25,
      (x.changed, 0, 16)]
  | 0x04 => word [(x.nbrPanel, 20, 12), (x.nbrPort % 16, 16, 4), (x.nbrPort / 16, 15, 1), bit x.nbrValid 14, (x.nbrHall, 0, 10)]
  | 0x08 => word [(x.rtt, 0, 16)]
  | _ => if inCounters 0x10 0x1C 0x20 off then x.cnt.read 0x10 0x1C 0x20 off else 0

/-- A word of the record of ring `r`. -/
def State.ringReg (s : State) (r off : Nat) : W32 :=
  if !s.ringFitted r then 0 else
  let x := s.getRing r
  match off with
  | 0 => word [bit x.released 2, (x.dim, 0, 2)]
  | 4 => word [(x.state, 30, 2), bit x.bypass 29, (x.members, 0, 6)]
  | _ => 0

/-- Word `w` of a publish table entry. -/
def State.pubReg (s : State) (e w : Nat) : W32 :=
  match s.fab.pub.lookup e with
  | none => 0
  | some p =>
    match w with
    | 0 => word [bit (s.pubActive p) 31, (p.base / 2 ^ 32, 0, 16)]
    | 1 => BitVec.ofNat 32 p.base
    | 2 => BitVec.ofNat 32 (p.len / 2048)
    | 3 => lowWord p.start
    | 4 => highWord p.start
    | 5 => lowWord p.stop
    | 6 => highWord p.stop
    | _ => 0

/-- A word of the fabric block. -/
def State.fabReg (s : State) (off : Nat) : W32 :=
  let x := s.fab
  if off < 0x800 then s.portReg (off / 0x40) (off % 0x40)
  else if off < 0x900 then s.ringReg ((off - 0x800) / 0x10) (off % 0x10)
  else if off = 0x900 then word [((x.idNext.map (·.1)).getD 0, 16, 12), bit x.idNext.isSome 15, (x.id, 0, 12)]
  else if off = 0x904 then x.putNak
  else if off = 0x908 then x.putNakFrame
  else if 0xA00 ≤ off && off < 0xD08 then
    BitVec.ofNat 32 (if off % 8 = 0 then tget x.lateLast ((off - 0xA00) / 8) 0 else tget x.lateSum ((off - 0xA00) / 8) 0 / 1000)
  else if 0x1000 ≤ off && off < 0x1800 then s.pubReg ((off - 0x1000) / 32) (off / 4 % 8)
  else 0

/-! ### The PMC block (R64, R270, R349, R368, R388, R417, R434, R459, R476) -/

/-- Frame registers. -/
def State.frmReg (s : State) (off : Nat) : W32 :=
  let p := s.pmc
  match off with
  | 0x100 => lowWord p.frame
  | 0x104 => highWord p.frame
  | 0x108 => word [(p.a, 24, 8), (p.s, 16, 8), (p.t, 0, 15)]
  | 0x10C =>
    match p.next with
    | some n => word [(n.2.2.1, 24, 8), (n.2.1, 16, 8), (1, 15, 1), (n.1, 0, 15)]
    | none => 0
  | 0x110 => ((p.next.map fun n => lowWord n.2.2.2)).getD 0
  | 0x114 => ((p.next.map fun n => highWord n.2.2.2)).getD 0
  | 0x118 => word [bit p.drainFail 5, bit p.hallLock 4, bit s.fab.hallIndex.isSome 3, bit p.extended 2, (p.phase, 0, 2)]
  | 0x11C => word [(p.ovrCount, 16, 16), (p.lastExt, 0, 16)]
  | 0x120 => BitVec.ofInt 32 s.fab.offset
  | 0x124 => lowWord s.fab.fofs
  | 0x128 => highWord s.fab.fofs
  | 0x140 => word [(if s.sec.h2 then p.eastNext else 0, 12, 3), (p.westNext, 8, 3), (p.east, 4, 3), (p.west, 0, 3)]
  | _ => 0

/-- Power and clock registers. -/
def State.pwrReg (s : State) (off : Nat) : W32 :=
  let x := s.pwr
  match off with
  | 0x200 => word [(x.source, 30, 2), bit x.mainOk 29, bit x.backupOk 28, bit x.overLimit 27, bit x.staged 26, (x.changed, 0, 16)]
  | 0x204 => word [(x.limit, 0, 14)]
  | 0x208 => x.inMain
  | 0x20C => x.inBackup
  | 0x210 => word [(x.pLf, 0, 16)]
  | 0x214 => x.switch
  | 0x300 => word [(s.clk.sel, 30, 2), bit s.clk.refA 29, bit s.clk.refB 28, (s.clk.changed, 0, 16)]
  | 0x304 => word [bit s.clk.active 31, (s.clk.firstQd, 24, 7), (s.clk.used, 0, 15)]
  | _ =>
    if inCounters 0x220 0x22C 0x40 off then s.pmc.cnt.read 0x220 0x22C 0x40 off
    else if inCounters 0x310 0x314 0x40 off then s.pmc.cnt.read 0x310 0x314 0x40 off
    else 0

/-- Thermal registers. -/
def State.thmReg (s : State) (off : Nat) : W32 :=
  let x := s.thm
  match off with
  | 0x400 => word [(x.state, 28, 4), (x.cause, 24, 4), bit x.fan0 23, bit x.fan1 22, bit x.inlet0Bad 21, bit x.inlet1Bad 20,
      (x.changed, 0, 16)]
  | 0x404 => word [sfield x.inlet1 16 16, sfield x.inlet0 0 16]
  | _ =>
    if inCounters 0x410 0x41C 0x40 off then s.pmc.cnt.read 0x410 0x41C 0x40 off
    else if 0x800 ≤ off && off ≤ 0xEE8 then (s.pair ((off - 0x800) / 4)).word
    else 0

/-- Health registers. -/
def State.hltReg (s : State) (off : Nat) : W32 :=
  let x := s.hlt
  match off with
  | 0x500 => word [bit x.derated 31, bit x.pmcAlt 30, (s.reserves, 16, 10), (s.exposedIn .panel, 0, 10)]
  | 0x504 => x.spareLast
  | 0x508 => word [(x.mlogPtr, 0, 4)]
  | _ =>
    if inCounters 0x510 0x520 0x40 off then s.pmc.cnt.read 0x510 0x520 0x40 off
    else if 0x580 ≤ off && off < 0x5C0 then tget x.rank ((off - 0x580) / 4) 0xFFC00000
    else if 0x600 ≤ off && off < 0x700 then tget x.mlog ((off - 0x600) / 4) 0
    else 0

/-- Metering registers. -/
def State.mtrReg (s : State) (off : Nat) : W32 :=
  let x := s.mtr
  match off with
  | 0x700 => word [(x.state, 28, 4), bit x.linkOk 27, bit x.copyFull 26, (x.changed, 0, 16)]
  | 0x704 => x.copySeq
  | 0x708 => lowWord x.total
  | 0x70C => highWord x.total
  | 0x710 => x.bypassE
  | _ => if inCounters 0x720 0x72C 0x40 off then s.pmc.cnt.read 0x720 0x72C 0x40 off else 0

/-- Cold start and security registers. -/
def State.bootReg (s : State) (off : Nat) : W32 :=
  let b := s.boot
  let x := s.sec
  match off with
  | 0xF00 => word [(b.step, 28, 4), bit b.bank 27, bit b.alt 26, (b.tries, 24, 2), (b.elapsed, 0, 16)]
  | 0xF04 => b.err
  | 0xF08 => b.seqA
  | 0xF0C => b.seqB
  | 0xF10 => lowWord b.lossFrame
  | 0xF14 => highWord b.lossFrame
  | 0xF18 => b.lossCause
  | 0xF40 => word ([bit x.lmsOff 31, (x.revEc.toNat, 20, 4), (x.revLms.toNat, 16, 4), (x.arb, 0, 7)] ++
      (List.range 4).map fun k => bit ((tget x.slots k {}).filled && !(tget x.slots k {}).revoked) (24 + k))
  | 0xF44 => word [(x.use, 0, 30)]
  | 0xF48 => word [(x.next, 0, 30)]
  | _ =>
    if 0xF60 ≤ off && off < 0xFA0 then s.fwWords.getD ((off - 0xF60) / 4) 0
    else if inCounters 0xFA0 0xFA4 0x40 off then s.pmc.cnt.read 0xFA0 0xFA4 0x40 off
    else 0

/-- A word of the PMC block. -/
def State.pmcReg (s : State) (off : Nat) : W32 :=
  if off < 0x200 then s.frmReg off
  else if off < 0x400 then s.pwrReg off
  else if off < 0x500 || 0x800 ≤ off && off < 0xF00 then s.thmReg off
  else if off < 0x700 then s.hltReg off
  else if off < 0x800 then s.mtrReg off
  else if off < 0x1000 then s.bootReg off
  else if 0x8000 ≤ off && off < 0xFE80 then s.ccbWord (entryCell ((off - 0x8000) / 64)) (off / 4 % 16)
  else 0

/-! ### The whole map (R494, R496) -/

/-- The block that an offset of the register range lies in (R494). -/
inductive Block where
  | core (n : Nat)
  | tile (n : Nat)
  | quad (n : Nat)
  | gate (n : Nat)
  | fab
  | pmc
  | reserved
  deriving DecidableEq, Repr

/-- Block and offset of a register address, counted from 0x3000_0000_0000. -/
def blockOf (o : Nat) : Block × Nat :=
  let k := o / 0x10000
  let off := o % 0x10000
  if k < 576 then (.core k, off)
  else if k < 600 then (.tile (k - 576), off)
  else if k < 696 then (.quad (k - 600), off)
  else if k = 0x2C0 || k = 0x2C1 then (.gate (k - 0x2C0), off)
  else if k = 0x2C2 then (.fab, off)
  else if k = 0x2C3 then (.pmc, off)
  else (.reserved, off)

/-- What a read of the register at an offset of the register range gives (R8, R493 to R496). -/
def State.regRead (s : State) (o : Nat) : W32 :=
  match blockOf o with
  | (.core n, off) => s.coreReg n off
  | (.tile t, off) => s.tileReg t off
  | (.quad q, off) => s.quadReg q off
  | (.gate g, off) => s.gateReg g off
  | (.fab, off) => s.fabReg off
  | (.pmc, off) => s.pmcReg off
  | (.reserved, _) => 0

/-- A register that shows a measured quantity takes the value it shows; that value is free (log entry 48). -/
def State.measure (s : State) (o : Nat) : State :=
  let f := s.free
  let v := f.1
  let n := v.toNat
  match blockOf o with
  | (.tile t, 0x600) => f.2.modTile t fun x => { x with pW := n % 512, pE := n / 512 % 512 }
  | (.quad q, 0x88) => f.2.modQuad q fun x => { x with iNow := n % 256 }
  | (.quad q, 0x100) => s.measurePhase q
  | (.pmc, 0x208) => f.2.modPwr fun x => { x with inMain := v }
  | (.pmc, 0x20C) => f.2.modPwr fun x => { x with inBackup := v }
  | (.pmc, 0xF00) => if 6 ≤ s.boot.step && s.boot.step ≤ 7 then s else f.2.modBoot fun x => { x with elapsed := n % 65536 }
  | _ => s

/-! ### Writes (R8) -/

/-- A register that may be written and the router or core it belongs to. -/
inductive Reg where
  | seqBase (n : Nat)
  | seqLen (n : Nat)
  | muBudget (n : Nat)
  | scrCtrl (n : Nat)
  | cad (n h w : Nat)
  | tblAddr (n : Nat)
  | tblData (n : Nat)
  | swap (n : Nat)
  | ccb (cell : CellId) (w : Nat)
  | other
  deriving DecidableEq, Repr

/-- The register at an offset of the register range. -/
def wordReg (o : Nat) : Reg :=
  match blockOf o with
  | (.core n, off) =>
    if off < 0x40 then .ccb (.core n) (off / 4)
    else if off = 0x40 then .seqBase n
    else if off = 0x44 then .seqLen n
    else if off = 0x484 then .muBudget n
    else if off = 0x500 then .scrCtrl n
    else if 0x2000 ≤ off && off < 0x3000 then .cad n ((off - 0x2000) / 16) (off / 4 % 4)
    else if off = 0x704 then .tblAddr n
    else if off = 0x708 then .tblData n
    else if off = 0x70C then .swap n
    else .other
  | (.pmc, off) =>
    if 0x8000 ≤ off && off < 0xFE80 then .ccb (entryCell ((off - 0x8000) / 64)) (off / 4 % 16) else .other
  | _ => .other

/-- The bits of a CAD_ENTRY word that a write changes: VALID is RO, reserved bits are ignored (R9, R170). -/
def cadMask (w : Nat) : W32 :=
  match w with
  | 0 => 0x7FFFFFFF
  | 1 => 0x01FF01FF
  | 2 => 0xFFFFFFFF
  | _ => 0x8000FFFF

def Cad.put (e : Cad) (w : Nat) (v : W32) : Cad :=
  let v := v &&& cadMask w
  match w with
  | 0 => { e with w0 := v }
  | 1 => { e with w1 := v }
  | 2 => { e with w2 := v }
  | _ => { e with w3 := v }

/-- The write of a register of core `n`: the core's own configuration registers (R99, R156, R170, R180). -/
def Core.setReg (c : Core) (r : Reg) (v : W32) : Core :=
  match r with
  | .seqBase _ => { c with seq := { c.seq with baseReg := bits v.toNat 0 18 } }
  | .seqLen _ => if 16384 < bits v.toNat 0 15 then c else { c with seq := { c.seq with lenReg := bits v.toNat 0 15 } }
  | .muBudget _ => { c with str := { c.str with muReg := bits v.toNat 0 20 } }
  | .scrCtrl _ => { c with scr := { c.scr with hazReg := v.getLsbD 0 } }
  | .cad _ h w => { c with scr := { c.scr with cadReg := tset c.scr.cadReg h ((tget c.scr.cadReg h {}).put w v) {} } }
  | _ => c

/-- A write of a core's register; a core in RESETTING discards it (R407). -/
def State.coreWrite (s : State) (n : Nat) (r : Reg) (v : W32) : State :=
  if (s.getCore n).ccb.state = .resetting then s.done stCellReset else (s.modCore n fun c => c.setReg r v).done 0

/-- A write of RTR_TBL_ADDR. -/
def Router.setAddr (r : Router) (v : W32) : Router := { r with bankSel := v.getLsbD 31, index := bits v.toNat 0 15 }

/-- A write of CCB_RESET (R34, R37). -/
def State.resetWrite (s : State) (c : CellId) (v : W32) : State :=
  if !s.configured c then s.done eNoCell
  else match bits v.toNat 0 2 with
    | 0 => s.done 0
    | 1 => (s.planReset c).done 0
    | 2 => (s.fatalCell c).done 0
    | _ => s.done eReserved

/-- A write of a word of a CCB or of a CCB window entry (R23, R34 to R39). -/
def State.ccbWrite (s : State) (c : CellId) (w : Nat) (v : W32) : State :=
  match w with
  | 5 => (s.clearFaults c (v.setWidth 16)).done 0
  | 8 => s.tokenIn c v
  | 11 => s.resetWrite c v
  | 12 => s.doorbell c v
  | _ => s.done 0

/-- A write of RTR_SWAP (R196, R217). -/
def State.swapWrite (s : State) (n : Nat) (v : W32) : State :=
  if v.getLsbD 0 then s.armSwap n ((v >>> 16).setWidth 16)
  else (s.modRtr n fun r => r.disarmAt ((v >>> 16).setWidth 16)).done 0

/-- A write by the PMC (R211), which reaches every register. -/
def State.pmcWrite (s : State) (o : Nat) (v : W32) : State :=
  match wordReg o with
  | .ccb c w => s.ccbWrite c w v
  | .tblAddr n => (s.modRtr n fun r => r.setAddr v).done 0
  | .tblData n => (s.modRtr n fun r => r.putData v).done 0
  | .swap n => s.swapWrite n v
  | .other => s.done 0
  | .seqBase n => s.coreWrite n (.seqBase n) v
  | .seqLen n => s.coreWrite n (.seqLen n) v
  | .muBudget n => s.coreWrite n (.muBudget n) v
  | .scrCtrl n => s.coreWrite n (.scrCtrl n) v
  | .cad n h w => s.coreWrite n (.cad n h w) v

/-- Any other BAR2 write is discarded and counted (R310). -/
def Site.dropWrite (g : Site) : Site := { g with dropWr := sat 0x3FF (g.dropWr + 1) }

/-- A host write through BAR2: CCB_FAULT, CCB_TOKEN_IN, CCB_RESET and CCB_DOORBELL (R310). A site that is DOWN has no more than reads of
BAR0 (R309): the write is discarded and counted (log entry 137). -/
def State.barWrite (s : State) (site o : Nat) (v : W32) : State :=
  if !(s.getSite site).open then (s.modSite site Site.dropWrite).done 0 else
  match wordReg o with
  | .ccb c w => if w = 5 || w = 8 || w = 11 || w = 12 then s.ccbWrite c w v else (s.modSite site Site.dropWrite).done 0
  | _ => (s.modSite site Site.dropWrite).done 0

/-- A host write of a mailbox word (R312, R313). OWNER is written by the panel only. A write to a RUNNING mailbox is undefined:
the word then holds a free value (log entry 73). -/
def State.boxWrite (s : State) (site mb i : Nat) (v : W32) : State :=
  let v := if i = 0 then v &&& 0xFFFFFF00 else v
  if ((s.getSite site).box mb).owner = ownRunning then
    let f := s.free
    f.2.modBox site mb fun m => m.put i (if i = 0 then f.1 &&& 0xFFFFFF00 else f.1)
  else s.modBox site mb fun m => m.put i v

/-- A host write through BAR0 (R310, R311): the doorbell page and the mailboxes. -/
def State.bar0Write (s : State) (site o : Nat) (v : W32) : State :=
  if 0x10000 ≤ o && o < 0x10040 then s.ringMailbox site ((o - 0x10000) / 4)
  else if o = 0x10100 then s.newTail site v
  else if o = 0x10104 then s.newHead site v
  else if 0x20000 ≤ o && o < 0x30000 && (s.getSite site).open then
    (s.boxWrite site ((o - 0x20000) / 4096) (o % 4096 / 4) v).done 0
  else s.done 0

/-- R8, R7, R309, R310, R407: a register write. A site that is OFF or ABSENT takes none. -/
def execRegisterWrite (path : Path) (addr : Nat) (width : Nat) (value : W32) (s : State) : Out :=
  match path with
  | .bar0 site =>
    unit (site < 2 && addr < 0x40000) "BAR0" <|
    .next (if !(s.getSite site).linked then s
      else if width ≠ 4 || addr % 4 ≠ 0 then s.done eAlign else s.bar0Write site addr value)
  | .bar2 site =>
    unit (site < 2 && regBase ≤ addr && addr < regBase + 0x8000000) "the register range" <|
    .next (if !(s.getSite site).linked then s
      else if width ≠ 4 || addr % 4 ≠ 0 then s.done eAlign else s.barWrite site (addr - regBase) value)
  | .mgmt =>
    unit (regBase ≤ addr && addr < regBase + 0x8000000) "the register range" <|
    .next (if width ≠ 4 || addr % 4 ≠ 0 then s.done eAlign else s.pmcWrite (addr - regBase) value)

/-! ### Reads over CXL.io (R7, R8, R310) -/

/-- What a read through a BAR completes with: status and data. It changes nothing, but for RTR_TBL_DATA, whose read is a command of
its own (R217). The mailboxes read as they stand (R312), and a word that no block has reads 0. -/
def State.barRead (s : State) (path : Path) (addr width : Nat) : Status × W32 :=
  if width ≠ 4 || addr % 4 ≠ 0 then (BitVec.ofNat 16 eAlign, 0)
  else match path with
    | .bar0 site =>
      if addr < 0x10000 then (0, s.gateReg site addr)
      else if 0x20000 ≤ addr && addr < 0x30000 then
        let m := (s.getSite site).box ((addr - 0x20000) / 4096)
        let i := addr % 4096 / 4
        (0, if i = 0 then (m.word 0 &&& 0xFFFFFF00) ||| BitVec.ofNat 32 m.owner else m.word i)
      else (0, 0)
    | _ => (0, s.regRead (addr - regBase))

/-! ### MGMT messages (R211) -/

/-- A MGMT read of any register; a read of RTR_TBL_DATA moves its index on (R217). -/
def State.mgmtRead (s : State) (o : Nat) : State :=
  let s := s.measure o
  let v := s.regRead o
  match wordReg o with
  | .tblData n => (s.modRtr n Router.bump).answer 0 [v]
  | _ => s.answer 0 [v]

/-- The node that serves the register block at offset `o` (R209, R494): a core's or quadrant's own; a tile's at its first quadrant (log entry
111); a die's own; the PMC's blocks lie at the root. -/
def regNode (o : Nat) : Nat :=
  if o < 0x2400000 then coreQuad (o / 0x10000)
  else if o < 0x2580000 then 4 * ((o - 0x2400000) / 0x10000)
  else if o < 0x2B80000 then (o - 0x2580000) / 0x10000
  else if 0x2C00000 ≤ o && o < 0x2C20000 then nodeGate ((o - 0x2C00000) / 0x10000)
  else nodePmc

/-- R211: a node performs a register read or write, a table load or the arming of a swap that the PMC orders. -/
def execMgmtMessage (isWrite : Bool) (addr : Nat) (value : W32) (s : State) : Out :=
  unit (regBase ≤ addr && addr < regBase + 0x8000000) "the register range" <|
  due s (s.reaches nodePmc (regNode (addr - regBase))) <| -- a message that would cross a link that has failed is lost (R213)
  if addr % 4 ≠ 0 then .next (s.answer (BitVec.ofNat 16 eAlign) (if isWrite then [] else [0]))
  else if isWrite then .next (s.pmcWrite (addr - regBase) value) else .next (s.mgmtRead (addr - regBase))

end Sys2Proof.Machine
end

