-- ==== Sys2Proof/Machine/Dispatch.lean ====
section
/-! DEFINITION. The dispatch of commands: one arm per constructor, one direct call of its meaning. -/

namespace Sys2Proof.Machine

/-- The effect of a command on everything but the queue. -/
def exec (i : Instr) (s : State) : Host.Outcome State Fault Refusal :=
  match i with
  | .tokenInWrite cell value => Sys2Proof.Machine.execTokenInWrite cell value s
  | .ccbResetPlanned cell => Sys2Proof.Machine.execCcbResetPlanned cell s
  | .ccbResetFatal cell => Sys2Proof.Machine.execCcbResetFatal cell s
  | .ccbDoorbellWrite cell value => Sys2Proof.Machine.execCcbDoorbellWrite cell value s
  | .doorbellAccept cell => Sys2Proof.Machine.execDoorbellAccept cell s
  | .ccbFaultClear cell value => Sys2Proof.Machine.execCcbFaultClear cell value s
  | .registerWrite path addr width value => Sys2Proof.Machine.execRegisterWrite path addr width value s
  | .rtrTblDataWrite router value => Sys2Proof.Machine.execRtrTblDataWrite router value s
  | .rtrTblDataRead router => Sys2Proof.Machine.execRtrTblDataRead router s
  | .swapArm router frame16 => Sys2Proof.Machine.execSwapArm router frame16 s
  | .swapDisarm w => Sys2Proof.Machine.execSwapDisarm w s
  | .bankValidationDone router => Sys2Proof.Machine.execBankValidationDone router s
  | .mailboxDoorbell site mb => Sys2Proof.Machine.execMailboxDoorbell site mb s
  | .aringTailWrite site value => Sys2Proof.Machine.execAringTailWrite site value s
  | .cringHeadWrite site value => Sys2Proof.Machine.execCringHeadWrite site value s
  | .getInfo => Sys2Proof.Machine.execGetInfo s
  | .ringSetup => Sys2Proof.Machine.execRingSetup s
  | .eventMask => Sys2Proof.Machine.execEventMask s
  | .contactRead => Sys2Proof.Machine.execContactRead s
  | .statsRead => Sys2Proof.Machine.execStatsRead s
  | .frameConfig => Sys2Proof.Machine.execFrameConfig s
  | .cellConfig => Sys2Proof.Machine.execCellConfig s
  | .classSet => Sys2Proof.Machine.execClassSet s
  | .classGet => Sys2Proof.Machine.execClassGet s
  | .hallForm => Sys2Proof.Machine.execHallForm s
  | .hallLeave => Sys2Proof.Machine.execHallLeave s
  | .plateLoad => Sys2Proof.Machine.execPlateLoad s
  | .plateBind => Sys2Proof.Machine.execPlateBind s
  | .plateUnbind => Sys2Proof.Machine.execPlateUnbind s
  | .plateDelete => Sys2Proof.Machine.execPlateDelete s
  | .keyEnrol => Sys2Proof.Machine.execKeyEnrol s
  | .keyRevoke => Sys2Proof.Machine.execKeyRevoke s
  | .hostwinSet => Sys2Proof.Machine.execHostwinSet s
  | .resSplit => Sys2Proof.Machine.execResSplit s
  | .publish => Sys2Proof.Machine.execPublish s
  | .fabRebind => Sys2Proof.Machine.execFabRebind s
  | .ringRelease => Sys2Proof.Machine.execRingRelease s
  | .ringRejoin => Sys2Proof.Machine.execRingRejoin s
  | .hbmCopy => Sys2Proof.Machine.execHbmCopy s
  | .policySet => Sys2Proof.Machine.execPolicySet s
  | .cellForceDark => Sys2Proof.Machine.execCellForceDark s
  | .cellForceRelease => Sys2Proof.Machine.execCellForceRelease s
  | .cellForceRetire => Sys2Proof.Machine.execCellForceRetire s
  | .spareSet => Sys2Proof.Machine.execSpareSet s
  | .linkForceRetire => Sys2Proof.Machine.execLinkForceRetire s
  | .linkForceRetrain => Sys2Proof.Machine.execLinkForceRetrain s
  | .linkForceReturn => Sys2Proof.Machine.execLinkForceReturn s
  | .clockSet => Sys2Proof.Machine.execClockSet s
  | .marginSet => Sys2Proof.Machine.execMarginSet s
  | .powerLimit => Sys2Proof.Machine.execPowerLimit s
  | .fwUpdate => Sys2Proof.Machine.execFwUpdate s
  | .fwStatus => Sys2Proof.Machine.execFwStatus s
  | .meterReadLegal => Sys2Proof.Machine.execMeterReadLegal s
  | .meterReadInformative => Sys2Proof.Machine.execMeterReadInformative s
  | .jobTag => Sys2Proof.Machine.execJobTag s
  | .dmaGet core => Sys2Proof.Machine.execDmaGet core s
  | .dmaPut core => Sys2Proof.Machine.execDmaPut core s
  | .array core => Sys2Proof.Machine.execArray core s
  | .ve core => Sys2Proof.Machine.execVe core s
  | .strainerExact core => Sys2Proof.Machine.execStrainerExact core s
  | .strainerPredict core => Sys2Proof.Machine.execStrainerPredict core s
  | .strainerKeep core => Sys2Proof.Machine.execStrainerKeep core s
  | .semWait core => Sys2Proof.Machine.execSemWait core s
  | .semSignal core => Sys2Proof.Machine.execSemSignal core s
  | .slotPhase core => Sys2Proof.Machine.execSlotPhase core s
  | .notice core => Sys2Proof.Machine.execNotice core s
  | .mark core => Sys2Proof.Machine.execMark core s
  | .endDesc core => Sys2Proof.Machine.execEndDesc core s
  | .descStreamEnd core => Sys2Proof.Machine.execDescStreamEnd core s
  | .arrayIssueStart core => Sys2Proof.Machine.execArrayIssueStart core s
  | .weightSwap core => Sys2Proof.Machine.execWeightSwap core s
  | .arrayComplete core => Sys2Proof.Machine.execArrayComplete core s
  | .veRowsStart core => Sys2Proof.Machine.execVeRowsStart core s
  | .veRelease core => Sys2Proof.Machine.execVeRelease core s
  | .veComplete core => Sys2Proof.Machine.execVeComplete core s
  | .strainerBuildStart core => Sys2Proof.Machine.execStrainerBuildStart core s
  | .strainerComplete core => Sys2Proof.Machine.execStrainerComplete core s
  | .dmaComplete core slot cycle => Sys2Proof.Machine.execDmaComplete core slot cycle s
  | .endComplete core => Sys2Proof.Machine.execEndComplete core s
  | .semWaitPass core => Sys2Proof.Machine.execSemWaitPass core s
  | .pendingSignalSend core slot => Sys2Proof.Machine.execPendingSignalSend core slot s
  | .markEntryWrite core slot => Sys2Proof.Machine.execMarkEntryWrite core slot s
  | .shutterArm node frame count => Sys2Proof.Machine.execShutterArm node frame count s
  | .heartbeat node frame => Sys2Proof.Machine.execHeartbeat node frame s
  | .faultMessage cell faults => Sys2Proof.Machine.execFaultMessage cell faults s
  | .barrierArrival id core count time => Sys2Proof.Machine.execBarrierArrival id core count time s
  | .barrierRelease id core => Sys2Proof.Machine.execBarrierRelease id core s
  | .signalMessage core sem inc cycle late => Sys2Proof.Machine.execSignalMessage core sem inc cycle late s
  | .dmaAck core slot cycle => Sys2Proof.Machine.execDmaAck core slot cycle s
  | .dmaNak core slot status => Sys2Proof.Machine.execDmaNak core slot status s
  | .tokenMessage cell token sender => Sys2Proof.Machine.execTokenMessage cell token sender s
  | .noticeMessage core delta lead => Sys2Proof.Machine.execNoticeMessage core delta lead s
  | .mgmtMessage isWrite addr value => Sys2Proof.Machine.execMgmtMessage isWrite addr value s
  | .fwData core seq index words => Sys2Proof.Machine.execFwData core seq index words s
  | .fwEnd core seq length => Sys2Proof.Machine.execFwEnd core seq length s
  | .fwNack core indices => Sys2Proof.Machine.execFwNack core indices s
  | .fwAck core => Sys2Proof.Machine.execFwAck core s
  | .twinSwitch q link => Sys2Proof.Machine.execTwinSwitch q link s
  | .beatForward router cycle => Sys2Proof.Machine.execBeatForward router cycle s
  | .putWrite dest => Sys2Proof.Machine.execPutWrite dest s
  | .getRequest responder => Sys2Proof.Machine.execGetRequest responder s
  | .phaseSwitch router => Sys2Proof.Machine.execPhaseSwitch router s
  | .shutter => Sys2Proof.Machine.execShutter s
  | .goSend w => Sys2Proof.Machine.execGoSend w s
  | .developDeadline => Sys2Proof.Machine.execDevelopDeadline s
  | .extensionLimit => Sys2Proof.Machine.execExtensionLimit s
  | .stopBath => Sys2Proof.Machine.execStopBath s
  | .drainClose => Sys2Proof.Machine.execDrainClose s
  | .heartbeatCheck => Sys2Proof.Machine.execHeartbeatCheck s
  | .shutterArmTimeout node => Sys2Proof.Machine.execShutterArmTimeout node s
  | .quadrantMissLimit q => Sys2Proof.Machine.execQuadrantMissLimit q s
  | .hallShutter rx frame count times sendDelta corr => Sys2Proof.Machine.execHallShutter rx frame count times sendDelta corr s
  | .hallMasterLoss => Sys2Proof.Machine.execHallMasterLoss s
  | .hallFreeRun => Sys2Proof.Machine.execHallFreeRun s
  | .portTrained port mode rtt => Sys2Proof.Machine.execPortTrained port mode rtt s
  | .portDown port => Sys2Proof.Machine.execPortDown port s
  | .loopbackDone port pass => Sys2Proof.Machine.execLoopbackDone port pass s
  | .spanRetrainTimer port => Sys2Proof.Machine.execSpanRetrainTimer port s
  | .portPeriodicRetrain port => Sys2Proof.Machine.execPortPeriodicRetrain port s
  | .trainSend port => Sys2Proof.Machine.execTrainSend port s
  | .fabPut port t => Sys2Proof.Machine.execFabPut port t s
  | .getReq port t => Sys2Proof.Machine.execGetReq port t s
  | .getResp port t => Sys2Proof.Machine.execGetResp port t s
  | .fillReq port t => Sys2Proof.Machine.execFillReq port t s
  | .fillResp port t => Sys2Proof.Machine.execFillResp port t s
  | .nakResp port t => Sys2Proof.Machine.execNakResp port t s
  | .credit rx credits ackSeq nak => Sys2Proof.Machine.execCredit rx credits ackSeq nak s
  | .expressBarrier rx id src arrivals => Sys2Proof.Machine.execExpressBarrier rx id src arrivals s
  | .expressRelease rx release => Sys2Proof.Machine.execExpressRelease rx release s
  | .ident rx body => Sys2Proof.Machine.execIdent rx body s
  | .leave rx panel frame => Sys2Proof.Machine.execLeave rx panel frame s
  | .probe port ids x => Sys2Proof.Machine.execProbe port ids x s
  | .probeTimeout ring => Sys2Proof.Machine.execProbeTimeout ring s
  | .fwFlit rx src head words => Sys2Proof.Machine.execFwFlit rx src head words s
  | .remoteFetchTimeout xid => Sys2Proof.Machine.execRemoteFetchTimeout xid s
  | .lateTrainDiscard port xid => Sys2Proof.Machine.execLateTrainDiscard port xid s
  | .refreshSlot stack => Sys2Proof.Machine.execRefreshSlot stack s
  | .hbmTempDeadline stack => Sys2Proof.Machine.execHbmTempDeadline stack s
  | .maintenanceStep stack => Sys2Proof.Machine.execMaintenanceStep stack s
  | .maintenanceStepDone stack pass => Sys2Proof.Machine.execMaintenanceStepDone stack pass s
  | .hbmCopyDone => Sys2Proof.Machine.execHbmCopyDone s
  | .cxlMemAccess site isWrite offset len data => Sys2Proof.Machine.execCxlMemAccess site isWrite offset len data s
  | .inputValid inp => Sys2Proof.Machine.execInputValid inp s
  | .inputInvalid inp => Sys2Proof.Machine.execInputInvalid inp s
  | .inputOvercurrent inp => Sys2Proof.Machine.execInputOvercurrent inp s
  | .mainReturn => Sys2Proof.Machine.execMainReturn s
  | .inputReconnect inp => Sys2Proof.Machine.execInputReconnect inp s
  | .powerFailure bulk => Sys2Proof.Machine.execPowerFailure bulk s
  | .converterFail tile side => Sys2Proof.Machine.execConverterFail tile side s
  | .phaseShed q phase => Sys2Proof.Machine.execPhaseShed q phase s
  | .quadrantOvercurrentStop q => Sys2Proof.Machine.execQuadrantOvercurrentStop q s
  | .unannouncedStep q => Sys2Proof.Machine.execUnannouncedStep q s
  | .vcoreDroop q => Sys2Proof.Machine.execVcoreDroop q s
  | .stretchWithdraw q => Sys2Proof.Machine.execStretchWithdraw q s
  | .stretchEnd => Sys2Proof.Machine.execStretchEnd s
  | .stretchLimit => Sys2Proof.Machine.execStretchLimit s
  | .quadrantRamp q => Sys2Proof.Machine.execQuadrantRamp q s
  | .rampStep q pMeas draws => Sys2Proof.Machine.execRampStep q pMeas draws s
  | .efuseTrip q => Sys2Proof.Machine.execEfuseTrip q s
  | .efuseProbe q pass => Sys2Proof.Machine.execEfuseProbe q pass s
  | .hostSiteRailOff site => Sys2Proof.Machine.execHostSiteRailOff site s
  | .referenceLoss r => Sys2Proof.Machine.execReferenceLoss r s
  | .referenceReturn r => Sys2Proof.Machine.execReferenceReturn r s
  | .lossOfLock q => Sys2Proof.Machine.execLossOfLock q s
  | .dieClockLoss die => Sys2Proof.Machine.execDieClockLoss die s
  | .dieUngate die => Sys2Proof.Machine.execDieUngate die s
  | .dieSelfTestDone die pass => Sys2Proof.Machine.execDieSelfTestDone die pass s
  | .sensorSample samples => Sys2Proof.Machine.execSensorSample samples s
  | .fanfailChange fan asserted => Sys2Proof.Machine.execFanfailChange fan asserted s
  | .fanfailHoldTimer => Sys2Proof.Machine.execFanfailHoldTimer s
  | .inletHoldTimer => Sys2Proof.Machine.execInletHoldTimer s
  | .thermalResistanceTick => Sys2Proof.Machine.execThermalResistanceTick s
  | .thermalFlashWrite => Sys2Proof.Machine.execThermalFlashWrite s
  | .holdExit => Sys2Proof.Machine.execHoldExit s
  | .bracketing q m0 m1 m2 failed => Sys2Proof.Machine.execBracketing q m0 m1 m2 failed s
  | .marginReplan q cause monitor => Sys2Proof.Machine.execMarginReplan q cause monitor s
  | .ageingStore => Sys2Proof.Machine.execAgeingStore s
  | .lockstepMismatch => Sys2Proof.Machine.execLockstepMismatch s
  | .commandDeadlineExpiry => Sys2Proof.Machine.execCommandDeadlineExpiry s
  | .pmcRestartDone => Sys2Proof.Machine.execPmcRestartDone s
  | .bindInstallDeadline w => Sys2Proof.Machine.execBindInstallDeadline w s
  | .residentLoadFail w position => Sys2Proof.Machine.execResidentLoadFail w position s
  | .detourCompute => Sys2Proof.Machine.execDetourCompute s
  | .linkRetrain tile link dir group => Sys2Proof.Machine.execLinkRetrain tile link dir group s
  | .linkRetrainDone tile link dir pass => Sys2Proof.Machine.execLinkRetrainDone tile link dir pass s
  | .moduleTrained site module mode => Sys2Proof.Machine.execModuleTrained site module mode s
  | .siteRetrain site => Sys2Proof.Machine.execSiteRetrain site s
  | .coldStart fuseBad => Sys2Proof.Machine.execColdStart fuseBad s
  | .memoryTestDone results => Sys2Proof.Machine.execMemoryTestDone results s
  | .coreTestDone failed => Sys2Proof.Machine.execCoreTestDone failed s
  | .warmSelfTestDone core pass => Sys2Proof.Machine.execWarmSelfTestDone core pass s
  | .resetReq heldMs => Sys2Proof.Machine.execResetReq heldMs s
  | .recoveryImage bank image => Sys2Proof.Machine.execRecoveryImage bank image s
  | .getVersion site => Sys2Proof.Machine.execGetVersion site s
  | .getCapabilities site => Sys2Proof.Machine.execGetCapabilities site s
  | .negotiateAlgorithms site baseAsym baseHash measHash => Sys2Proof.Machine.execNegotiateAlgorithms site baseAsym baseHash measHash s
  | .getDigests site => Sys2Proof.Machine.execGetDigests site s
  | .getCertificate site slot offset length => Sys2Proof.Machine.execGetCertificate site slot offset length s
  | .challenge site slot nonce => Sys2Proof.Machine.execChallenge site slot nonce s
  | .getMeasurements site index sign nonce => Sys2Proof.Machine.execGetMeasurements site index sign nonce s
  | .signTranscript site word0 => Sys2Proof.Machine.execSignTranscript site word0 s
  | .getPublic site word0 => Sys2Proof.Machine.execGetPublic site word0 s
  | .spdmUnsupported site code => Sys2Proof.Machine.execSpdmUnsupported site code s
  | .getSensorReading id => Sys2Proof.Machine.execGetSensorReading id s
  | .getStateSensorReadings id => Sys2Proof.Machine.execGetStateSensorReadings id s
  | .getPdr record => Sys2Proof.Machine.execGetPdr record s
  | .snapshot words => Sys2Proof.Machine.execSnapshot words s
  | .intervalClose second eMain eBackup => Sys2Proof.Machine.execIntervalClose second eMain eBackup s
  | .leverBypass second eMain eBackup => Sys2Proof.Machine.execLeverBypass second eMain eBackup s
  | .leverMeter second => Sys2Proof.Machine.execLeverMeter second s
  | .cartridgeSwap inserted => Sys2Proof.Machine.execCartridgeSwap inserted s
  | .cartridgePowerLoss second eMain eBackup => Sys2Proof.Machine.execCartridgePowerLoss second eMain eBackup s
  | .statusFrame crcOk state seconds eTotal => Sys2Proof.Machine.execStatusFrame crcOk state seconds eTotal s
  | .legalFrame crcOk words => Sys2Proof.Machine.execLegalFrame crcOk words s
  | .linesFrame crcOk seq lines => Sys2Proof.Machine.execLinesFrame crcOk seq lines s
  | .certsFrame crcOk chain => Sys2Proof.Machine.execCertsFrame crcOk chain s
  | .statusTimeout => Sys2Proof.Machine.execStatusTimeout s
  | .sidebandVidMessage site millivolt => Sys2Proof.Machine.execSidebandVidMessage site millivolt s
  | .junctionReport site temp => Sys2Proof.Machine.execJunctionReport site temp s
  | .oscillatorRelock q => Sys2Proof.Machine.execOscillatorRelock q s
  | .cartridgePowerUp second => Sys2Proof.Machine.execCartridgePowerUp second s
  | .vfabTFeedTrip tile side => Sys2Proof.Machine.execVfabTFeedTrip tile side s

end Sys2Proof.Machine
end

