-- ==== Sys2Proof/Machine/Upsets.lean ====
section
/-! DEFINITION. Bit errors (R97, R119, R160, R200, R256): where the hardware may upset a bit, an idle step may. Which, if any, is free:
DESIGN CHOICE, log entry 22. What an error does is the readers' rules. -/

namespace Sys2Proof.Machine

/-- A word of memory, by its index, takes an error, where it has none. -/
def State.plantWord (s : State) (w : Nat) (double : Bool) : State :=
  if s.flips.any fun e => e.1 = w then s else { s with flips := s.flips ++ [(w, double)] }

/-- An element of a list of elements takes an error, where it has none. -/
def plantIn (l : List (Nat × Bool × Bool)) (i : Nat) (double : Bool) : List (Nat × Bool × Bool) :=
  if l.any fun e => e.1 = i then l else l ++ [(i, double, false)]

/-- One error, or none: `kind` names the store, `u` its unit, `i` the place in it. -/
def State.upset (s : State) (kind u i : Nat) (double : Bool) : State :=
  let n := u % 576
  let h := u % 48
  match kind with
  | 1 => s.plantWord (scratchAddr n 0 / 32 + i % 524288) double
  | 2 => s.plantWord (stackAddr h 0 / 32 + i % (stackSize / 32)) double
  | 3 => s.plantWord (winBase h / 32 + i % 0x400000) double
  | 4 => s.modCore n fun c => { c with arr := { c.arr with flips := plantIn c.arr.flips (i % 65536) double } }
  | 5 => s.modCore n fun c => { c with ve := { c.ve with flips := plantIn c.ve.flips (i % 49152) double } }
  | 6 => s.modCore n fun c => { c with arr := if double then { c.arr with buf1 := { c.arr.buf1 with upset := true } }
      else { c.arr with buf0 := { c.arr.buf0 with upset := true } } }
  | 7 =>
    let t := u % 24
    let e := i % 20
    let lane := i / 20 % 88
    if linkFitted t (e / 2) && (s.getLink t (e / 2) (e % 2)).carriers.contains (lane / 8) then
      s.modLink t (e / 2) (e % 2) fun l => { l with upset := nadd l.upset lane }
    else s
  | 8 => if 2 ≤ (s.getStack h).state then s.countStack h 0x2C 1 else s
  | _ => s

/-- What an idle step may upset. -/
def State.plant (s : State) : State :=
  let a := s.choose 150 16
  let b := a.2.choose 151 576
  let c := b.2.choose 152 0x80000000
  let d := c.2.choose 153 2
  d.2.upset a.1 b.1 c.1 (d.1 = 1)

end Sys2Proof.Machine
end

