-- ==== Sys2Proof/Machine/Step.lean ====
section
/-! DEFINITION. One step: the command at the front of the queue runs on the state with the queue's rest; on an empty
queue one tick of the panel timebase passes. -/

namespace Sys2Proof.Machine

/-- Idle: the panel timebase counts one tick of 1.25 GHz (R48), and one bit error may strike. DESIGN CHOICE, log entries 2 and 22. -/
def State.tick (s : State) : State := (s.modPmc fun p => { p with timebase := p.timebase + 1 }).fireVectors.plant

/-- One step. -/
def step (s : State) : Host.Outcome State Fault Refusal :=
  match s.pending with
  | [] => .next s.tick
  | c :: rest => exec c { s with pending := rest }

/-- The state with the command that a word spells at the front of the queue. -/
def State.withFetchWord (s : State) (nbits w : Nat) : State :=
  match decodeTableWord nbits w with
  | some c => { s with pending := c :: s.pending }
  | none => s

end Sys2Proof.Machine
end

