-- ==== Sys2Proof/Safety.lean ====
section
/-! DEFINITION. What counts as a safe run, in the terms claims use. -/

namespace Sys2Proof.Machine

/-- The invariant of memory: its list is in canonical form. -/
def State.MemInv (s : State) : Prop := Memory.wf s.mem = true

/-- A step answers a next state: it neither faults nor refuses. -/
def Goes (s : State) : Prop := ∃ t, step s = .next t

/-- `s` reaches `t` in some number of steps. -/
inductive Reaches : State → State → Prop
  | refl (s : State) : Reaches s s
  | step (s t u : State) : Reaches s t → Machine.step t = .next u → Reaches s u

/-! ### The words of the statements -/

/-- The parts of the state, one for each field of State. -/
inductive Part where
  | pmc | core | rtr | quad | tile | stack | port | ring | fab | site | mesh | pwr | clk | thm | hlt | boot | sec | mtr
  | pins | mem | poison | flips | undef | resp | fresh | pending
  deriving DecidableEq, Repr

/-- A part is the same in two states. -/
def Part.same : Part → State → State → Prop
  | .pmc, s, t => t.pmc = s.pmc
  | .core, s, t => t.core = s.core
  | .rtr, s, t => t.rtr = s.rtr
  | .quad, s, t => t.quad = s.quad
  | .tile, s, t => t.tile = s.tile
  | .stack, s, t => t.stack = s.stack
  | .port, s, t => t.port = s.port
  | .ring, s, t => t.ring = s.ring
  | .fab, s, t => t.fab = s.fab
  | .site, s, t => t.site = s.site
  | .mesh, s, t => t.mesh = s.mesh
  | .pwr, s, t => t.pwr = s.pwr
  | .clk, s, t => t.clk = s.clk
  | .thm, s, t => t.thm = s.thm
  | .hlt, s, t => t.hlt = s.hlt
  | .boot, s, t => t.boot = s.boot
  | .sec, s, t => t.sec = s.sec
  | .mtr, s, t => t.mtr = s.mtr
  | .pins, s, t => t.pins = s.pins
  | .mem, s, t => t.mem = s.mem
  | .poison, s, t => t.poison = s.poison
  | .flips, s, t => t.flips = s.flips
  | .undef, s, t => t.undef = s.undef
  | .resp, s, t => t.resp = s.resp
  | .fresh, s, t => t.fresh = s.fresh
  | .pending, s, t => t.pending = s.pending

/-- `t` differs from `s` in the parts named, at most: every register, buffer and byte of memory elsewhere is as it was. -/
def Only (ps : List Part) (s t : State) : Prop := ∀ p, p ∉ ps → p.same s t

/-- No other core than `n` changes. -/
def OtherCores (n : Nat) (s t : State) : Prop := ∀ m, m ≠ n → t.getCore m = s.getCore m

/-- The command answers a next state of which `P` holds. -/
def Ends (i : Instr) (s : State) (P : State → Prop) : Prop := ∃ t, exec i s = .next t ∧ P t

/-- No VE descriptor of a core is between its row pairs: a stop of the core lets none issue first (R78, R126). -/
def VeIdle (c : Core) : Prop := c.ve.queue.find? veRuns = none

/-- One event went out: R328's words, to the platform's queue (R416). -/
def Told (s t : State) (code : Nat) (subject : W32) (d6 d7 : Nat) : Prop :=
  t.pins.pldm = s.pins.pldm ++ [ringEntry 2 0 0 0 0 code subject.toNat s.pmc.frame 0 d6 d7 0 0 0]

/-! ### Vilsal commands (R311 to R319): what their statements share -/

/-- R316: OPCODE, which variant of it the row is, ARG_LEN, and the bits of each argument word that R316 defines (the
rest are reserved: log entry 54). -/
def mailboxForm : Instr → Option (Nat × (Cmd → Bool) × (Cmd → Nat) × List Nat)
  | .getInfo => some (0x01, fun _ => true, fun _ => 0, [])
  | .ringSetup => some (0x02, fun _ => true, fun _ => 24, [fullWord, fullWord, 0x1F, fullWord, fullWord, 0x1F])
  | .eventMask => some (0x03, fun _ => true, fun _ => 4, [fullWord])
  | .contactRead => some (0x04, fun _ => true, fun _ => 8, [fullWord, fullWord])
  | .statsRead => some (0x05, fun _ => true, fun _ => 12, [fullWord, fullWord, fullWord])
  | .frameConfig => some (0x10, fun _ => true, fun _ => 16, [fullWord, 0xFFFF7FFF, fullWord, fullWord])
  | .cellConfig => some (0x11, fun _ => true, fun _ => 24, [0x7F, fullWord, fullWord, fullWord, fullWord, fullWord])
  | .classSet => some (0x12, fun _ => true, fun _ => 20, [0x77F, fullWord, 0x7FF, fullWord, fullWord])
  | .classGet => some (0x13, fun _ => true, fun _ => 4, [fullWord])
  | .hallForm => some (0x14, fun _ => true, fun c => 16 + 4 * ((c.w 1 % 2048 + 1) / 2), [0x3FF, 0x7FF, fullWord, fullWord])
  | .hallLeave => some (0x15, fun _ => true, fun _ => 12, [0x3FF, fullWord, fullWord])
  | .plateLoad => some (0x20, fun _ => true, fun _ => 16, [fullWord, fullWord, fullWord, fullWord])
  | .plateBind => some (0x21, fun _ => true, fun _ => 12, [0xF7F, fullWord, fullWord])
  | .plateUnbind => some (0x22, fun _ => true, fun _ => 12, [fullWord, fullWord, fullWord])
  | .plateDelete => some (0x23, fun _ => true, fun _ => 4, [0xF])
  | .keyEnrol => some (0x24, fun _ => true,
      fun c => if c.w 1 = 2176 ∨ c.w 1 = 2816 then 8 + c.w 1 else c.argLen + 1, [3, fullWord])
  | .keyRevoke => some (0x25, fun _ => true, fun _ => 4, [3])
  | .hostwinSet => some (0x30, fun _ => true, fun _ => 4, [0x7700])
  | .resSplit => some (0x31, fun _ => true, fun _ => 12, [0xFFF, fullWord, fullWord])
  | .publish => some (0x32, fun _ => true, fun _ => 28,
      [fullWord, fullWord, fullWord, fullWord, 0xFFFF, fullWord, fullWord])
  | .fabRebind => some (0x33, fun _ => true, fun _ => 16, [0xFFF, fullWord, fullWord, fullWord])
  | .ringRelease => some (0x34, fun c => bitOf (c.w 0) 8, fun _ => 12, [0x10F, fullWord, fullWord])
  | .ringRejoin => some (0x34, fun c => !bitOf (c.w 0) 8, fun _ => 12, [0x10F, fullWord, fullWord])
  | .hbmCopy => some (0x35, fun _ => true, fun _ => 24, [fullWord, fullWord, fullWord, fullWord, fullWord, fullWord])
  | .policySet => some (0x40, fun _ => true, fun _ => 4, [0x10F])
  | .cellForceDark => some (0x41, fun c => c.w 1 % 4 = 0 || c.w 1 % 4 = 3, fun _ => 16, [fullWord, 3, fullWord, fullWord])
  | .cellForceRelease => some (0x41, fun c => c.w 1 % 4 = 1, fun _ => 16, [fullWord, 3, fullWord, fullWord])
  | .cellForceRetire => some (0x41, fun c => c.w 1 % 4 = 2, fun _ => 16, [fullWord, 3, fullWord, fullWord])
  | .spareSet => some (0x42, fun _ => true, fun _ => 16, [0x3FF, 0x3FF, fullWord, fullWord])
  | .linkForceRetire => some (0x43, fun c => bits (c.w 0) 13 2 = 0 || bits (c.w 0) 13 2 = 3, fun _ => 16,
      [0x7FF0, 0x1F, fullWord, fullWord])
  | .linkForceRetrain => some (0x43, fun c => bits (c.w 0) 13 2 = 1, fun _ => 16, [0x7FF0, 0x1F, fullWord, fullWord])
  | .linkForceReturn => some (0x43, fun c => bits (c.w 0) 13 2 = 2, fun _ => 16, [0x7FF0, 0x1F, fullWord, fullWord])
  | .clockSet => some (0x44, fun _ => true, fun _ => 12, [0x1F7F, fullWord, fullWord])
  | .marginSet => some (0x45, fun _ => true, fun _ => 16, [0x7F, fullWord, fullWord, fullWord])
  | .powerLimit => some (0x46, fun _ => true, fun _ => 4, [fullWord])
  | .fwUpdate => some (0x50, fun _ => true, fun _ => 24, [3, fullWord, fullWord, fullWord, fullWord, fullWord])
  | .fwStatus => some (0x51, fun _ => true, fun _ => 0, [])
  | .meterReadLegal => some (0x52, fun c => c.w 0 % 2 = 0, fun _ => 12, [1, fullWord, fullWord])
  | .meterReadInformative => some (0x52, fun c => c.w 0 % 2 = 1, fun _ => 12, [1, fullWord, fullWord])
  | .jobTag => some (0x53, fun _ => true, fun _ => 16, [fullWord, fullWord, fullWord, fullWord])
  | _ => none

/-- `c` is the command at the head of the PMC's queue, and it is the row `i`; the PMC runs, and no HBM_COPY does. -/
def Heads (i : Instr) (s : State) (c : Cmd) : Prop :=
  ∃ form, mailboxForm i = some form ∧ (∃ g m rest, s.pmc.cmds = (g, m) :: rest ∧ c = s.cmdAt g m) ∧ c.op = form.1 ∧
    form.2.1 c = true ∧ s.pmc.restarting = false ∧ s.pmc.copy = none

/-- The same, with the length that R316 gives it, in a state of the site that allows it (R309), and with every reserved bit
zero (R9). -/
def Accepted (i : Instr) (s : State) (c : Cmd) : Prop :=
  Heads i s c ∧ (∀ form, mailboxForm i = some form → c.argLen = form.2.2.1 c ∧ c.argsOk form.2.2.2 = true) ∧
    s.allows c = true ∧ c.headOk = true

/-- R312, R313: the mailbox holds the answer: OWNER DONE, RES_LEN, STATUS, ACCEPT_FRAME and the result. -/
def Reply (s t : State) (c : Cmd) (st : Nat) (res : List W32) : Prop :=
  let b := (t.getSite c.site).box c.mb
  b.owner = 2 ∧ b.word 3 = BitVec.ofNat 32 (4 * res.length % 8192) ∧ b.word 4 = BitVec.ofNat 32 (st % 65536) ∧
    b.word 6 = s.pmc.frame.setWidth 32 ∧ b.word 7 = (s.pmc.frame >>> 32).setWidth 32 ∧
    ∀ k, k < res.length → b.word (16 + k) = res.getD k 0

/-- `t` is `u` but for mailboxes, their interrupts, the PMC's queue of commands and the last access's completion. -/
def MailboxOnly (u t : State) : Prop :=
  Only [.pmc, .site, .resp] u t ∧ t.pmc = { u.pmc with cmds := t.pmc.cmds } ∧
    ∀ g, t.getSite g = { u.getSite g with mbox := (t.getSite g).mbox, msix := (t.getSite g).msix }

/-- The command completes with a status and a result, and with the effect that takes `s` to `u`. -/
def Finishes (i : Instr) (s : State) (c : Cmd) (st : Nat) (res : List W32) (u : State) : Prop :=
  Ends i s fun t => Reply s t c st res ∧ MailboxOnly u t

/-- The override takes effect at frame `f` (R316). -/
def State.withOverrides (s : State) (l : List Override) (f : W64) : State :=
  { s with pmc := { s.pmc with overrides := s.pmc.overrides ++ l.map fun o => (o, f) } }

/-- A target frame at least two frames ahead (R315). -/
def State.inTime (s : State) (f : W64) : Prop := s.pmc.frame.toNat + 2 ≤ f.toNat

end Sys2Proof.Machine
end

