-- ==== Sys2Proof/Certificates/Slice0/Obligations.lean ====
section
/-! DEFINITION. The statements for the provers, family by family. -/

open Sys2Proof Sys2Proof.Machine


/-- Log entry 1: a step takes the front command and runs it on the state with the queue's rest; on an empty queue one
tick of the timebase passes: a vector that is due may fire (R311), and one bit error may strike (log entries 2, 22). -/
def Obligations.StepRunsFrontCommand : Prop :=
  (∀ (c : Instr) (s : State), step { s with pending := c :: s.pending } = exec c s) ∧
    ∀ s : State, s.pending = [] → ∃ t, step s = .next t ∧
      t.pmc = { s.pmc with timebase := s.pmc.timebase + 1 } ∧
      Only [.pmc, .site, .core, .tile, .stack, .flips, .fresh] s t ∧
      (∀ g, (s.getSite g).msixDue = false → t.getSite g = s.getSite g) ∧ (∀ e, e ∈ s.flips → e ∈ t.flips) ∧
      ∀ n, (t.getCore n).ccb = (s.getCore n).ccb ∧ (t.getCore n).seq = (s.getCore n).seq ∧
        (t.getCore n).scr = (s.getCore n).scr

/-! ### Cells (R23 to R43, R405 to R407) -/

/-- R35, R36: a token written to CCB_TOKEN_IN of a core. In RESETTING the core answers RESET_NAK in its TOKEN_OUT; an
unused KIND or a reserved bit is refused; else the token is queued, and at a full queue discarded with OVF and
TOKEN_OVF. -/
def Sys2Proof.Claims.TokenWriteToCore : Prop :=
  ∀ (n : Nat) (v : W32) (s : State), n < 576 →
    let c := s.getCore n
    let bad := 6 ≤ bits v.toNat 28 4 ∨ bits v.toNat 24 4 ≠ 0
    Ends (.tokenInWrite (.core n) v) s fun t =>
      Only [.core, .pmc, .resp] s t ∧ OtherCores n s t ∧
      (c.ccb.state = .resetting → t.pmc = s.pmc ∧ t.resp.status = 0x1001 ∧
        t.getCore n = { c with ccb := { c.ccb with tokenOut := token 4 n } }) ∧
      (c.ccb.state ≠ .resetting → bad → t = { s with resp := { status := 0x0002 } }) ∧
      (c.ccb.state ≠ .resetting → ¬ bad → c.ccb.inport.length < 16 → t.pmc = s.pmc ∧ t.resp.status = 0 ∧
        t.getCore n = { c with ccb := { c.ccb with inport := c.ccb.inport ++ [v] } }) ∧
      (c.ccb.state ≠ .resetting → ¬ bad → 16 ≤ c.ccb.inport.length → t.resp.status = 0 ∧
        (t.getCore n).ccb.inport = c.ccb.inport ∧ (t.getCore n).ccb.ovf = min (c.ccb.ovf + 1) 255 ∧
        (t.getCore n).ccb.fault = c.ccb.fault ||| 0x4000#16 ∧
        (c.ccb.state = .ready ∨ c.ccb.state = .running → (t.getCore n).ccb.state = .faulted))

/-- R40: a token written to a composite goes to the core that its head members lead to. -/
def Sys2Proof.Claims.TokenWriteToComposite : Prop :=
  ∀ (cell : CellId) (n : Nat) (v : W32) (s : State), cellOk cell = true → s.head cell = some n → n < 576 →
    exec (.tokenInWrite cell v) s =
      if s.configured cell then exec (.tokenInWrite (.core n) v) s else .next { s with resp := { status := 0x0101 } }

/-- R36, R35, R212: a token message that is under way reaches a core from a core, is under way no more, and one that comes late counts
at the core's quadrant node. In RESETTING the RESET_NAK goes to the sender's in-port, and the
token is discarded. -/
def Sys2Proof.Claims.TokenMessageToCore : Prop :=
  ∀ (n m k : Nat) (v : W32) (late : Bool) (s : State), n < 576 → m < 576 →
    s.mesh.net.findIdx? (fun x => x.type = 7 && x.src = coreQuad m && x.body = [s.ccbId (.core n), v]) = some k →
    let c := s.getCore n
    let d := s.getCore m
    let bad := 6 ≤ bits v.toNat 28 4 ∨ bits v.toNat 24 4 ≠ 0
    let u := { s with mesh := { s.mesh with net := s.mesh.net.eraseIdx k } }
    Ends (.tokenMessage (.core n) v ⟨.core m, late⟩) s fun t =>
      Only [.core, .pmc, .mesh, .quad] s t ∧ t.mesh = u.mesh ∧ (∀ k, k ≠ n → k ≠ m → t.getCore k = s.getCore k) ∧
      (late = false → t.quad = s.quad) ∧
      (late = true → t.quad = (s.setQuad (coreQuad n) { s.getQuad (coreQuad n) with
        ctlLate := min ((s.getQuad (coreQuad n)).ctlLate + 1) 65535 }).quad) ∧
      (c.ccb.state = .resetting → d.ccb.state ≠ .resetting → d.ccb.inport.length < 16 →
        t.getCore m = { d with ccb := { d.ccb with inport := d.ccb.inport ++ [token 4 n] } } ∧
        ∀ k, k ≠ m → t.getCore k = s.getCore k) ∧
      (c.ccb.state ≠ .resetting → bad → t.core = s.core) ∧
      (c.ccb.state ≠ .resetting → ¬ bad → c.ccb.inport.length < 16 → OtherCores n s t ∧
        t.getCore n = { c with ccb := { c.ccb with inport := c.ccb.inport ++ [v] } }) ∧
      (c.ccb.state ≠ .resetting → ¬ bad → 16 ≤ c.ccb.inport.length →
        (t.getCore n).ccb.inport = c.ccb.inport ∧ (t.getCore n).ccb.ovf = min (c.ccb.ovf + 1) 255 ∧
        (t.getCore n).ccb.fault = c.ccb.fault ||| 0x4000#16)

/-- R37, R405: a planned reset of a core waits for the Stop Bath; a core in RESETTING or with one pending stays as it
is. -/
def Sys2Proof.Claims.PlannedReset : Prop :=
  ∀ (n : Nat) (s : State), n < 576 →
    let c := s.getCore n
    Ends (.ccbResetPlanned (.core n)) s fun t =>
      Only [.core, .resp] s t ∧ OtherCores n s t ∧ t.resp.status = 0 ∧
      (c.ccb.state = .resetting ∨ c.ccb.resetPending = true → t.getCore n = c) ∧
      (c.ccb.state ≠ .resetting → t.getCore n = { c with ccb := { c.ccb with resetPending := true } })

/-- R406, R78: a fatal reset of a core acts at once: RESETTING, RESET set, its queues empty, a pending planned reset gone, and
its beats in flight marked poisoned. Row pairs that the vector engine has issued before it act first (R126), and may find errors. -/
def Sys2Proof.Claims.FatalReset : Prop :=
  ∀ (n : Nat) (s : State), n < 576 →
    let c := s.getCore n
    Ends (.ccbResetFatal (.core n)) s fun t =>
      let d := t.getCore n
      Only [.core, .pmc, .mesh, .stack, .fresh, .resp] s t ∧ t.resp.status = 0 ∧
      (VeIdle c → Only [.core, .pmc, .mesh, .resp] s t ∧ OtherCores n s t ∧ d.ccb.fault = c.ccb.fault ||| 1#16) ∧
      d.ccb.state = .resetting ∧ (∃ x, d.ccb.fault = c.ccb.fault ||| x ||| 1#16) ∧ d.ccb.resetPending = false ∧
      d.arr.queue = [] ∧ d.ve.queue = [] ∧ d.str.queue = [] ∧ d.seq.pend = [] ∧ d.seq.state = .stopped ∧
      t.mesh.flights = s.mesh.flights.map (fun f =>
        if f.issuer = some n then { f with beat := { f.beat with poison := 15 } } else f) ∧
      t.mesh = { s.mesh with flights := t.mesh.flights }

/-- R38, R43, R407: a doorbell write to a core or composite: refused while one is pending, else PENDING and the
COOKIE. -/
def Sys2Proof.Claims.DoorbellWrite : Prop :=
  ∀ (cell : CellId) (v : W32) (s : State), cellOk cell = true →
    Ends (.ccbDoorbellWrite cell v) s fun t =>
      (s.configured cell = false → t = { s with resp := { status := 0x0101 } }) ∧
      (s.configured cell = true → (s.view cell).state = .resetting → t = { s with resp := { status := 0x1001 } }) ∧
      (s.configured cell = true → (s.view cell).state ≠ .resetting → (s.ccbOf cell).dbPending = true →
        t = { s with resp := { status := 0x0102 } }) ∧
      (s.configured cell = true → (s.view cell).state ≠ .resetting → (s.ccbOf cell).dbPending = false →
        t.resp.status = 0 ∧ Only [.core, .pmc, .resp] s t ∧
        t.ccbOf cell = { s.ccbOf cell with dbPending := true, cookie := v.setWidth 24 })

/-- R38, R320, R322, R328: the doorbell handler tells the DOORBELL event, which carries the cell's CCB_ID and COOKIE, and returns
PENDING to 0. A site that masks the event, or is OFF or ABSENT, keeps its registers; one without a free entry, or not FULL, counts it as
dropped; any other takes it at TAIL. -/
def Sys2Proof.Claims.DoorbellAccept : Prop :=
  ∀ (cell : CellId) (s : State), cellOk cell = true → (s.ccbOf cell).dbPending = true → s.pmc.restarting = false →
    Ends (.doorbellAccept cell) s fun t =>
      t.ccbOf cell = { s.ccbOf cell with dbPending := false } ∧
      Only [.core, .pmc, .pins, .site, .mem, .poison, .undef, .flips, .stack] s t ∧
      (∀ d, cellOk d = true → d ≠ cell → t.ccbOf d = s.ccbOf d) ∧ t.pmc = { s.pmc with comp := t.pmc.comp } ∧
      (∀ n, t.getCore n = { s.getCore n with ccb := (t.getCore n).ccb }) ∧
      Told s t 11 (s.ccbId cell) (s.ccbOf cell).cookie.toNat 0 ∧
      ∀ g, g < 2 →
        let x := s.getSite g
        let y := t.getSite g
        let size := 2 ^ x.cLog
        let free := if x.ringsSet then size - 1 - (x.cTail + size - x.cHead) % size else 0
        let quiet := s.pmc.mask.getLsbD 11 = false ∨ x.state = 0 ∨ x.state = 5
        let room := free ≠ 0 ∧ x.state = 3
        let addr := x.cOff + 64 * x.cTail
        let entry := (ringEntry 2 0 0 0 0 11 (s.ccbId cell).toNat s.pmc.frame 0 (s.ccbOf cell).cookie.toNat 0 0 0 0).zipIdx.map
          fun e => if e.2 = 0 ∧ x.cPhase = true then e.1 ||| 0x80000000 else e.1
        (quiet → y = x) ∧
        (¬ quiet → ¬ room → y = { x with dropEvt := min (x.dropEvt + 1) 0x7FF }) ∧
        (¬ quiet → room → y = { x with
            cTail := (x.cTail + 1) % size, cPhase := y.cPhase, msix := y.msix, msixAt := y.msixAt, msixDue := y.msixDue } ∧
          (y.cPhase = x.cPhase ↔ x.cTail + 1 ≠ size) ∧
          (y.msix = x.msix ++ [1] ∧ y.msixDue = false ∨ y.msix = x.msix ∧ y.msixDue = true ∧ x.msixAt ≠ none) ∧
          ((s.getSite (1 - g)).state ≠ 3 → addr % stackSize + 64 ≤ stackSize →
            (s.getStack ((s.winStacks g).getD (addr / stackSize) 0)).state ≠ 4 →
            t.bytes (s.winAddr g addr) 64 = wordBytes entry))

/-- R31, R32, R39: ones written to CCB_FAULT of a core clear those bits, and at zero FIRST and FFRAME read zero. -/
def Sys2Proof.Claims.FaultClear : Prop :=
  ∀ (n : Nat) (v : W32) (s : State), n < 576 →
    let c := s.getCore n
    let f := c.ccb.fault &&& ~~~ v.setWidth 16
    Ends (.ccbFaultClear (.core n) v) s fun t =>
      t = { s.setCore n { c with ccb := { c.ccb with
        fault := f
        first := if f = 0 then 0 else c.ccb.first
        firstFrame := if f = 0 then 0 else c.ccb.firstFrame } } with resp := {} }

/-- R211, R213: a FAULT message carries a cell's CCB_ID and fault bits to the PMC and changes no register; one that would cross a link
with both twins failed is lost. -/
def Sys2Proof.Claims.FaultMessage : Prop :=
  ∀ (cell : CellId) (f : BitVec 16) (s : State), cellOk cell = true →
    exec (.faultMessage cell f) s = .next (if s.reaches (s.tokenNode cell) nodePmc
      then { s with resp := { data := [s.ccbId cell, f.setWidth 32] } } else s)

/-! ### Registers and routers (R7, R196, R217, R310) -/

/-- R7, R309, R310: a write narrower, wider or unaligned has no effect and completes with E_ALIGN, and such a read with 0 too; through
BAR2 a write of a word other than the four that R310 names, or of any word while the site is DOWN (log entry 137), is discarded and
counted in HG_DROP.WR; a site that is OFF or ABSENT takes no write; a MGMT write of CORE_SEQ_BASE takes effect unless the core is in
RESETTING (R407); a mailbox word is written through BAR0. -/
def Sys2Proof.Claims.RegisterWrites : Prop :=
  (∀ (g a w : Nat) (v : W32) (s : State), g < 2 → regBase ≤ a → a < regBase + 0x8000000 → w ≠ 4 ∨ a % 4 ≠ 0 →
    (s.getSite g).linked = true → exec (.registerWrite (.bar2 g) a w v) s = .next { s with resp := { status := 0x0001 } }) ∧
  (∀ (g a w : Nat) (v : W32) (s : State), g < 2 → regBase ≤ a → a < regBase + 0x8000000 → (s.getSite g).linked = false →
    exec (.registerWrite (.bar2 g) a w v) s = .next s) ∧
  (∀ (g a : Nat) (v : W32) (s : State), g < 2 → regBase ≤ a → a < regBase + 0x8000000 → a % 4 = 0 → (s.getSite g).state = 4 →
    exec (.registerWrite (.bar2 g) a 4 v) s =
      .next { s.setSite g { s.getSite g with dropWr := min ((s.getSite g).dropWr + 1) 0x3FF } with resp := {} }) ∧
  (∀ (p : Path) (a w : Nat) (s : State), w ≠ 4 ∨ a % 4 ≠ 0 → s.barRead p a w = (0x0001, 0)) ∧
  (∀ (g n : Nat) (v : W32) (s : State), g < 2 → n < 576 → (s.getSite g).linked = true →
    exec (.registerWrite (.bar2 g) (regBase + n * 0x10000 + 0x40) 4 v) s =
      .next { s.setSite g { s.getSite g with dropWr := min ((s.getSite g).dropWr + 1) 0x3FF } with resp := {} }) ∧
  (∀ (n : Nat) (v : W32) (s : State), n < 576 → (s.getCore n).ccb.state ≠ .resetting →
    exec (.registerWrite .mgmt (regBase + n * 0x10000 + 0x40) 4 v) s =
      .next { s.setCore n { s.getCore n with seq := { (s.getCore n).seq with baseReg := v.toNat % 2 ^ 18 } } with
        resp := {} }) ∧
  (∀ (n : Nat) (v : W32) (s : State), n < 576 → (s.getCore n).ccb.state = .resetting →
    exec (.registerWrite .mgmt (regBase + n * 0x10000 + 0x40) 4 v) s = .next { s with resp := { status := 0x1001 } }) ∧
  ∀ (g m i : Nat) (v : W32) (s : State), g < 2 → m < 16 → 0 < i → i < 1024 → 1 ≤ (s.getSite g).state →
    (s.getSite g).state ≤ 3 → ((s.getSite g).box m).owner ≠ 1 →
    Ends (.registerWrite (.bar0 g) (0x20000 + 4096 * m + 4 * i) 4 v) s fun t =>
      Only [.site, .resp] s t ∧ t.resp.status = 0 ∧ ((t.getSite g).box m).word i = v ∧
      (∀ j, j ≠ i → ((t.getSite g).box m).word j = ((s.getSite g).box m).word j) ∧
      (∀ k, k ≠ m → (t.getSite g).box k = (s.getSite g).box k) ∧ ∀ h, h ≠ g → t.getSite h = s.getSite h

/-- R211, R7: a MGMT message reads or writes one register: of an unaligned address neither; a write and the read after it
agree on CORE_SEQ_LEN, which takes 0 to 16,384 (R99); a read of CCB_ID gives the cell's (R25). One that would cross a control link
with both twins failed is lost (R213). -/
def Sys2Proof.Claims.MgmtMessages : Prop :=
  (∀ (a : Nat) (w : Bool) (v : W32) (s : State), regBase ≤ a → a < regBase + 0x8000000 →
    s.reaches nodePmc (regNode (a - regBase)) = false → exec (.mgmtMessage w a v) s = .next s) ∧
  (∀ (a : Nat) (w : Bool) (v : W32) (s : State), regBase ≤ a → a < regBase + 0x8000000 → a % 4 ≠ 0 →
    s.reaches nodePmc (regNode (a - regBase)) = true →
    exec (.mgmtMessage w a v) s = .next { s with resp := { status := 0x0001, data := if w then [] else [0] } }) ∧
  (∀ (n : Nat) (v : W32) (s : State), n < 576 → s.reaches nodePmc (coreQuad n) = true → (s.getCore n).ccb.state ≠ .resetting →
    Ends (.mgmtMessage true (regBase + n * 0x10000 + 0x44) v) s fun t =>
      Only [.core, .resp] s t ∧ OtherCores n s t ∧
      t.getCore n = { s.getCore n with seq := { (s.getCore n).seq with
        lenReg := if v.toNat % 32768 ≤ 16384 then v.toNat % 32768 else (s.getCore n).seq.lenReg } } ∧
      Ends (.mgmtMessage false (regBase + n * 0x10000 + 0x44) 0) t fun u =>
        Only [.resp] t u ∧ u.resp = { data := [BitVec.ofNat 32 (t.getCore n).seq.lenReg] }) ∧
  ∀ (n : Nat) (s : State), n < 576 → s.reaches nodePmc (coreQuad n) = true →
    Ends (.mgmtMessage false (regBase + n * 0x10000) 0) s fun t =>
      Only [.resp] s t ∧ t.resp = { data := [s.ccbId (.core n)] }

/-- R217: RTR_TBL_DATA reads and writes the bank word at INDEX, and each access moves INDEX on by one; the active bank and
indices above 16,400 ignore writes and, above 16,400, read 0; a write to the pending bank disarms the swap (R196). -/
def Sys2Proof.Claims.RouterTableWords : Prop :=
  (∀ (n : Nat) (v : W32) (s : State), n < 576 →
    let r := s.getRtr n
    Ends (.rtrTblDataWrite n v) s fun t =>
      let u := t.getRtr n
      Only [.rtr, .resp] s t ∧ t.resp = {} ∧ (∀ m, m ≠ n → t.getRtr m = s.getRtr m) ∧
      u.index = (r.index + 1) % 32768 ∧ u.active = r.active ∧
      (r.bankSel = true ∨ 16400 < r.index → u = { r with index := (r.index + 1) % 32768 }) ∧
      (r.bankSel = false → r.index ≤ 16400 → u.arm = false ∧ tget u.pending r.index 0 = v ∧
        ∀ j, j ≠ r.index → tget u.pending j 0 = tget r.pending j 0)) ∧
  ∀ (n : Nat) (s : State), n < 576 →
    let r := s.getRtr n
    exec (.rtrTblDataRead n) s = .next { s.setRtr n { r with index := (r.index + 1) % 32768 } with
      resp := { data := [if 16400 < r.index then 0 else tget (if r.bankSel then r.active else r.pending) r.index 0] } }

/-- R196, R217: arming takes FRAME16 and starts validation if it lies 2 to 32,767 frames ahead, and is refused with
E_SLOT_SWAP_LATE otherwise; a disarming write takes FRAME16 too, and returns STATUS of an armed swap to 0b00; validation
ends armed or refused with E_SLOT_TABLE, and then the routers that were armed together with this one are disarmed. -/
def Sys2Proof.Claims.SwapArming : Prop :=
  (∀ (n : Nat) (f : BitVec 16) (s : State), n < 576 →
    let r := s.getRtr n
    let d := (f.toNat + 65536 - s.pmc.frame.toNat % 65536) % 65536
    exec (.swapArm n f) s = .next (if 2 ≤ d ∧ d ≤ 32767
      then { s.setRtr n { r with frame16 := f, arm := true, validating := true, status := 0 } with resp := {} }
      else { s.setRtr n { r with frame16 := f, arm := false, validating := false, status := 3 } with
        resp := { status := 0x0802 } })) ∧
  (∀ (n : Nat) (f : BitVec 16) (s : State), n < 576 →
    Ends (.swapDisarm ⟨n, f⟩) s fun t =>
      Only [.rtr, .resp] s t ∧ t.resp = {} ∧ (∀ m, m ≠ n → t.getRtr m = s.getRtr m) ∧
      (t.getRtr n).arm = false ∧ (t.getRtr n).frame16 = f ∧ ((s.getRtr n).arm = true → (t.getRtr n).status = 0) ∧
      (t.getRtr n).pending = (s.getRtr n).pending ∧ (t.getRtr n).active = (s.getRtr n).active) ∧
  ∀ (n : Nat) (s : State), n < 576 → (s.getRtr n).validating = true →
    let r := s.getRtr n
    match s.bankError n r.pending with
    | none => exec (.bankValidationDone n) s =
        .next { s.setRtr n { r with validating := false, status := 1 } with resp := {} }
    | some e => Ends (.bankValidationDone n) s fun t =>
        Only [.rtr, .pmc, .resp] s t ∧ t.resp = { status := 0x0801 } ∧
        t.getRtr n = { r with validating := false, arm := false, status := 2, tblErr := e } ∧
        t.pmc = { s.pmc with together := s.pmc.together.filter fun g => !g.contains n } ∧
        ∀ m, m ≠ n →
          ((∃ g ∈ s.pmc.together, n ∈ g ∧ m ∈ g) → (t.getRtr m).arm = false ∧
            (t.getRtr m).pending = (s.getRtr m).pending ∧ (t.getRtr m).active = (s.getRtr m).active) ∧
          ((∀ g ∈ s.pmc.together, n ∈ g → m ∉ g) → t.getRtr m = s.getRtr m)

/-- R91, R194: at the round of an armed phase the router switches to it, ends its poisoning and is armed no more; without
one, the next entry of its phase schedule acts. -/
def Sys2Proof.Claims.PhaseSwitching : Prop :=
  (∀ (n p x : Nat) (s : State), n < 576 → (s.getRtr n).armed = some (p, x) →
    Ends (.phaseSwitch n) s fun t =>
      t.getRtr n = { s.getRtr n with phase := p, round := x, armed := none, poisoning := false } ∧
      Only [.rtr, .core] s t ∧ OtherCores n s t ∧ ∀ m, m ≠ n → t.getRtr m = s.getRtr m) ∧
  ∀ (n : Nat) (s : State), n < 576 → (s.getRtr n).armed = none →
    (∃ e ∈ schedOf (s.getRtr n).active, e.2.2.2 = true ∧ (s.getRtr n).sched ≤ e.2.1) →
    Ends (.phaseSwitch n) s fun t =>
      Only [.rtr] s t ∧ (∀ m, m ≠ n → t.getRtr m = s.getRtr m) ∧
      ∃ e ∈ schedOf (s.getRtr n).active, e.2.2.2 = true ∧ (s.getRtr n).sched ≤ e.2.1 ∧
        t.getRtr n = { s.getRtr n with phase := e.2.2.1, round := e.2.1, sched := e.2.1 + 1 } ∧
        ∀ f ∈ schedOf (s.getRtr n).active, f.2.2.2 = true → (s.getRtr n).sched ≤ f.2.1 → e.2.1 ≤ f.2.1

/-- R187, R192: a router always ends its cycle; the beats that had arrived are in flight no more, and no other router's
registers change. -/
def Sys2Proof.Claims.RouterCycle : Prop :=
  ∀ (n cycle : Nat) (s : State), n < 576 →
    Ends (.beatForward n cycle) s fun t =>
      Only [.mesh, .rtr, .core, .pmc, .hlt, .quad, .tile, .stack] s t ∧ (∀ m, m ≠ n → t.getRtr m = s.getRtr m) ∧
      t.getRtr n = { s.getRtr n with round := cycle / 1024 } ∧
      (∀ f ∈ t.mesh.flights, f ∈ s.mesh.flights ∨ cycle < f.cycle) ∧
      (∀ f ∈ t.mesh.flights, f.router = n → cycle < f.cycle) ∧
      ∀ f ∈ s.mesh.flights, f.router ≠ n ∨ cycle < f.cycle → f ∈ t.mesh.flights

/-! ### The doorbell page (R311, R313) -/

/-- R311, R313: MB_DB_m hands the mailbox to the PMC: OWNER shows RUNNING, and a command of R316's opcodes waits at the end
of the queue; at a mailbox that runs, or of a site that is DOWN (log entry 137), the write is discarded and counted; a site that is OFF
or ABSENT has no doorbells. -/
def Sys2Proof.Claims.MailboxDoorbell : Prop :=
  ∀ (g m : Nat) (s : State), g < 2 → m < 16 →
    let x := s.getSite g
    Ends (.mailboxDoorbell g m) s fun t =>
      Only [.site, .pmc, .resp] s t ∧
      ((x.state = 0 ∨ 4 < x.state) → t = s) ∧
      ((x.state = 4 ∨ 1 ≤ x.state ∧ x.state ≤ 3 ∧ (x.box m).owner = 1) →
        t = { s.setSite g { x with dropDb := min (x.dropDb + 1) 0x7FF } with resp := {} }) ∧
      (1 ≤ x.state → x.state ≤ 3 → (x.box m).owner ≠ 1 → s.pmc.restarting = false → opcodes.contains (s.cmdAt g m).op →
        s.pmc.cmds = [] →
        ((t.getSite g).box m).owner = 1 ∧ ((t.getSite g).box m).words = (x.box m).words ∧
        t.pmc = { s.pmc with cmds := [(g, m)] })

/-- R311, R320, R321: a new tail of the Admission Ring is taken, in order, if the ring then holds at most SIZE − 1 entries;
else it is discarded and counted, as at a site that is DOWN; a site that is OFF or ABSENT has no doorbells. -/
def Sys2Proof.Claims.AdmissionTail : Prop :=
  ∀ (g : Nat) (v : W32) (s : State), g < 2 →
    let x := s.getSite g
    let size := 2 ^ x.aLog
    let tail := v.toNat % 65536
    let fits := 1 ≤ x.state ∧ x.state ≤ 3 ∧ x.ringsSet = true ∧ tail < size ∧
      (x.aTail + size - x.aHead) % size + (tail + size - x.aTail) % size ≤ size - 1
    (fits → exec (.aringTailWrite g v) s =
      .next { s.setSite g { x with aTail := tail } with
        pmc := { s.pmc with posted := s.pmc.posted ++ [(g, tail)] }, resp := {} }) ∧
    (x.linked = false → exec (.aringTailWrite g v) s = .next s) ∧
    (x.linked = true → ¬ fits → exec (.aringTailWrite g v) s =
      .next { s.setSite g { x with dropDb := min (x.dropDb + 1) 0x7FF } with resp := {} })

/-- R311, R323: a new head of the Completion Ring that lies within the entries written is taken, and held answers follow in
order; any other is discarded and counted, as at a site that is DOWN; a site that is OFF or ABSENT has no doorbells. -/
def Sys2Proof.Claims.CompletionHead : Prop :=
  ∀ (g : Nat) (v : W32) (s : State), g < 2 →
    let x := s.getSite g
    let size := 2 ^ x.cLog
    let head := v.toNat % 65536
    let fits := 1 ≤ x.state ∧ x.state ≤ 3 ∧ x.ringsSet = true ∧ head < size ∧
      (head + size - x.cHead) % size ≤ (x.cTail + size - x.cHead) % size
    Ends (.cringHeadWrite g v) s fun t =>
      Only [.site, .mem, .poison, .undef, .flips, .stack, .resp] s t ∧ (x.linked = false → t = s) ∧
      (fits → t.resp = {} ∧ (t.getSite g).cHead = head ∧ ∃ k, (t.getSite g).held = x.held.drop k) ∧
      (x.linked = true → ¬ fits → t = { s.setSite g { x with dropDb := min (x.dropDb + 1) 0x7FF } with resp := {} })


/-! ### Vilsal commands (R311 to R319) -/


/-- R9, R309, R313: a mailbox command of a wrong length ends with E_MBOX_LEN, one that the site's state does not allow
with E_NOT_READY, and one with a reserved bit set with E_RESERVED, in that order (log entry 54), and with no other
effect. -/
def Obligations.VilsalRefusals : Prop :=
  ∀ (i : Instr) (s : State) (c : Cmd) (form : Nat × (Cmd → Bool) × (Cmd → Nat) × List Nat),
    mailboxForm i = some form → Heads i s c →
      (c.argLen ≠ form.2.2.1 c → Finishes i s c 0x0C02 [] s) ∧
      (c.argLen = form.2.2.1 c → s.allows c = false → Finishes i s c 0x0C03 [] s) ∧
      (c.argLen = form.2.2.1 c → s.allows c = true → c.headOk = false ∨ c.argsOk form.2.2.2 = false →
        Finishes i s c 0x0002 [] s)

/-- R316: the commands that only read: GET_INFO, CONTACT_READ, STATS_READ, CLASS_GET and FW_STATUS. -/
def Sys2Proof.Claims.VilsalQueries : Prop :=
  (∀ s c, Accepted .getInfo s c → Finishes .getInfo s c 0
    [word [(s.sec.grade, 30, 2), (b2n s.sec.f32, 29, 1), (b2n s.sec.h2, 28, 1), (s.exposedIn .panel, 0, 16)],
      word [(s.fab.id, 0, 12)], s.pmc.frame.setWidth 32, (s.pmc.frame >>> 32).setWidth 32, s.sec.version,
      word [((s.getSite 0).state, 0, 4), ((s.getSite 1).state, 4, 4)]] s) ∧
  (∀ s c, Accepted .contactRead s c → c.w 0 < 8506 → c.w 0 + c.w 1 ≤ 8506 →
    Finishes .contactRead s c 0 ((upTo (c.w 0) (min 252 (c.w 1))).flatMap s.rowWords) s) ∧
  (∀ s c b, Accepted .statsRead s c → c.w 0 < 96 → (s.getWork (c.w 0)).bound = some b → c.w 2 ≤ 84 →
    c.w 1 + c.w 2 ≤ plCount (s.plate b.slot) 0x0B 8 →
    Finishes .statsRead s c 0 ((upTo (c.w 1) (c.w 2)).flatMap (s.statRecord (s.plate b.slot) b.place)) s) ∧
  (∀ s c, Accepted .classGet s c → c.w 0 < 96 → (s.getWork (c.w 0)).quads ≠ [] →
    Finishes .classGet s c 0 ((List.range 8).flatMap fun k =>
      let y := (s.getWork (c.w 0)).getCls k
      [BitVec.ofNat 32 y.quota, BitVec.ofNat 32 (s.quotaIn (c.w 0) k), BitVec.ofNat 32 y.depth,
        BitVec.ofNat 32 y.queue.length]) s) ∧
  ∀ s c, Accepted .fwStatus s c → Finishes .fwStatus s c 0 s.fwWords s

/-- R471: METER_READ gives a stored legal record, the certificates, or stored lines, and E_TARGET where it holds none; a
count of zero is a no-op. -/
def Sys2Proof.Claims.VilsalMeterRead : Prop :=
  (∀ s c, Accepted .meterReadLegal s c → c.w 2 = 0 → Finishes .meterReadLegal s c 0 [] s) ∧
  (∀ s c, Accepted .meterReadLegal s c → c.w 2 = 1 → c.w 1 ≠ 0xFFFFFFFF → tget s.mtr.copyRecs (c.w 1) [] ≠ [] →
    Finishes .meterReadLegal s c 0 (tget s.mtr.copyRecs (c.w 1) []) s) ∧
  (∀ s c, Accepted .meterReadLegal s c → c.w 2 = 1 → c.w 1 ≠ 0xFFFFFFFF → tget s.mtr.copyRecs (c.w 1) [] = [] →
    Finishes .meterReadLegal s c 0x0C0E [] s) ∧
  (∀ s c, Accepted .meterReadLegal s c → c.w 2 = 1 → c.w 1 = 0xFFFFFFFF → s.mtr.copyCerts ≠ [] →
    Finishes .meterReadLegal s c 0 ((bytesWords s.mtr.copyCerts).take 1008) s) ∧
  (∀ s c e, Accepted .meterReadInformative s c → 0 < c.w 2 → c.w 2 ≤ 63 →
    (s.mtr.copyRecs.filter fun e => e.1 % 2 ^ 22 = bits (c.w 1) 10 22).getLast? = some e →
    let part := (upTo (bits (c.w 1) 0 10) (c.w 2)).map fun i =>
      ((tget s.mtr.copyLines e.1 []).find? fun l => lineIndex l = i).getD []
    bits (c.w 1) 0 10 + c.w 2 ≤ (e.2.getD 18 0).toNat → (∀ l ∈ part, l ≠ []) →
    Finishes .meterReadInformative s c 0 part.flatten s) ∧
  (∀ s c, Accepted .meterReadInformative s c → c.w 2 = 0 → Finishes .meterReadInformative s c 0 [] s) ∧
  ∀ s c, Accepted .meterReadInformative s c → 63 < c.w 2 → Finishes .meterReadInformative s c 0x0C0E [] s

/-- R316, R320, R328, R343, R266: RING_SETUP, EVENT_MASK, POWER_LIMIT and HOSTWIN_SET take their values at once; with RING_SETUP the
tails written to the old ring and not yet taken are gone. -/
def Sys2Proof.Claims.VilsalSettings : Prop :=
  (∀ s c, Accepted .eventMask s c →
    Finishes .eventMask s c 0 [s.pmc.mask] { s with pmc := { s.pmc with mask := BitVec.ofNat 32 (c.w 0) } }) ∧
  (∀ s c, Accepted .powerLimit s c → 1000 ≤ c.w 0 → c.w 0 ≤ 10800 →
    Finishes .powerLimit s c 0 [BitVec.ofNat 32 s.pwr.limit] { s with pwr := { s.pwr with limit := c.w 0 } }) ∧
  (∀ s c, Accepted .powerLimit s c → c.w 0 < 1000 ∨ 10800 < c.w 0 → Finishes .powerLimit s c 0x0C0E [] s) ∧
  (∀ s c, Accepted .hostwinSet s c → bits (c.w 0) 12 3 ≤ 4 → bits (c.w 0) 8 3 ≤ 4 →
    bits (c.w 0) 12 3 = 0 ∨ s.sec.h2 = true → Finishes .hostwinSet s c 0 []
      { s with pmc := { s.pmc with eastNext := bits (c.w 0) 12 3, westNext := bits (c.w 0) 8 3 } }) ∧
  ∀ s c, Accepted .ringSetup s c →
    let x := s.getSite c.site
    let a := c.w64 0
    let b := c.w64 3
    6 ≤ c.w 2 → c.w 2 ≤ 15 → 7 ≤ c.w 5 → c.w 5 ≤ 16 → c.w 2 + 1 ≤ c.w 5 → a % 4096 = 0 → b % 4096 = 0 →
    a + 64 * 2 ^ c.w 2 ≤ s.winSize c.site → b + 64 * 2 ^ c.w 5 ≤ s.winSize c.site →
    overlap a (64 * 2 ^ c.w 2) b (64 * 2 ^ c.w 5) = false → s.siteReqs c.site = [] → x.held = [] → x.aHead = x.aTail →
    Finishes .ringSetup s c 0 [] { s.setSite c.site { x with
        ringsSet := true, aOff := a, aLog := c.w 2, cOff := b, cLog := c.w 5
        aHead := 0, aTail := 0, cTail := 0, cHead := 0, cPhase := true } with
      pmc := { s.pmc with posted := s.pmc.posted.filter fun e => e.1 ≠ c.site } }

/-- R63, R314, R316, R324, R466: FRAME_CONFIG, CELL_CONFIG, CLASS_SET and JOB_TAG of a frame far enough ahead are pending until it, and take
their place in the order of acceptance; the panel's FRAME_CONFIG in a hall cell is refused, and one too soon; the hall cell's counts hall frames
(R62), kept in the panel's own numbers (log entry 124). -/
def Sys2Proof.Claims.VilsalPendingSettings : Prop :=
  (∀ s c, Accepted .frameConfig s c →
    let t := bits (c.w 1) 0 15
    let x := bits (c.w 1) 16 8
    let a := bits (c.w 1) 24 8
    BitVec.ofNat 32 (c.w 0) = s.ccbId .panel → bits (c.w 0) 28 4 = 4 → t ≠ 0 → x ≠ 0 → frameRangeOk t x a = true →
      (s.fab.hallIndex ≠ none → Finishes .frameConfig s c 0x0204 [] s) ∧
      (s.fab.hallIndex = none → ¬ s.inTime (c.frame 2) → Finishes .frameConfig s c 0x0203 [] s) ∧
      (s.fab.hallIndex = none → s.inTime (c.frame 2) → s.pmc.next = none →
        (∀ e ∈ s.pmc.work, ∀ b, e.2.boundAt (c.frame 2) = some b → plT (s.plate b.slot) = t ∧ plS (s.plate b.slot) = x) →
        Finishes .frameConfig s c 0 []
          ({ s with pmc := { s.pmc with next := some (t, x, a, c.frame 2) } }.withOverrides [.params] (c.frame 2)))) ∧
  (∀ s c, Accepted .frameConfig s c →
    let t := bits (c.w 1) 0 15
    let x := bits (c.w 1) 16 8
    let a := bits (c.w 1) 24 8
    let f := c.frame 2 - s.fab.fofs
    BitVec.ofNat 32 (c.w 0) = s.ccbId .hall → bits (c.w 0) 28 4 = 6 → s.fab.hallIndex ≠ none → t ≠ 0 → x ≠ 0 →
    frameRangeOk t x a = true → s.inTime f → s.pmc.next = none →
    (∀ e ∈ s.pmc.work, ∀ b, e.2.boundAt f = some b → plT (s.plate b.slot) = t ∧ plS (s.plate b.slot) = x) →
    Finishes .frameConfig s c 0 [] ({ s with pmc := { s.pmc with next := some (t, x, a, f) } }.withOverrides [.params] f)) ∧
  (∀ s c, Accepted .cellConfig s c → c.w 0 < 96 → s.inTime (c.frame 4) →
    let x := s.getWork (c.w 0)
    let new := { x with config := x.config ++ [(maskQuads c 1, c.frame 4)] }
    (∀ e ∈ s.pmc.work, e.1 ≠ c.w 0 → ∀ t, ∀ q ∈ e.2.quadsAt t, q ∉ new.quadsAt t) →
    x.boundAt (c.frame 4) = none → (∀ b, x.next = some b → b.frame < c.frame 4) →
    Finishes .cellConfig s c 0 [] ((s.setWork (c.w 0) new).withOverrides [.cell (c.w 0)] (c.frame 4))) ∧
  (∀ s c, Accepted .classSet s c →
    let w := bits (c.w 0) 0 7
    let k := bits (c.w 0) 8 3
    let y := (s.getWork w).getCls k
    let new := { s.getWork w with
      cls := tset (s.getWork w).cls k { y with next := y.next ++ [(c.w 1, c.w 2, c.frame 3)] } {} }
    w < 96 → c.w 2 ≤ 1024 → (s.getWork w).quadsAt (c.frame 3) ≠ [] → s.inTime (c.frame 3) →
    (∀ t b, (s.getWork w).boundAt t = some b → new.quotasAt t ≤ costCap (s.plate b.slot)) →
    Finishes .classSet s c 0 [] ((s.setWork w new).withOverrides [.cell w] (c.frame 3))) ∧
  ∀ s c, Accepted .jobTag s c → c.w 0 < 96 → (s.getWork (c.w 0)).quadsAt (c.frame 2) ≠ [] → s.inTime (c.frame 2) →
    Finishes .jobTag s c 0 [] ((s.setWork (c.w 0) { s.getWork (c.w 0) with
      tagNext := (s.getWork (c.w 0)).tagNext ++ [(BitVec.ofNat 32 (c.w 1), c.frame 2)] }).withOverrides [.cell (c.w 0)] (c.frame 2))

/-- R316, R317, R359: POLICY_SET makes a policy MANUAL or AUTO at once and answers how it stood; the policy's DECISIONs that stand do so no
more; where the four policies that set RATIO become MANUAL, each quadrant keeps the RATIO it has. -/
def Sys2Proof.Claims.VilsalPolicy : Prop :=
  ∀ s c, Accepted .policySet s c →
    let p := bits (c.w 0) 0 4
    let man := bitOf (c.w 0) 8
    (6 ≤ p → Finishes .policySet s c 0x0C0E [] s) ∧
    (p < 6 → Ends .policySet s fun t =>
      Reply s t c 0 [word [(b2n (s.manual p), 8, 1), (p, 0, 4)]] ∧ Only [.pmc, .quad, .site, .resp] s t ∧
      t.pmc = { s.pmc with
        manual := t.pmc.manual, cmds := t.pmc.cmds, asked := s.pmc.asked.filter fun e => e.1 ≠ p } ∧ t.manual p = man ∧
      (∀ r, r ≠ p → t.manual r = s.manual r) ∧
      ∀ q, t.getQuad q = if s.allManual = false ∧ t.allManual = true ∧ q < 96
        then { s.getQuad q with manualRatio := (s.getQuad q).ratio } else s.getQuad q)

/-- R316, R359, R396, R398, R201, R291: the commands that act at a later frame wait as overrides: CELL_FORCE DARK,
RELEASE and RETIRE, SPARE_SET, LINK_FORCE retire, retrain and return, CLOCK_SET, MARGIN_SET, RING_RELEASE and
a ring's rejoin. SPARE_SET of a core or a reserve that a SPARE_SET accepted earlier names is refused (R3). Those of a policy are refused with
E_POLICY_AUTO unless it is MANUAL, and a frame too soon with
E_CMD_TOO_SOON. -/
def Sys2Proof.Claims.VilsalOverrides : Prop :=
  (∀ s c cell, s.forced c = some (.inl cell) → s.configured cell = true → s.inTime (c.frame 2) →
      (Accepted .cellForceDark s c → c.w 1 % 4 = 0 →
        Finishes .cellForceDark s c 0 [] (s.withOverrides [.dark cell] (c.frame 2))) ∧
      (Accepted .cellForceRelease s c →
        Finishes .cellForceRelease s c 0 [] (s.withOverrides [.release cell] (c.frame 2))) ∧
      (Accepted .cellForceRetire s c → s.manual 0 = true →
        Finishes .cellForceRetire s c 0 [] (s.withOverrides ((s.coresOf cell).map .retire) (c.frame 2)))) ∧
  (∀ s c g, s.forced c = some (.inr g) → s.inTime (c.frame 2) →
      (Accepted .cellForceDark s c → c.w 1 % 4 = 0 →
        Finishes .cellForceDark s c 0 [] (s.withOverrides [.siteDark g] (c.frame 2))) ∧
      (Accepted .cellForceRelease s c →
        Finishes .cellForceRelease s c 0 [] (s.withOverrides [.siteRelease g] (c.frame 2))) ∧
      (Accepted .cellForceRetire s c → Finishes .cellForceRetire s c 0x0C0E [] s)) ∧
  (∀ s c cell, Accepted .cellForceRetire s c → s.forced c = some (.inl cell) → s.configured cell = true →
      (s.manual 0 = false → Finishes .cellForceRetire s c 0x0C0D [] s) ∧
      (s.manual 0 = true → ¬ s.inTime (c.frame 2) → Finishes .cellForceRetire s c 0x0C0F [] s)) ∧
  (∀ s c, Accepted .spareSet s c → c.w 0 < 576 → c.w 1 < 576 → c.w 0 ≠ c.w 1 → (s.row (c.w 1)).state = 7 →
    (s.getCore (c.w 1)).position = none →
      let k := s.getCore (c.w 0)
      (s.sparePending (c.w 0) (c.w 1) = true → Finishes .spareSet s c 0x0C0E [] s) ∧
      (s.sparePending (c.w 0) (c.w 1) = false →
      (k.exposed = false → k.owed = false → Finishes .spareSet s c 0x0C0E [] s) ∧
      (k.exposed = true ∨ k.owed = true → s.manual 0 = false → Finishes .spareSet s c 0x0C0D [] s) ∧
      (k.exposed = true ∨ k.owed = true → s.manual 0 = true → s.inTime (c.frame 2) → Finishes .spareSet s c 0 []
        ((s.withOverrides [.spare (c.w 0) (c.w 1)] (c.frame 2)).noteSpare (c.w 0) (c.w 1))))) ∧
  (∀ (i : Instr) (mk : Nat → Nat → Nat → Nat → Override) (s : State) (c : Cmd),
    (i, mk) ∈ [(Instr.linkForceRetire, Override.linkRetire), (.linkForceRetrain, .linkRetrain),
      (.linkForceReturn, .linkReturn)] → Accepted i s c → bits (c.w 0) 13 2 ≠ 3 →
    linkFitted (c.w 1) (bits (c.w 0) 4 4) = true → bits (c.w 0) 9 4 ≤ 10 →
      (s.manual 1 = false → Finishes i s c 0x0C0D [] s) ∧
      (s.manual 1 = true → s.inTime (c.frame 2) → Finishes i s c 0 []
        (s.withOverrides [mk (c.w 1) (bits (c.w 0) 4 4) (bits (c.w 0) 8 1) (bits (c.w 0) 9 4)] (c.frame 2)))) ∧
  (∀ s c, Accepted .clockSet s c →
    let q := bits (c.w 0) 0 7
    let r := bits (c.w 0) 8 5
    q < 96 → 8 ≤ r → r ≤ 16 →
      (s.allManual = false → Finishes .clockSet s c 0x0C0D [] s) ∧
      (s.allManual = true → s.inTime (c.frame 1) →
        (∀ b, ((s.workOfQuad q).bind fun w => (s.getWork w).boundAt (c.frame 1)) = some b →
          (upTo 1 (plNvar (s.plate b.slot))).any (fun v => varRatio (s.plate b.slot) v = r) = true) →
        Finishes .clockSet s c 0 [] (s.withOverrides ((s.ratioQuads q).map fun y => .clock y r) (c.frame 1)))) ∧
  (∀ s c, Accepted .marginSet s c → c.w 0 < 96 → -50 ≤ toSigned 32 (c.w 1) → toSigned 32 (c.w 1) ≤ 50 →
      (s.manual 2 = false → Finishes .marginSet s c 0x0C0D [] s) ∧
      (s.manual 2 = true → s.inTime (c.frame 2) → Finishes .marginSet s c 0 []
        (s.withOverrides [.margin (c.w 0) (toSigned 32 (c.w 1)) true] (c.frame 2)))) ∧
  ∀ (i : Instr) (release : Bool) (s : State) (c : Cmd),
    (i, release) ∈ [(Instr.ringRelease, true), (.ringRejoin, false)] → Accepted i s c →
    s.ringFitted (bits (c.w 0) 0 4) = true →
      (¬ s.inTime (c.frame 1) → Finishes i s c 0x0C0F [] s) ∧
      (s.inTime (c.frame 1) → Finishes i s c 0 [] (s.withOverrides [.ring (bits (c.w 0) 0 4) release] (c.frame 1)))

/-- R294, R316, R286: FAB_REBIND, HALL_FORM and HALL_LEAVE wait for their frame. -/
def Sys2Proof.Claims.VilsalHallsAndIds : Prop :=
  (∀ s c, Accepted .fabRebind s c → s.inTime (c.frame 2) → s.fab.idNext = none →
    (∀ e ∈ s.ring, e.2.map.contains (c.w 0) = false) → Ends .fabRebind s fun t =>
      Reply s t c 0 [] ∧ Only [.pmc, .site, .resp, .fab, .ring] s t ∧
      t.fab = { s.fab with idNext := some (c.w 0, c.frame 2) } ∧
      ∀ r, t.getRing r = if r < 16 then { s.getRing r with dimNext := some (bits (c.w 1) (2 * r) 2) } else s.getRing r) ∧
  (∀ s c, Accepted .hallForm s c →
    let ids := (List.range (c.w 1)).map (hallEntry c)
    c.w 0 ≠ 1023 → 2 ≤ c.w 1 → c.w 1 ≤ 2000 → distinct ids = true → (∀ k, s.fab.hallIndex = some k → k = c.w 0) →
    s.fab.hallNext = none →
    s.panelId ∈ ids → (∀ p ∈ ids, s.inOtherHall p (c.w 0) = false) → (∀ p ∈ ids, p ≠ s.panelId → s.route p ≠ none) →
    s.inTime (c.frame 2) → Finishes .hallForm s c 0 []
      ({ s with fab := { s.fab with hallNext := some (some (c.w 0), ids, c.frame 2) } }.withOverrides [.hall] (c.frame 2))) ∧
  ∀ s c, Accepted .hallLeave s c → s.fab.hallIndex = some (c.w 0) → s.fab.hallNext = none →
      (¬ s.inTime (c.frame 1) → Finishes .hallLeave s c 0x0C0F [] s) ∧
      (s.inTime (c.frame 1) → Finishes .hallLeave s c 0 []
        ({ s with fab := { s.fab with hallNext := some (none, [], c.frame 1) } }.withOverrides [.hall] (c.frame 1)))

/-- R241, R240, R249, R316: PLATE_LOAD checks the image in order and stores a signed plate in a free slot; PLATE_DELETE
takes one away that is bound to no cell; PLATE_UNBIND of a bound cell closes its admission until F. Which of the free slots
a plate takes is the model's choice (the lowest: log entry 82); an image of no bytes is a no-op (R10: log entry 129). -/
def Sys2Proof.Claims.VilsalPlates : Prop :=
  (∀ s c, Accepted .plateLoad s c → c.w64 0 % 4096 = 0 → c.w64 0 + c.w64 2 ≤ s.winSize c.site →
    let r := s.winTake c.site (c.w64 0) (c.w64 2)
    let img := r.1
    (c.w64 2 = 0 → Finishes .plateLoad s c 0 [0, 0, 0] s) ∧ (c.w64 2 ≠ 0 → Ends .plateLoad s fun t =>
      let sound := check1 img = none ∧ s.plateSigned img = true ∧ check3 img = none
      Only [.pmc, .site, .resp, .fresh] r.2 t ∧
      (∀ x, check1 img = some x → Reply s t c x.code [] ∧ t.pmc.store = s.pmc.store) ∧
      (check1 img = none → s.plateSigned img = false → Reply s t c 0x0903 [] ∧ t.pmc.store = s.pmc.store ∧
        tget t.pmc.cnt.now 0x0FA0 0 = tget s.pmc.cnt.now 0x0FA0 0 + 1) ∧
      (check1 img = none → s.plateSigned img = true → ∀ x, check3 img = some x →
        Reply s t c x.code [] ∧ t.pmc.store = s.pmc.store) ∧
      (sound → (∀ i, i < 16 → ∃ e ∈ s.pmc.store, e.1 = i) → Reply s t c 0x0C0A [] ∧ t.pmc.store = s.pmc.store) ∧
      (sound → (∃ i, i < 16 ∧ ∀ e ∈ s.pmc.store, e.1 ≠ i) →
        ∃ i, i < 16 ∧ (∀ e ∈ s.pmc.store, e.1 ≠ i) ∧ (∀ j, j < i → ∃ e ∈ s.pmc.store, e.1 = j) ∧
          Reply s t c 0 [BitVec.ofNat 32 i, BitVec.ofNat 32 (plId img).1, BitVec.ofNat 32 (plId img).2] ∧
          (i, { image := img, keySlot := plateSlot img }) ∈ t.pmc.store ∧
          (∀ e ∈ s.pmc.store, e ∈ t.pmc.store) ∧ t.pmc = { r.2.pmc with store := t.pmc.store, cmds := t.pmc.cmds }))) ∧
  (∀ s c, Accepted .plateDelete s c → (∃ e ∈ s.pmc.store, e.1 = c.w 0) →
      (c.w 0 ∈ s.usedSlots → Finishes .plateDelete s c 0x0C0B [] s) ∧
      (c.w 0 ∉ s.usedSlots → Finishes .plateDelete s c 0 []
        { s with pmc := { s.pmc with store := s.pmc.store.filter fun e => e.1 ≠ c.w 0 } })) ∧
  ∀ s c, Accepted .plateUnbind s c → c.w 0 < 96 → (s.getWork (c.w 0)).quads ≠ [] → (s.getWork (c.w 0)).next = none →
    (s.getWork (c.w 0)).unbindAt = none → (s.getWork (c.w 0)).bound ≠ none →
      ((c.frame 1).toNat < s.pmc.frame.toNat + s.bindLead (c.w 0) → Finishes .plateUnbind s c 0x0913 [] s) ∧
      (s.pmc.frame.toNat + s.bindLead (c.w 0) ≤ (c.frame 1).toNat → Finishes .plateUnbind s c 0 []
        ((s.setWork (c.w 0) { s.getWork (c.w 0) with unbindAt := some (c.frame 1), closed := true }).withOverrides
          [.plate (c.w 0)] (c.frame 1)))

/-- R245, R246, R316: PLATE_BIND of a stored plate that passes the checks of its cell is accepted for F, as the cell's next
binding, with N setup frames; else it ends with the code of the first check that fails. A bind too far ahead to arm waits (R196). -/
def Sys2Proof.Claims.VilsalPlateBind : Prop :=
  ∀ s c, Accepted .plateBind s c →
    let slot := bits (c.w 0) 8 4
    let w := bits (c.w 0) 0 7
    let f := c.frame 1
    let quads := (s.getWork w).quadsAt f
    w < 96 → (∃ e ∈ s.pmc.store, e.1 = slot) → quads ≠ [] → (s.getWork w).next = none → (s.getWork w).unbindAt = none →
      (f.toNat < s.pmc.frame.toNat + s.bindLead w → Finishes .plateBind s c 0x0913 [] s) ∧
      (s.pmc.frame.toNat + s.bindLead w ≤ f.toNat → Ends .plateBind s fun t =>
        Only [.pmc, .site, .resp, .fresh, .core, .rtr, .mem, .poison, .undef, .flips, .stack] s t ∧
        let checks := s.bindChecks w f quads (s.plate slot)
        (∀ x, checks = some x → Reply s t c x.code [] ∧ (t.getWork w).next = none) ∧
        (checks = none → ∃ b, (t.getWork w).next = some b ∧ b.slot = slot ∧ b.frame = f ∧ b.left = b.n ∧
          b.stage = (if swapAhead s.frame16 (f.toNat % 65536) && (f - s.pmc.frame).toNat < 32768 then .accepted else .waiting) ∧
          Reply s t c 0 [BitVec.ofNat 32 b.n, (f + BitVec.ofNat 64 b.n).setWidth 32,
            ((f + BitVec.ofNat 64 b.n) >>> 32).setWidth 32]))

/-- R443: KEY_ENROL fills a slot with the keys of a manifest that verifies, and refuses any other with E_KEY_SIG, counted;
KEY_REVOKE empties a slot and marks it revoked. The plates signed under the old keys go, or wait until they are unbound. -/
def Sys2Proof.Claims.VilsalKeys : Prop :=
  (∀ s c, Accepted .keyEnrol s c →
    let m := (wordBytes ((c.args.drop 2).map (BitVec.ofNat 32))).take (c.w 1)
    let k := c.w 0
    (s.enrolOk m = false ∨ bits (plWord m 16) 0 2 ≠ k → Ends .keyEnrol s fun t => Reply s t c 0x0C0C [] ∧
      t.sec = s.sec ∧ t.pmc.store = s.pmc.store ∧ tget t.pmc.cnt.now 0x0FA0 0 = tget s.pmc.cnt.now 0x0FA0 0 + 1) ∧
    (s.enrolOk m = true → bits (plWord m 16) 0 2 = k → Ends .keyEnrol s fun t => Reply s t c 0 [] ∧
      Only [.sec, .pmc, .site, .resp] s t ∧
      tget t.sec.slots k {} = ({ filled := true, ec := ((manBody m).drop 4).take 96, lms := ((manBody m).drop 100).take 56
                                 number := BitVec.ofNat 32 (manSeq m) } : KeySlot) ∧
      t.sec = { s.sec with slots := t.sec.slots } ∧
      ∀ e ∈ t.pmc.store, (tget s.sec.slots k {}).filled = true → e.2.keySlot = k → e.2.doomed = true)) ∧
  ∀ s c, Accepted .keyRevoke s c → (tget s.sec.slots (c.w 0) {}).filled = true → Ends .keyRevoke s fun t =>
    Reply s t c 0 [] ∧ Only [.sec, .pmc, .site, .resp] s t ∧
    tget t.sec.slots (c.w 0) {} = { tget s.sec.slots (c.w 0) {} with filled := false, ec := [], lms := [], revoked := true } ∧
    (∀ k, k ≠ c.w 0 → tget t.sec.slots k {} = tget s.sec.slots k {}) ∧
    ∀ e ∈ t.pmc.store, e.2.keySlot = c.w 0 → e.2.doomed = true

/-- R268, R297, R318: RES_SPLIT of one die waits for its frame, and window space that it adds reads as zero; PUBLISH takes
the lowest free entry, or lengthens the lease of the entry of the same range, or with a length of zero makes none and answers
a free number (log entry 122); HBM_COPY of a range that no plate writes and no lease covers starts with its corridor merged into the
running banks, or is refused with E_PLATE_SLOTS where it does not fit (R243; which cycles it takes is free: log entries 62, 63). -/
def Sys2Proof.Claims.VilsalMemory : Prop :=
  (∀ s c, Accepted .resSplit s c →
    let win := bits (c.w 0) 8 4
    let r := bits (c.w 0) 0 8
    let f := c.frame 1
    win ≤ 8 → r < 48 → s.windowUsed f r win = false → s.inTime f → (s.getStack r).winNext = none →
      Ends .resSplit s fun t => Reply s t c 0 [] ∧ Only [.stack, .mem, .poison, .undef, .flips, .fab, .pmc, .site, .resp] s t ∧
        t.fab = { s.fab with remotes := t.fab.remotes } ∧
        t.getStack r = { s.getStack r with winNext := some (win, f) } ∧
        (∀ h, h ≠ r → t.getStack h = s.getStack h) ∧
        ∀ a, t.byte a = if winBase r + (s.getStack r).win * 0x1000000 ≤ a ∧ a < winBase r + win * 0x1000000
          then 0 else s.byte a) ∧
  (∀ s c, Accepted .publish s c →
    let a := c.w64 0
    let len := c.w64 2
    let f := c.frame 5
    let stop := f + BitVec.ofNat 64 (c.w 4) - 1
    let same := s.fab.pub.find? fun e => s.pubActive e.2 && e.2.base = a && e.2.len = len
    a % 2048 = 0 → len % 2048 = 0 → len ≠ 0 → s.inPoolOrWindow a len = true → c.w 4 ≠ 0 →
    (∀ w ∈ s.writerRegions, overlap w.1 w.2 a len = false) → s.hallFrame.toNat + 2 ≤ f.toNat →
      (same = none → (∃ i, i < 64 ∧ ∀ e ∈ s.fab.pub, e.1 = i → s.pubActive e.2 = false) → Ends .publish s fun t =>
        Only [.fab, .pmc, .site, .resp] s t ∧ ∃ i, i < 64 ∧ (∀ e ∈ s.fab.pub, e.1 = i → s.pubActive e.2 = false) ∧
          (∀ j, j < i → ∃ e ∈ s.fab.pub, e.1 = j ∧ s.pubActive e.2 = true) ∧ Reply s t c 0 [BitVec.ofNat 32 i] ∧
          (i, { base := a, len := len, start := f, stop := stop }) ∈ t.fab.pub ∧
          (∀ e ∈ s.fab.pub, e.1 ≠ i → e ∈ t.fab.pub) ∧ t.fab = { s.fab with pub := t.fab.pub }) ∧
      (same = none → (∀ i, i < 64 → ∃ e ∈ s.fab.pub, e.1 = i ∧ s.pubActive e.2 = true) →
        Finishes .publish s c 0x0B07 [] s) ∧
      (∀ e, same = some e → Finishes .publish s c 0 [BitVec.ofNat 32 e.1] { s with fab := { s.fab with
        pub := s.fab.pub.map (fun y =>
          if y.1 = e.1 then (y.1, { e.2 with stop := if e.2.stop < stop then stop else e.2.stop }) else y) } })) ∧
  (∀ s c, Accepted .publish s c → c.w64 0 % 2048 = 0 → c.w64 2 = 0 → c.w 4 ≠ 0 →
    s.hallFrame.toNat + 2 ≤ (c.frame 5).toNat → Ends .publish s fun t =>
      Only [.pmc, .site, .resp, .fresh] s t ∧ ∃ x, Reply s t c 0 [x]) ∧
  ∀ s c, Accepted .hbmCopy s c →
    let off := c.w64 0
    let dst := c.w64 2
    let len := c.w64 4
    off % 4096 = 0 → dst % 2048 = 0 → len % 2048 = 0 → off + len ≤ s.winSize c.site → len ≠ 0 → s.inPool dst len = true →
    (∀ w ∈ s.writerRegions, overlap w.1 w.2 dst len = false) →
    (∀ e ∈ s.fab.pub, s.pubActive e.2 = true → overlap e.2.base e.2.len dst len = false) →
      let k : Copy := { site := c.site, mb := c.mb, src := off, dst := dst, len := len }
      let legs := (s.copyFrom k).flatMap fun a => (copyTo k).map fun z => (⟨.res a, .res z, 64, none⟩ : Leg)
      match s.addCorridor 3 legs with
      | none => Finishes .hbmCopy s c 0x0909 [] s
      | some u => Only [.pmc, .rtr, .fresh] s u ∧ Ends .hbmCopy s fun t =>
          Only [.pmc, .site] u t ∧ t.pmc = { u.pmc with copy := some k } ∧
          ((t.getSite c.site).box c.mb).owner = ((s.getSite c.site).box c.mb).owner

/-- R452, R456: FW_UPDATE of a target that is not busy answers the status of its checks: the package's SEQ where they
pass, the target's status where they fail; a busy target refuses it with E_FW_BUSY; a package of no bytes is a no-op (R10: log entry
129). -/
def Sys2Proof.Claims.VilsalFirmware : Prop :=
  ∀ s c, Accepted .fwUpdate s c → c.w64 1 % 4096 = 0 → c.w64 1 + c.w 3 ≤ s.winSize c.site → s.inTime (c.frame 4) →
    let pkg := (s.winTake c.site (c.w64 1) (c.w 3)).1
    let v := s.fwTarget (c.w 0)
    (v.phase = 2 ∨ v.phase = 3 → Finishes .fwUpdate s c 0x1205 [] s) ∧
    (v.phase ≠ 2 → v.phase ≠ 3 → c.w 3 = 0 → Finishes .fwUpdate s c 0 [0] s) ∧
    (v.phase ≠ 2 → v.phase ≠ 3 → c.w 3 ≠ 0 → Ends .fwUpdate s fun t =>
      Only [.core, .boot, .pmc, .site, .resp, .sec, .fresh, .hlt, .fab, .port, .stack] s t ∧
      (s.hallMaster = false → t.fab = s.fab ∧ t.port = s.port) ∧
      (Reply s t c 0 [BitVec.ofNat 32 (manSeq pkg)] ∨
        ∃ st, st ≠ 0 ∧ Reply s t c st [] ∧ (t.fwTarget (c.w 0)).status = BitVec.ofNat 16 st))

namespace Sys2Proof.Machine

/-! ### Descriptors (R74 to R99): what their statements share -/

/-- The sequencer of core `n` would issue descriptor `d`, whose words hold no error and no mark of poison, at index `i`
(R74, R75, R160, R161). -/
def Streams (s : State) (n : Nat) (d : List W32) (i : Nat) : Prop :=
  n < 576 ∧ s.issuing n = true ∧ (s.getCore n).seq.index = i ∧ i < (s.getCore n).seq.len ∧ d = s.fetch n i ∧
    ∀ w ∈ wordsOf (scratchAddr n (64 * ((s.getCore n).seq.base + i))) 64, w ∉ s.poison ∧ ∀ e ∈ s.flips, e.1 ≠ w

/-- No bit error and no mark of poison stands in memory. -/
def State.Clean (s : State) : Prop := s.flips = [] ∧ s.poison = []

/-- What an event of core `n` changes that reads memory: the parts `ps`, and what its reads meet; with nothing wrong in memory no
other core and no stack (R160, R256). -/
def Reading (n : Nat) (ps : List Part) (s t : State) : Prop :=
  Only (.core :: .pmc :: .stack :: ps) s t ∧ (s.Clean → OtherCores n s t ∧ t.stack = s.stack)

/-- The scratch unit of a core but for what reads note: the hazard log, the words the ports serve, and the errors they meet (R160, R163,
R182). -/
def SameScr (c e : Core) : Prop :=
  e.scr = { c.scr with reads := e.scr.reads, hazLog := e.scr.hazLog, hazPtr := e.scr.hazPtr, ports := e.scr.ports,
                        ce := e.scr.ce, ue := e.scr.ue, eccWord := e.scr.eccWord, badUnits := e.scr.badUnits }

/-- Core `d` is core `c` stopped (R78): the hold that stood, and its engines' waits, have counted (R75, R91, R93, R120 to R122, R176). Row
pairs that its vector engine has issued act before it stops (R126). -/
def Halted (c d : Core) : Prop :=
  d.seq.state = .stopped ∧ d.arr.queue = [] ∧ d.ve.queue = [] ∧ d.str.queue = [] ∧ d.seq.pend = [] ∧ d.seq.waiting = none ∧
    d.dma = movingOn c.dma ∧
    (VeIdle c → d = { c.stop with
        cnt := d.cnt
        seq := { c.stop.seq with slipCyc := d.seq.slipCyc, slipTag := d.seq.slipTag, slipRole := d.seq.slipRole
                                 slipSem := d.seq.slipSem } })

/-- The ordinals of a queue rise, up to the last issued. -/
def Ords (q : List Queued) (issued : Nat) : Prop := q.Pairwise (fun a b => a.ord < b.ord) ∧ ∀ x ∈ q, x.ord ≤ issued

/-- One message more is under way, where the control network reaches its destination (R210, R213). -/
def Posted (s t : State) (m : Msg) : Prop :=
  t.mesh = { s.mesh with net := t.mesh.net } ∧
    t.mesh.net = if s.reaches m.src m.dest then s.mesh.net ++ [m] else s.mesh.net

/-- The first message under way that `p` accepts is received; nothing else of the mesh changes. -/
def Received (s t : State) (p : Msg → Bool) : Prop :=
  t.mesh = { s.mesh with net := t.mesh.net } ∧ ∃ i, s.mesh.net.findIdx? p = some i ∧ t.mesh.net = s.mesh.net.eraseIdx i

/-- A class 1 message that came late counts at its quadrant node (R212, R219). -/
def CtlLate (s t : State) (q : Nat) (late : Bool) : Prop :=
  t.getQuad q = (if late then { s.getQuad q with ctlLate := min ((s.getQuad q).ctlLate + 1) 0xFFFF } else s.getQuad q) ∧
    ∀ p, p ≠ q → t.getQuad p = s.getQuad p

/-- KIND and OP of the descriptor that each issue command takes (R79). -/
def kindOf (i : Instr) (d : List W32) : Prop :=
  match i with
  | .dmaGet _ => dKind d = 1 ∧ flag d 0 15 = false
  | .dmaPut _ => dKind d = 1 ∧ flag d 0 15 = true
  | .array _ => dKind d = 2
  | .ve _ => dKind d = 3
  | .strainerExact _ => dKind d = 4 ∧ stOp d ≠ 2 ∧ stOp d ≠ 3
  | .strainerPredict _ => dKind d = 4 ∧ stOp d = 2
  | .strainerKeep _ => dKind d = 4 ∧ stOp d = 3
  | .semWait _ => dKind d = 5
  | .semSignal _ => dKind d = 6
  | .slotPhase _ => dKind d = 7
  | .notice _ => dKind d = 8
  | .mark _ => dKind d = 9
  | .endDesc _ => dKind d = 10
  | _ => False

/-- The commands that issue a descriptor of core `n`. -/
def issueCommands (n : Nat) : List Instr :=
  [.dmaGet n, .dmaPut n, .array n, .ve n, .strainerExact n, .strainerPredict n, .strainerKeep n, .semWait n,
    .semSignal n, .slotPhase n, .notice n, .mark n, .endDesc n]

/-- What R78 leaves of a core that rejects a descriptor whose word 0 is `w0` at index `i`. Row pairs that its vector engine has issued
act before it stops (R126), and may find errors. -/
def Rejected (s t : State) (n code w0 i : Nat) : Prop :=
  let c := s.getCore n
  let d := t.getCore n
  Only [.core, .pmc, .stack, .fresh] s t ∧ (VeIdle c → Only [.core, .pmc] s t ∧ OtherCores n s t ∧ d.ve.regs = c.ve.regs) ∧
    d.seq.faultInfo = word [(code, 16, 16), (bits w0 16 8, 8, 8), (bits w0 28 4, 4, 4)] ∧
    d.seq.faultIdx = word [(s.pmc.frame.toNat % 65536, 16, 16), (i, 0, 15)] ∧
    tget d.cnt.now 0x012C 0 = tget c.cnt.now 0x012C 0 + 1 ∧ d.ccb.fault.getLsbD 5 = true ∧
    (c.ccb.state = .ready ∨ c.ccb.state = .running → d.ccb.state = .faulted) ∧
    d.arr.queue = [] ∧ d.ve.queue = [] ∧ d.str.queue = [] ∧ d.seq.pend = [] ∧ d.seq.waiting = none ∧
    d.seq.state = .stopped ∧ d.scr.sem = c.scr.sem ∧ d.arr.acc = c.arr.acc

/-- What an issue does to the sequencer (R75). -/
def Issued (s t : State) (n i : Nat) : Prop :=
  let c := s.getCore n
  let d := t.getCore n
  d.seq.index = i + 1 ∧ tget d.cnt.now 0x0118 0 = tget c.cnt.now 0x0118 0 + 1 ∧ c.seq.nextIssue + 4 ≤ d.seq.nextIssue

/-- One descriptor more waits in an engine's queue; the descriptors before it, and their order, are as they were. -/
def Appended (q r : List Queued) (d : List W32) (i : Nat) : Prop :=
  r.map (·.desc) = q.map (·.desc) ++ [d] ∧ r.map (·.index) = q.map (·.index) ++ [i]

end Sys2Proof.Machine

/-- R77, R78, R161: a descriptor of an unused KIND is rejected with E_DESC_KIND, and one fetched poisoned with
E_SCR_POISON and POISON_IN, each poisoned word counted, whichever command issues it. -/
def Sys2Proof.Claims.DescriptorKindAndPoison : Prop :=
  ∀ (i : Instr) (n k : Nat) (s : State), i ∈ issueCommands n → n < 576 → s.issuing n = true →
    (s.getCore n).seq.index = k → k < (s.getCore n).seq.len →
    (s.getCore n).seq.base + k < 262144 →
    let d := s.fetch n k
    let a := scratchAddr n (64 * ((s.getCore n).seq.base + k))
    let clean := s.poisoned a 64 = false
    (clean → dKind d = 0 ∨ 11 ≤ dKind d → Ends i s fun t => Rejected s t n 0x0301 (dw d 0) k) ∧
    (¬ clean → Ends i s fun t => Rejected s t n 0x0702 (dw d 0) k ∧ (t.getCore n).ccb.fault.getLsbD 7 = true ∧
      tget (t.getCore n).cnt.now 0x053C 0 = tget (s.getCore n).cnt.now 0x053C 0 +
        BitVec.ofNat 32 ((wordsOf a 64).filter s.wordBad).length)

/-- R77, R78: a descriptor of each KIND that fails a check, with the queue it enters not full and no phase armed, is
rejected with the status of the first check that fails. -/
def Sys2Proof.Claims.DescriptorChecks : Prop :=
  ∀ (n k code : Nat) (d : List W32) (s : State), Streams s n d k →
    let c := s.getCore n
    let R := fun (i : Instr) => kindOf i d → Ends i s fun t => Rejected s t n code (dw d 0) k
    (dmCheck s n d = some code → c.dma.length < 16 → R (.dmaGet n) ∧ R (.dmaPut n)) ∧
    (arCheck c s.pmc.frame d = some code → (aqRoom c.arr.queue (c.seq.ready 0)).isSome = true → R (.array n)) ∧
    (veCheck c d = some code → c.vqFill < 4 → R (.ve n)) ∧
    (stCheck c s.pmc.frame d = some code → c.str.queue.length < 4 →
      R (.strainerExact n) ∧ R (.strainerPredict n) ∧ R (.strainerKeep n)) ∧
    (swCheck d = some code → R (.semWait n)) ∧
    (ssCheck s n d = some code → fld d 0 0 4 = 0 ∨ c.seq.pend.length < 8 → R (.semSignal n)) ∧
    (spCheck (s.getRtr n) d = some code → (s.getRtr n).armed = none → R (.slotPhase n)) ∧
    (fld d 0 8 8 ≠ 0 → code = 0x0002 → R (.notice n)) ∧
    (fld d 0 12 3 ≠ 0 → fld d 0 0 4 = 0 → code = 0x0002 → R (.mark n)) ∧
    (fld d 0 12 3 ≠ 0 → code = 0x0002 → R (.endDesc n))

/-- R75, R81, R86, R124, R138: a valid descriptor enters its engine's queue at the end, and nothing else of the core but
its sequencer and counters changes (an ARRAY or build on a context counts in the context; an ARRAY may load its first block
at once); at a full queue the sequencer holds it. -/
def Obligations.EngineIssue : Prop :=
  ∀ (n k : Nat) (d : List W32) (s : State), Streams s n d k →
    let c := s.getCore n
    let held := fun (t : State) => t = s.setCore n { c with seq := { c.seq with state := .waitQueue } }
    (∀ i ∈ [Instr.dmaGet n, .dmaPut n], kindOf i d →
      (16 ≤ c.dma.length → Ends i s held) ∧
      (c.dma.length < 16 → dmCheck s n d = none → Ends i s fun t =>
        Only [.core] s t ∧ OtherCores n s t ∧ Issued s t n k ∧ Appended c.dma (t.getCore n).dma d k ∧
        t.getCore n = { c with
          seq := (t.getCore n).seq, cnt := (t.getCore n).cnt, dma := (t.getCore n).dma, dmaIssued := c.dmaIssued + 1 })) ∧
    (kindOf (.array n) d →
      (aqRoom c.arr.queue (c.seq.ready 0) = none → Ends (.array n) s held) ∧
      ((aqRoom c.arr.queue (c.seq.ready 0)).isSome = true → arCheck c s.pmc.frame d = none → Ends (.array n) s fun t =>
        Reading n [] s t ∧ Issued s t n k ∧ Appended c.arr.queue (t.getCore n).arr.queue d k ∧
        (t.getCore n).arr.issued = c.arr.issued + 1 ∧ (t.getCore n).arr.acc = c.arr.acc ∧ (t.getCore n).ve = c.ve ∧
        (s.Clean → (t.getCore n).ccb = c.ccb) ∧ SameScr c (t.getCore n) ∧ (t.getCore n).dma = c.dma)) ∧
    (kindOf (.ve n) d →
      (4 ≤ c.vqFill → Ends (.ve n) s held) ∧
      (c.vqFill < 4 → veCheck c d = none → Ends (.ve n) s fun t =>
        Only [.core] s t ∧ OtherCores n s t ∧ Issued s t n k ∧ Appended c.ve.queue (t.getCore n).ve.queue d k ∧
        t.getCore n = { c with
          seq := (t.getCore n).seq, cnt := (t.getCore n).cnt
          ve := { c.ve with queue := (t.getCore n).ve.queue, issued := c.ve.issued + 1 } })) ∧
    ∀ i ∈ [Instr.strainerExact n, .strainerPredict n, .strainerKeep n], kindOf i d →
      (4 ≤ c.str.queue.length → Ends i s held) ∧
      (c.str.queue.length < 4 → stCheck c s.pmc.frame d = none → Ends i s fun t =>
        Only [.core] s t ∧ OtherCores n s t ∧ Issued s t n k ∧ Appended c.str.queue (t.getCore n).str.queue d k ∧
        (t.getCore n).str.issued = c.str.issued + 1 ∧
        (stOp d = 3 → (t.getCore n).str.ctx = c.str.ctx) ∧
        (stOp d ≠ 3 → (tget (t.getCore n).str.ctx (stCtx d) {}).built = some s.pmc.frame ∧
          (tget (t.getCore n).str.ctx (stCtx d) {}).arrays = 0) ∧
        t.getCore n = { c with
          seq := (t.getCore n).seq, cnt := (t.getCore n).cnt
          str := { c.str with
            queue := (t.getCore n).str.queue, issued := (t.getCore n).str.issued, ctx := (t.getCore n).str.ctx } })

/-- R88, R175, R176: a SEM_WAIT whose COUNT the semaphore holds takes COUNT from it; any other holds the sequencer in
WAIT_SEM until the semaphore satisfies it, and then takes COUNT. -/
def Sys2Proof.Claims.SemaphoreWait : Prop :=
  (∀ (n k : Nat) (d : List W32) (s : State), Streams s n d k → kindOf (.semWait n) d → swCheck d = none →
    let c := s.getCore n
    let sem := fld d 0 4 9
    let count := fld d 1 0 16
    Ends (.semWait n) s fun t =>
      Only [.core] s t ∧ OtherCores n s t ∧ (t.getCore n).seq.index = k + 1 ∧
      (count ≤ tget c.scr.sem sem 0 → (t.getCore n).seq.state = .issuing ∧
        tget (t.getCore n).scr.sem sem 0 = tget c.scr.sem sem 0 - count ∧
        ∀ j, j ≠ sem → tget (t.getCore n).scr.sem j 0 = tget c.scr.sem j 0) ∧
      (tget c.scr.sem sem 0 < count → (t.getCore n).seq.state = .waitSem ∧ (t.getCore n).scr = c.scr ∧
        (t.getCore n).seq.waiting.map (fun w => (w.sem, w.count, w.tag)) = some (sem, count, dTag d) ∧
        tget (t.getCore n).cnt.now 0x0540 0 = tget c.cnt.now 0x0540 0 + 1)) ∧
  ∀ (n : Nat) (w : Waiting) (s : State), n < 576 → (s.getCore n).seq.waiting = some w →
    w.count ≤ tget (s.getCore n).scr.sem w.sem 0 → Ends (.semWaitPass n) s fun t =>
      let d := t.getCore n
      Only [.core] s t ∧ OtherCores n s t ∧ d.seq.state = .issuing ∧ d.seq.waiting = none ∧
      tget d.scr.sem w.sem 0 = tget (s.getCore n).scr.sem w.sem 0 - w.count ∧
      (∀ j, j ≠ w.sem → tget d.scr.sem j 0 = tget (s.getCore n).scr.sem j 0) ∧
      w.since + 4 ≤ d.seq.nextIssue

/-- R89, R174: a SEM_SIGNAL without AFTER adds INC to this core's semaphore at once, saturating at 65,535 with OVERRUN;
with AFTER it is pending, behind those pending, and is sent when its descriptors have completed. With REMOTE it goes to the
target core over the control network, where the SIGNAL that arrives adds INC. -/
def Sys2Proof.Claims.SemaphoreSignal : Prop :=
  (∀ (n k : Nat) (d : List W32) (s : State), Streams s n d k → kindOf (.semSignal n) d → ssCheck s n d = none →
    let c := s.getCore n
    let sem := fld d 0 4 9
    let inc := fld d 1 0 16
    (fld d 0 0 4 = 0 → flag d 0 15 = false → Ends (.semSignal n) s fun t =>
      Only [.core, .pmc] s t ∧ OtherCores n s t ∧ (t.getCore n).seq.index = k + 1 ∧
      tget (t.getCore n).scr.sem sem 0 = min (tget c.scr.sem sem 0 + inc) 65535 ∧
      (∀ j, j ≠ sem → tget (t.getCore n).scr.sem j 0 = tget c.scr.sem j 0) ∧
      (65535 < tget c.scr.sem sem 0 + inc → c.scr.satAt ≠ some (sem, max c.seq.now (c.seq.nextIssue + 4)) →
        (t.getCore n).ccb.fault = c.ccb.fault ||| 8#16) ∧
      (tget c.scr.sem sem 0 + inc ≤ 65535 → (t.getCore n).ccb = c.ccb ∧ t.pmc = s.pmc)) ∧
    (fld d 0 0 4 = 0 → flag d 0 15 = true → Ends (.semSignal n) s fun t =>
      Only [.core, .mesh] s t ∧ OtherCores n s t ∧ (t.getCore n).seq.index = k + 1 ∧ (t.getCore n).scr = c.scr ∧
      ∀ m, m < 576 → s.target n (fld d 2 0 16) = some m → Posted s t
        { type := tySignal, dest := coreQuad m, src := coreQuad n, body := signalBody m sem inc }) ∧
    (fld d 0 0 4 ≠ 0 → c.seq.pend.length < 8 → Ends (.semSignal n) s fun t =>
      Only [.core] s t ∧ OtherCores n s t ∧ (t.getCore n).seq.index = k + 1 ∧ (t.getCore n).scr = c.scr ∧
      (t.getCore n).seq.pend = c.seq.pend ++ [{ desc := d, after := [c.arr.issued, c.ve.issued, c.str.issued, c.dmaIssued] }])) ∧
  (∀ (n slot : Nat) (p : PendingSig) (s : State), n < 576 → (s.getCore n).seq.pend[slot]? = some p → dKind p.desc = 6 →
    (s.getCore n).afterDone p = true → flag p.desc 0 15 = false →
    let sem := fld p.desc 0 4 9
    Ends (.pendingSignalSend n slot) s fun t =>
      Only [.core, .pmc] s t ∧ OtherCores n s t ∧ (t.getCore n).seq.pend = (s.getCore n).seq.pend.eraseIdx slot ∧
      tget (t.getCore n).scr.sem sem 0 = min (tget (s.getCore n).scr.sem sem 0 + fld p.desc 1 0 16) 65535) ∧
  (∀ (n slot m : Nat) (p : PendingSig) (s : State), n < 576 → m < 576 → (s.getCore n).seq.pend[slot]? = some p →
    dKind p.desc = 6 → (s.getCore n).afterDone p = true → flag p.desc 0 15 = true →
    s.target n (fld p.desc 2 0 16) = some m → Ends (.pendingSignalSend n slot) s fun t =>
      Only [.core, .mesh] s t ∧ OtherCores n s t ∧ (t.getCore n).seq.pend = (s.getCore n).seq.pend.eraseIdx slot ∧
      (t.getCore n).scr = (s.getCore n).scr ∧ Posted s t
        { type := tySignal, dest := coreQuad m, src := coreQuad n, body := signalBody m (fld p.desc 0 4 9) (fld p.desc 1 0 16) }) ∧
  ∀ (n sem inc cycle : Nat) (late : Bool) (s : State), n < 576 → sem < 512 → s.underWay (isSignal n sem inc) ≠ none →
    Ends (.signalMessage n sem inc cycle late) s fun t =>
    Only [.core, .pmc, .quad, .mesh] s t ∧ OtherCores n s t ∧ Received s t (isSignal n sem inc) ∧
    CtlLate s t (coreQuad n) late ∧
    ((s.getCore n).ccb.state = .resetting → t.core = s.core ∧
      tget t.pmc.cnt.now 0x0520 0 = tget s.pmc.cnt.now 0x0520 0 + 1) ∧
    ((s.getCore n).ccb.state ≠ .resetting →
      tget (t.getCore n).scr.sem sem 0 = min (tget (s.getCore n).scr.sem sem 0 + inc) 65535 ∧
      ∀ j, j ≠ sem → tget (t.getCore n).scr.sem j 0 = tget (s.getCore n).scr.sem j 0)

/-- R90, R91, R92, R93: SLOT_PHASE arms the router under the core for its round, or poisons it and raises MESH when the
round has begun; with one armed the sequencer waits. NOTICE tells the regulator controller, and holds later array, VE and
Strainer work for its lead. -/
def Sys2Proof.Claims.PhaseAndNotice : Prop :=
  (∀ (n k : Nat) (d : List W32) (s : State), Streams s n d k → kindOf (.slotPhase n) d →
    let c := s.getCore n
    let r := s.getRtr n
    (r.armed ≠ none → Ends (.slotPhase n) s fun t =>
      t = s.setCore n { c with seq := { c.seq with state := .waitPhase } }) ∧
    (r.armed = none → spCheck r d = none → Ends (.slotPhase n) s fun t =>
      let issue := max c.seq.nextIssue (tget c.seq.freed 5 0)
      let round := 1024 * (s.getQuad (coreQuad n)).ratio
      OtherCores n s t ∧ (∀ m, m ≠ n → t.getRtr m = s.getRtr m) ∧ (t.getCore n).seq.index = k + 1 ∧
      (16 * (issue + 4) < round * fld d 1 0 16 → Only [.core, .rtr] s t ∧
        t.getRtr n = { r with armed := some (fld d 0 0 4, fld d 1 0 16) }) ∧
      (round * fld d 1 0 16 ≤ 16 * (issue + 4) → Only [.core, .rtr, .pmc] s t ∧
        (t.getRtr n).poisoning = true ∧ (t.getRtr n).armed = some (fld d 0 0 4, 16 * (issue + 4) / round + 1) ∧
        (t.getCore n).ccb.fault = c.ccb.fault ||| 2#16))) ∧
  ∀ (n k : Nat) (d : List W32) (s : State), Streams s n d k → kindOf (.notice n) d →
    (∀ w, w < 16 → 2 ≤ w → dw d w = 0) → fld d 0 24 4 = 0 → fld d 0 8 8 = 0 → fld d 1 8 24 = 0 →
    let c := s.getCore n
    let delta := toSigned 8 (fld d 0 0 8)
    let lead := if 3 ≤ delta.natAbs then max (fld d 1 0 8) 20 else fld d 1 0 8
    Ends (.notice n) s fun t =>
      Only [.core, .mesh] s t ∧ OtherCores n s t ∧
      Posted s t { type := tyNotice, dest := coreQuad n, src := coreQuad n, body := [noticeBody (coreSlot n) delta lead] } ∧
        (t.getCore n).seq.index = k + 1 ∧
      (t.getCore n).seq.noticeUsed = s.clk.used ∧ (t.getCore n).seq.noticeUntil =
        max (s.noticeEnd n) (c.seq.nextIssue + (lead * 250 * (s.getQuad (coreQuad n)).ratio + 15) / 16)

/-- R94, R95, R101, R53: MARK writes four words at CORE_MARK_PTR, at once or when its descriptors have completed; END
waits for the core's engines, and then the core is done with its cycle recorded; a core that ends late is LATE. -/
def Sys2Proof.Claims.MarksAndEnd : Prop :=
  (∀ (n k : Nat) (d : List W32) (s : State), Streams s n d k → kindOf (.mark n) d → flag d 0 15 = false →
    (∀ w, w < 16 → 2 ≤ w → dw d w = 0) → fld d 0 24 4 = 0 → fld d 0 12 3 = 0 → fld d 0 4 4 = 0 → fld d 1 24 8 = 0 →
    let c := s.getCore n
    (fld d 0 0 4 = 0 → Ends (.mark n) s fun t =>
      let e := t.getCore n
      let p := 4 * c.seq.markPtr
      Only [.core] s t ∧ OtherCores n s t ∧ e.seq.index = k + 1 ∧ e.seq.markPtr = (c.seq.markPtr + 1) % 16 ∧
      tget e.seq.markLog p 0 = word [(dTag d, 24, 8), (fld d 1 0 24, 0, 24)] ∧
      tget e.seq.markLog (p + 1) 0 = BitVec.ofNat 32 (max c.seq.now (c.seq.nextIssue + 4)) ∧
      tget e.seq.markLog (p + 2) 0 = s.pmc.frame.setWidth 32 ∧
      tget e.seq.markLog (p + 3) 0 = (s.pmc.frame >>> 32).setWidth 32 ∧
      ∀ j, j < p ∨ p + 4 ≤ j → tget e.seq.markLog j 0 = tget c.seq.markLog j 0) ∧
    (fld d 0 0 4 ≠ 0 → c.seq.pend.length < 8 → Ends (.mark n) s fun t =>
      Only [.core] s t ∧ OtherCores n s t ∧ (t.getCore n).seq.markPtr = c.seq.markPtr ∧
      (t.getCore n).seq.pend = c.seq.pend ++ [{ desc := d, after := [c.arr.issued, c.ve.issued, c.str.issued, c.dmaIssued] }])) ∧
  (∀ (n slot : Nat) (p : PendingSig) (s : State), n < 576 → (s.getCore n).seq.pend[slot]? = some p → dKind p.desc = 9 →
    (s.getCore n).afterDone p = true → Ends (.markEntryWrite n slot) s fun t =>
      Only [.core, .mesh] s t ∧ (flag p.desc 0 15 = false → t.mesh = s.mesh) ∧ OtherCores n s t ∧
        (t.getCore n).seq.pend = (s.getCore n).seq.pend.eraseIdx slot ∧
      (t.getCore n).seq.markPtr = ((s.getCore n).seq.markPtr + 1) % 16) ∧
  (∀ (n k : Nat) (d : List W32) (s : State), Streams s n d k → kindOf (.endDesc n) d → flag d 0 15 = false →
    (∀ w, w < 16 → 2 ≤ w → dw d w = 0) → fld d 0 24 4 = 0 → fld d 0 12 3 = 0 → fld d 0 0 8 = 0 → fld d 1 24 8 = 0 →
    Ends (.endDesc n) s fun t =>
      Only [.core] s t ∧ OtherCores n s t ∧ (t.getCore n).seq.state = .inEnd ∧ (t.getCore n).seq.endDesc = some d ∧
      (t.getCore n).seq.index = k + 1) ∧
  (∀ (n : Nat) (d : List W32) (s : State), n < 576 → (s.getCore n).seq.endDesc = some d → (s.getCore n).arr.queue = [] →
    (s.getCore n).ve.queue = [] → (s.getCore n).str.queue = [] → (s.getCore n).dma = [] → (s.getCore n).seq.pend = [] →
    let c := s.getCore n
    Ends (.endComplete n) s fun t =>
      Only [.core, .pmc, .mesh] s t ∧ (flag d 0 15 = false → t.mesh = s.mesh) ∧ OtherCores n s t ∧
      (t.getCore n).seq.state = .done ∧
      (t.getCore n).seq.endCycle = some c.seq.now ∧
      (c.late = true → (t.getCore n).ccb.fault = c.ccb.fault ||| 0x10#16) ∧
      (c.late = false → (t.getCore n).ccb.fault = c.ccb.fault ∧ t.pmc = s.pmc) ∧
      (flag d 0 15 = true → (t.getCore n).ccb.tokenOut = token (fld d 0 8 4) (fld d 1 0 24) ∧
        (t.getCore n).ccb.emitted = min (c.ccb.emitted + 1) 0xFFFF)) ∧
  ∀ (n : Nat) (s : State), n < 576 → s.issuing n = true → (s.getCore n).seq.len ≠ 0 →
    (s.getCore n).seq.len ≤ (s.getCore n).seq.index → Ends (.descStreamEnd n) s fun t =>
      Only [.core, .pmc, .stack, .fresh] s t ∧ (VeIdle (s.getCore n) → Only [.core, .pmc, .fresh] s t ∧ OtherCores n s t) ∧
      bits (t.getCore n).seq.faultInfo.toNat 16 16 = 0x0308 ∧
      (t.getCore n).seq.faultIdx = word [(s.pmc.frame.toNat % 65536, 16, 16), ((s.getCore n).seq.len, 0, 15)] ∧
      (t.getCore n).seq.state = .stopped ∧ (t.getCore n).ccb.fault.getLsbD 5 = true

/-- R70 to R72, R109, R110, R121, R498: the window of the next ARRAY opens with its first block when nothing holds it, the
weights swap for each further block, and the ARRAY that completes leaves the queue: its block sums go to the accumulators
in order, and its tiles to the finished-tile queue with PUSH. Memory does not change. -/
def Obligations.ArrayEvents : Prop :=
  (∀ (n : Nat) (q : Queued) (s : State), n < 576 → Ords (s.getCore n).arr.queue (s.getCore n).arr.issued →
    let v := (s.settle n 5).getCore n
    v.arr.queue.find? arrayWaits = some q → v.loadable q = true → heldFor v q = false → (∀ x, fullSince v q x = none) →
    Ends (.arrayIssueStart n) s fun t =>
      let c := s.getCore n
      let e := t.getCore n
      Reading n [.fresh] s t ∧ e.arr.queue.map (·.desc) = c.arr.queue.map (·.desc) ∧
      e.arr.acc = c.arr.acc ∧ e.ve = c.ve ∧ SameScr c e ∧
      ∃ r ∈ e.arr.queue, r.desc = q.desc ∧ r.ord = q.ord ∧ r.started = true ∧ r.progress = 1 ∧
        (c.arr.loadFor ≠ some (q.ord, 0) → q.entered + 8 ≤ r.start)) ∧
  (∀ (n : Nat) (q : Queued) (s : State), n < 576 →
    (s.getCore n).arr.queue.find? (fun q => q.started && q.progress < q.blocks) = some q → q.stallFrom = none →
    (∀ x, fullSince (s.getCore n) q x = none) → Ends (.weightSwap n) s fun t =>
      let c := s.getCore n
      let e := t.getCore n
      Reading n [.fresh] s t ∧ e.arr.queue.map (·.desc) = c.arr.queue.map (·.desc) ∧
      e.arr.acc = c.arr.acc ∧ e.ve = c.ve ∧ SameScr c e ∧
      ∃ r ∈ e.arr.queue, r.desc = q.desc ∧ r.ord = q.ord ∧ r.progress = q.progress + 1 ∧ q.start + q.vecs ≤ r.start) ∧
  ∀ (n : Nat) (q : Queued) (rest : List Queued) (s : State), n < 576 → (s.getCore n).arr.queue = q :: rest →
    q.noWindow = true ∨ q.closed = true → q.stallFrom = none →
    (s.getCore n).ve.ftq.length + (if arZero q.desc then 0 else pushes q.desc) ≤ 4 →
    Ends (.arrayComplete n) s fun t =>
      let c := s.getCore n
      let e := t.getCore n
      let need := if arZero q.desc then 0 else pushes q.desc
      Only [.core, .pmc] s t ∧ OtherCores n s t ∧ e.arr.queue.map (·.desc) = rest.map (·.desc) ∧
      e.arr.done = c.arr.done + 1 ∧ e.arr.acc = (if q.noWindow then c.arr.acc else accWrite c.arr.acc q) ∧
      e.ve.ftq.length = c.ve.ftq.length + need ∧
      e.ve.ftq.map (fun x => (x.1, x.2.1)) = c.ve.ftq.map (fun x => (x.1, x.2.1)) ++
        (if need = 0 then [] else (arrayTiles q.desc).map fun x => (x, dTag q.desc)) ∧
      e.ve.queue = c.ve.queue ∧
      (flag q.desc 15 31 = false → Only [.core] s t ∧ e.scr = c.scr ∧ e.ccb = c.ccb) ∧
      (flag q.desc 15 31 = true → flag q.desc 15 30 = false → tget e.scr.sem (fld q.desc 15 16 9) 0 =
        min (tget c.scr.sem (fld q.desc 15 16 9) 0 + fld q.desc 15 0 8) 65535)

/-- R121, R123, R126, R131, R136, R163: a VE descriptor whose program, source and predecessor are ready starts, as late as the port
holds its fetches (the order in which a port presents requests: DESIGN CHOICE, log entry 14); an infusion fetched
poisoned or invalid stops the core; each release moves the descriptor on by one tile, and takes the head of the finished-tile
queue where that is its source. -/
def Sys2Proof.Claims.VeRows : Prop :=
  (∀ (n : Nat) (q : Queued) (x : Nat × Nat) (s : State), n < 576 →
    let c := s.getCore n
    let d := q.desc
    c.ve.queue.find? veWaits = some q → c.veStart q 0 0 = some x → (∀ b ∈ c.ve.queue, b.badProg = false) →
    Ends (.veRowsStart n) s fun t =>
      let e := t.getCore n
      let fetch := s.portRead n (touchBy pVe (fld d 1 24 8) q.index) q.entered (q.entered + 12) (s.veProgWords n d)
      let table := if flag d 0 9 then (fetch.2.2.loadLut n q (max q.entered c.ve.lastDone)).1 else 0
      Reading n [] s t ∧ e.ve.queue.map (·.desc) = c.ve.queue.map (·.desc) ∧ (s.Clean → e.ccb = c.ccb) ∧ e.arr = c.arr ∧
      (∃ y ∈ e.ve.queue, y.desc = d ∧ y.started = true ∧ (c.veStart q fetch.1 table).map (·.2) = some y.start ∧
        q.entered + 12 ≤ y.start) ∧
      (flag d 0 10 = true → e.ve.regs = []) ∧ (flag d 0 10 = false → e.ve.regs = c.ve.regs)) ∧
  (∀ (n : Nat) (q b : Queued) (s : State), n < 576 →
    let c := s.getCore n
    c.ve.queue.find? veWaits = some q → c.ve.queue.find? Queued.badProg = some b →
    (∀ x, c.veStart q 0 0 = some x → b.ord = q.ord ∨ b.entered + 12 ≤ x.2) → Ends (.veRowsStart n) s fun t =>
      let code := if b.bad ≠ 0 then 0x0702 else 0x0501
      Reading n [.fresh] s t ∧ (s.Clean → Rejected s t n code (dw b.desc 0) b.index) ∧ (t.getCore n).ve.queue = [] ∧
      bits (t.getCore n).seq.faultInfo.toNat 16 16 = code ∧
      (b.bad ≠ 0 → (t.getCore n).ccb.fault.getLsbD 7 = true) ∧
      (b.bad = 0 → (t.getCore n).ve.faultInfo =
        word [(0x0501, 16, 16), (dTag b.desc, 8, 8), (b.invalid.getD 0, 0, 6)])) ∧
  ∀ (n : Nat) (q : Queued) (s : State), n < 576 →
    let c := s.getCore n
    c.ve.queue.find? veRuns = some q → Ends (.veRelease n) s fun t =>
      let e := t.getCore n
      Reading n [.fresh] s t ∧ e.ve.queue.map (·.desc) = c.ve.queue.map (·.desc) ∧
      (∃ x ∈ e.ve.queue, x.desc = q.desc ∧ x.ord = q.ord ∧ x.progress = q.progress + 1) ∧
      (veSrc q.desc = 0 → e.ve.ftq = c.ve.ftq.drop 1) ∧ (veSrc q.desc ≠ 0 → e.ve.ftq = c.ve.ftq) ∧
      e.arr.acc = c.arr.acc ∧
      tget e.cnt.now 0x0410 0 = tget c.cnt.now 0x0410 0 + BitVec.ofNat 32 (veRp q.desc - q.rows)

/-- R126, R134, R135, R498: the VE descriptor that completes leaves the queue. Of memory only words of the buffers that
its output, scale and zero-map handles name can change, and nothing for a zero count. -/
def Sys2Proof.Claims.VeCompletes : Prop :=
  ∀ (n : Nat) (q : Queued) (rest : List Queued) (s : State), n < 576 → (s.getCore n).ve.queue = q :: rest →
    veZero q.desc = true ∨ (q.started = true ∧ q.progress = veNt q.desc) → Ends (.veComplete n) s fun t =>
      let d := q.desc
      Reading n [.mem, .poison, .undef, .flips, .fresh] s t ∧ (t.getCore n).ve.queue.map (·.desc) = rest.map (·.desc) ∧
      (t.getCore n).ve.done = (s.getCore n).ve.done + 1 ∧ (t.getCore n).arr.acc = (s.getCore n).arr.acc ∧
      (t.getCore n).arr.queue = (s.getCore n).arr.queue ∧
      (veZero d = true → Only [.core, .pmc] s t ∧ (t.getCore n).ve.queue = rest) ∧
      ∀ a, (∀ h ∈ [fld d 2 24 8, fld d 2 8 8, fld d 2 16 8], ∀ o,
          ¬ (s.bufAddr n h o ≤ a ∧ a < s.bufAddr n h o + 32)) → t.byte a = s.byte a

/-- R139, R140, R142, R147, R155: the head of the Strainer queue starts once earlier ARRAYs of its context have completed,
and writes nothing yet; when it completes it leaves the queue, its bytes are written, and no other byte changes; a build
makes its context ready. -/
def Obligations.StrainerEvents : Prop :=
  (∀ (n : Nat) (q : Queued) (rest : List Queued) (s : State), n < 576 → (s.getCore n).str.queue = q :: rest →
    q.started = false →
    (stOp q.desc ≠ 3 → ∀ a ∈ (s.getCore n).arr.queue,
      ¬ (flag a.desc 0 7 = true ∧ fld a.desc 11 8 8 = stCtx q.desc ∧ a.index < q.index)) →
    Ends (.strainerBuildStart n) s fun t =>
      let e := t.getCore n
      Reading n [] s t ∧ e.arr = (s.getCore n).arr ∧ SameScr (s.getCore n) e ∧
      ∃ r, e.str.queue = r :: rest ∧ r.desc = q.desc ∧ r.index = q.index ∧ r.started = true ∧ q.entered ≤ r.start ∧
        (s.getCore n).str.lastDone ≤ r.start) ∧
  ∀ (n : Nat) (q : Queued) (rest : List Queued) (s : State), n < 576 → (s.getCore n).str.queue = q :: rest →
    q.started = true → Ends (.strainerComplete n) s fun t =>
      let e := t.getCore n
      Only [.core, .mem, .poison, .undef, .flips, .pmc, .stack] s t ∧ e.str.queue = rest ∧
      (s.Clean → stOp q.desc = 3 ∨ q.badWords = [] → OtherCores n s t ∧ t.stack = s.stack) ∧
      e.str.done = (s.getCore n).str.done + 1 ∧
      e.str.lastDone = strFinish (s.getCore n) q +
        (if stOp q.desc = 3 then 0 else 2 * (s.strPorts n q (strFinish (s.getCore n) q)).1) ∧
      (stOp q.desc = 3 → t.mem = s.mem) ∧ (stOp q.desc ≠ 3 →
        (tget e.str.ctx (stCtx q.desc) {}).ready = some q.index ∧
        ∀ a, (∀ w ∈ q.writes, w.1 ≠ a) → t.byte a = s.byte a)

/-- R76, R87, R186, R498, R168, R78: a GET that has all its beats writes them through its handle and leaves the queue; a
zero-count transfer leaves it with no effect but its signal, a remote one too; a PUT leaves it with its last acknowledgement; a
NAK stops the core with the status it carries. Transfers of one stream leave in order. -/
def Obligations.DmaEvents : Prop :=
  (∀ (n slot cycle : Nat) (q : Queued) (s : State), n < 576 → (s.getCore n).dma[slot]? = some q →
    dmZero q.desc = true → (∀ z ∈ (s.getCore n).dma.take slot, dmStream z.desc ≠ dmStream q.desc) →
    let d := q.desc
    let alone := ∀ z ∈ (s.getCore n).dma.eraseIdx slot, dmStream z.desc = dmStream d → (s.getCore n).allAcked z = false
    Ends (.dmaComplete n slot cycle) s fun t =>
      Only [.core, .pmc, .quad] s t ∧ (dmPut d && flag d 15 31 && flag d 15 30 = false → OtherCores n s t) ∧
      (alone → (t.getCore n).dma = (s.getCore n).dma.eraseIdx slot ∧ (t.getCore n).dmaDone = (s.getCore n).dmaDone + 1) ∧
      (alone → q.poisoned = false → dmPut d = true → flag d 15 31 = true → flag d 15 30 = true → ∀ m x,
        s.unitAt (dmAddr d) = some (.core m, x) → (s.getCore m).ccb.state ≠ .resetting →
        (∀ k, k ≠ n → k ≠ m → t.getCore k = s.getCore k) ∧ tget (t.getCore m).scr.sem (fld d 15 16 9) 0 =
          min (tget (s.getCore m).scr.sem (fld d 15 16 9) 0 + fld d 15 0 8) 65535)) ∧
  (∀ (n slot cycle : Nat) (q : Queued) (s : State), n < 576 → (s.getCore n).dma[slot]? = some q →
    let d := q.desc
    let port := tget s.mesh.core n {}
    dmZero d = false → dmPut d = false → q.started = true → (s.getCore n).getIsNext q = true →
    (∀ z ∈ (s.getCore n).dma.take slot, dmStream z.desc ≠ dmStream d) → (∀ t ∈ port.xfers, t.stream ≠ dmRstream d) →
    dmBeats d ≤ (port.rx.filter (isData (dmRstream d))).length → Ends (.dmaComplete n slot cycle) s fun t =>
      Only [.core, .mesh, .mem, .poison, .undef, .flips, .pmc, .quad] s t ∧ OtherCores n s t ∧
      ((∀ z ∈ (s.getCore n).dma.eraseIdx slot, dmStream z.desc = dmStream d → (s.getCore n).allAcked z = false) →
        (t.getCore n).dma = (s.getCore n).dma.eraseIdx slot ∧ (t.getCore n).dmaDone = (s.getCore n).dmaDone + 1) ∧
      (∀ a, (∀ p, a ≠ scratchAddr n (((s.getCore n).cad (dmHandle d)).phys (localAt d p))) → t.byte a = s.byte a) ∧
      t.mesh.flights = s.mesh.flights ∧ (tget t.mesh.core n {}).tx = port.tx ∧
      (tget t.mesh.core n {}).rx.length = port.rx.length - dmBeats d) ∧
  (∀ (n slot cycle : Nat) (late : Bool) (m : Msg) (q : Queued) (s : State), n < 576 → (s.getCore n).dma[slot]? = some q →
    Ords (s.getCore n).dma (s.getCore n).dmaIssued →
    (∀ z ∈ (s.getCore n).dma, dmStream z.desc = dmStream q.desc → (s.getCore n).allAcked z = false) →
    s.underWay ((s.getCore n).ackFor n slot false) = some m → Ends (.dmaAck n slot ⟨cycle, late⟩) s fun t =>
      let c := s.getCore n
      let all := dmPut q.desc = true ∧ tget c.mcast (dmStream q.desc) 1 ≤ q.acks.length + 1 ∧
        ∀ z ∈ c.dma.take slot, dmStream z.desc ≠ dmStream q.desc
      Only [.core, .pmc, .quad, .mesh] s t ∧ OtherCores n s t ∧ Received s t (c.ackFor n slot false) ∧
      (¬ all → (t.getCore n).dma.map (·.desc) = c.dma.map (·.desc) ∧ (t.getCore n).dmaDone = c.dmaDone ∧
        ((t.getCore n).dma[slot]?).map (·.acks.length) = some (q.acks.length + 1)) ∧
      (all → (t.getCore n).dma = c.dma.eraseIdx slot ∧ (t.getCore n).dmaDone = c.dmaDone + 1)) ∧
  ∀ (n slot : Nat) (st : Status) (late : Bool) (q : Queued) (s : State), n < 576 → (s.getCore n).dma[slot]? = some q →
    let p := fun m : Msg => (s.getCore n).ackFor n slot true m && (ackFields m).2.2.2.2 = st.toNat
    s.underWay p ≠ none → Ends (.dmaNak n slot ⟨st, late⟩) s fun t =>
      Rejected { s with mesh := t.mesh, quad := t.quad } t n st.toNat (dw q.desc 0) q.index ∧ Received s t p ∧
      CtlLate s t (coreQuad n) late

/-! ### The control network (R48, R211 to R215, R285, R301, R340, R454) -/

/-- R48, R364: SHUTTER_ARM arms a node for the frame and count it carries; a quadrant whose base branch is stopped takes
nothing, and a message that would cross a link that has failed is lost (R213). -/
def Sys2Proof.Claims.ShutterArming : Prop :=
  (∀ (q : Nat) (f k : W64) (s : State), q < 96 →
    exec (.shutterArm (.quad q) f k) s = .next (if s.reaches nodePmc q = false then s
      else if (s.getQuad q).source = 5 then s.setQuad q (s.getQuad q)
      else s.setQuad q { s.getQuad q with armFrame := some (f, k) })) ∧
  ∀ (v : Node) (f k : W64) (s : State), (∃ n, n < 8 ∧ s.fioFitted n = true ∧ v = .fio n) ∨
      (∃ g, g < 2 ∧ s.siteFitted g = true ∧ v = .gate g) → s.reaches nodePmc (nodeId v) = true →
    Ends (.shutterArm v f k) s fun t =>
      Only [.mesh] s t ∧ (nodeRow v, f, k) ∈ t.mesh.armed ∧ (∀ e ∈ t.mesh.armed, e.1 = nodeRow v → e.2 = (f, k)) ∧
      ∀ e, e.1 ≠ nodeRow v → (e ∈ t.mesh.armed ↔ e ∈ s.mesh.armed)

/-- R214: the PMC records the heartbeat of a node that fired this frame's Shutter, and nothing else changes. -/
def Sys2Proof.Claims.Heartbeats : Prop :=
  (∀ (q : Nat) (s : State), q < 96 → (s.getQuad q).fired = true → s.reaches q nodePmc = true →
    exec (.heartbeat (.quad q) s.frame32) s = .next (s.setQuad q { s.getQuad q with heard := true })) ∧
  ∀ (n : Nat) (s : State), n < 8 → s.fioFitted n = true → s.mesh.fired.contains (rowFio n) = true →
    s.reaches (nodeFio n) nodePmc = true → Ends (.heartbeat (.fio n) s.frame32) s fun t =>
      Only [.mesh] s t ∧ rowFio n ∈ t.mesh.heard ∧ (∀ r ∈ s.mesh.heard, r ∈ t.mesh.heard) ∧
      t.mesh = { s.mesh with heard := t.mesh.heard }

/-- R213: a node switches a link to its twin wires: the link carries as before, its row keeps its STATE and takes the reason
TWIN_WIRES; where the twin set fails too the link is cut, both ways; the edges of the panel have no link. -/
def Sys2Proof.Claims.TwinWires : Prop :=
  (∀ (q l r : Nat) (s : State), q < 96 → l < 4 → controlRow q l = some r →
    (s.getQuad q).twin.getLsbD l = false → Ends (.twinSwitch q l) s fun t =>
    Only [.quad, .hlt] s t ∧ (t.getQuad q) = { s.getQuad q with twin := (s.getQuad q).twin ||| BitVec.ofNat 4 (2 ^ l) } ∧
    (∀ p, p ≠ q → t.getQuad p = s.getQuad p) ∧ (t.row r).state = (s.row r).state ∧ (t.row r).reason = 0x2E ∧
    ∀ k, k ≠ r → t.row k = s.row k) ∧
  (∀ (q l r : Nat) (s : State), q < 96 → l < 4 → controlRow q l = some r → (s.getQuad q).twin.getLsbD l = true →
    Ends (.twinSwitch q l) s fun t =>
      Only [.quad] s t ∧ t.getQuad q = { s.getQuad q with cut := (s.getQuad q).cut ||| BitVec.ofNat 4 (2 ^ l) } ∧
      ∀ m, ctlMate q l = some m →
        t.getQuad m.1 = { s.getQuad m.1 with cut := (s.getQuad m.1).cut ||| BitVec.ofNat 4 (2 ^ m.2) }) ∧
  (∀ (q l : Nat) (s : State), q < 96 → l < 4 → controlRow q l = none →
    exec (.twinSwitch q l) s = .fault (.noUnit "control link")) ∧
  controlRow 0 0 = some 6896 ∧ controlRow 0 2 = some 6808 ∧ controlRow 0 1 = none ∧ controlRow 0 3 = none

/-- R211, R340: a load notice waits at the controller of the core's quadrant and counts; the controller keeps at least two
phases switching on a rail that is on, where two are good. -/
def Sys2Proof.Claims.LoadNotices : Prop :=
  ∀ (n lead : Nat) (d : Int) (late : Bool) (s : State), n < 576 →
    let q := coreQuad n
    let p := fun m : Msg => m.type = tyNotice && m.src = q && m.body = [noticeBody (coreSlot n) d lead]
    s.underWay p ≠ none → Ends (.noticeMessage n d ⟨lead, late⟩) s fun t =>
    Only [.quad, .fresh, .mesh] s t ∧ Received s t p ∧
    (t.getQuad q).ctlLate = (if late then min ((s.getQuad q).ctlLate + 1) 0xFFFF else (s.getQuad q).ctlLate) ∧
      (∀ p, p ≠ q → t.getQuad p = s.getQuad p) ∧
    (t.getQuad q).notices = (s.getQuad q).notices ++ [(d, s.nowBase + 250 * lead)] ∧
    tget (t.getQuad q).cnt.now 0x0090 0 = tget (s.getQuad q).cnt.now 0x0090 0 + 1 ∧
    (t.getQuad q).activePh &&& (s.getQuad q).failedPh = 0 ∧ (t.getQuad q).failedPh = (s.getQuad q).failedPh ∧
    ((s.getQuad q).rail = 3 → (s.getQuad q).failedPh = 0 → 2 ≤ popcount (t.getQuad q).activePh) ∧
    ((s.getQuad q).rail ≠ 3 → (t.getQuad q).activePh = 0)

/-- A good express flit arrives at a port, and it is for this panel. `twice` are the words of one that is sent twice, and it is not
the second copy of one that was good (R283). -/
def ForPanel (s : State) (port : Nat) (x : Flit) (twice : List W32 := []) : Prop :=
  port < 32 ∧ x.crcOk = true ∧ x.resv = false ∧ x.dest = s.panelId ∧ (twice ≠ [] → (s.getPort port).first ≠ twice)

/-- The port has noted a good flit: a second copy of it is still to come (R283). -/
def Sys2Proof.Machine.State.noted (s : State) (port : Nat) (twice : List W32) : State :=
  if (s.getPort port).first = twice then s else s.modPort port fun p => { p with first := twice }

/-- A barrier of which nobody has arrived. -/
def newBarrier (id count time : Nat) (hall : Bool) : Barrier :=
  { id := id, count := count, arrived := [], panels := [], earliest := time, released := false, hall := hall }

/-- R215, R283, R285: an arrival waits until the declared count is reached; then a panel barrier is released, and a hall barrier
once the arrivals of every member are in, on its master, to which a member forwards its own. -/
def Sys2Proof.Claims.BarrierArrivals : Prop :=
  ∀ (id core count time : Nat) (a b : Barrier) (s : State), core < 576 →
    (s.getBarrier id).getD (newBarrier id count time (s.hallBarrier id)) = a →
    b = (if a.arrived = [] then { a with count := count } else a) → b.released = false → b.arrived.length < b.count →
      s.reaches (coreQuad core) nodePmc = true →
    Ends (.barrierArrival id core count time) s fun t =>
      Only [.fab, .hlt, .port, .fresh] s t ∧ (∀ j, j ≠ id → t.getBarrier j = s.getBarrier j) ∧
      ∃ e, t.getBarrier id = some e ∧ e.arrived = b.arrived ++ [(core, time)] ∧ e.count = b.count ∧ e.hall = b.hall ∧
        e.earliest = min b.earliest time ∧
        (b.hall = false → Only [.fab] s t ∧ (e.released = true ↔ b.count ≤ b.arrived.length + 1)) ∧
        (b.hall = true → (e.released = true ↔ s.hallMaster = true ∧ ∀ p ∈ s.fab.hallMembers, p ∈ e.panels)) ∧
        (b.hall = true → b.arrived.length + 1 = b.count → s.panelId ∈ e.panels) ∧
        (b.hall = true → b.arrived.length + 1 = b.count → s.fab.hallMembers.foldl min s.panelId ≠ s.panelId →
          ∀ r, s.route (s.fab.hallMembers.foldl min s.panelId) = some r →
            t.fab.express.Perm (s.fab.express ++ List.replicate 2
              ⟨portOf r.1 r.2, 0x2, s.fab.hallMembers.foldl min s.panelId, barrierBody s id b.count e.earliest⟩))

/-- R213, R215, R285: the release of a barrier reaches each participant, whose core may go on; it is lost across a link that has failed. -/
def Sys2Proof.Claims.BarrierReleases : Prop :=
  ∀ (id core : Nat) (late : Bool) (b : Barrier) (s : State), core < 576 → s.getBarrier id = some b → b.released = true →
    (∃ a ∈ b.arrived, a.1 = core) →
    (s.reaches nodePmc (coreQuad core) = true → Ends (.barrierRelease id ⟨core, late⟩) s fun t =>
      Only [.core, .quad] s t ∧ OtherCores core s t ∧ CtlLate s t (coreQuad core) late ∧
      t.getCore core = { s.getCore core with released := (s.getCore core).released ++ [id] }) ∧
    (s.reaches nodePmc (coreQuad core) = false → exec (.barrierRelease id ⟨core, late⟩) s = .next s)

/-- R285, R301: on the hall master a member's BARRIER counts that panel as arrived, and releases once every member has; on a
member the RELEASE releases its barrier. Lateness of a panel is the largest of its participants. A flit for another panel is
relayed. -/
def Sys2Proof.Claims.HallBarriers : Prop :=
  (∀ (port id src arrivals earliest : Nat) (x : Flit) (b : Barrier) (s : State),
    ForPanel s port x (copyOf x 0x2 (barrierBody s id arrivals earliest)) → s.hallMaster = true →
    (s.getBarrier id).getD (newBarrier id 0 earliest true) = b → b.hall = true →
    Ends (.expressBarrier ⟨port, x⟩ id src ⟨arrivals, earliest⟩) s fun t =>
      Only [.fab, .hlt, .resp, .port, .fresh] s t ∧ t.resp = { data := [BitVec.ofNat 32 id] } ∧
      (∀ j, j ≠ id → t.getBarrier j = s.getBarrier j) ∧
      ∃ e, t.getBarrier id = some e ∧ e.arrived = b.arrived ∧ src ∈ e.panels ∧ (∀ p ∈ b.panels, p ∈ e.panels) ∧
        e.earliest = min b.earliest earliest ∧
        ((∀ p ∈ s.fab.hallMembers, p ∈ e.panels) → e.released = true)) ∧
  (∀ (port id earliest : Nat) (x : Flit) (b : Barrier) (s : State),
    ForPanel s port x (copyOf x 0x3 (barrierBody s id 0 earliest)) → s.getBarrier id = some b →
    b.hall = true → b.released = false → Ends (.expressRelease ⟨port, x⟩ ⟨id, earliest⟩) s fun t =>
      Only [.fab, .hlt, .port] s t ∧ (∀ j, j ≠ id → t.getBarrier j = s.getBarrier j) ∧
      t.getBarrier id = some { b with released := true, earliest := earliest } ∧
      tget t.fab.lateNow 96 0 = b.arrived.foldl (fun m a => max m (s.lateOf a earliest)) (tget s.fab.lateNow 96 0)) ∧
  ∀ (port id src arrivals earliest : Nat) (x : Flit) (r : Nat × Bool) (s : State), port < 32 → x.crcOk = true → x.resv = false →
    x.dest ≠ s.panelId → s.route x.dest = some r →
    let b := barrierBody s id arrivals earliest
    let c := barrierBody s id 0 earliest
    ((s.getPort port).first ≠ copyOf x 0x2 b → exec (.expressBarrier ⟨port, x⟩ id src ⟨arrivals, earliest⟩) s =
      .next ((s.noted port (copyOf x 0x2 b)).express (portOf r.1 r.2) 0x2 x.dest b)) ∧
    ((s.getPort port).first ≠ copyOf x 0x3 c → exec (.expressRelease ⟨port, x⟩ ⟨id, earliest⟩) s =
      .next ((s.noted port (copyOf x 0x3 c)).express (portOf r.1 r.2) 0x3 x.dest c))

/-- R454, R460: the broadcast to a core: DATA of the staged image is kept at its index; at END the core acknowledges a whole
image of the right digest, lists what it misses up to three times, and then faults; a set that is not staged changes
nothing. The PMC counts the packets that a NACK asks for, and takes an ACK of a core whose image is whole. -/
def Sys2Proof.Claims.FirmwareBroadcast : Prop :=
  (∀ (n q i : Nat) (ws : List W32) (s : State), n < 576 →
    let c := s.getCore n
    exec (.fwData n q i ws) s = .next (if s.fwSeqOk q && !c.noFw
      then { s.setCore n { c with fw := { c.fw with packets := tset c.fw.packets i (ws.take 6) [] } } with resp := {} }
      else { s with resp := {} })) ∧
  (∀ (n q len : Nat) (s : State), n < 576 → s.fwSeqOk q = true → (s.getCore n).noFw = false →
    let c := s.getCore n
    let miss := c.fw.missing len
    let whole := miss = [] ∧ Config.sha384 (c.fw.image len) = s.sec.stagedHashes.getD 1 []
    (whole → exec (.fwEnd n q len) s =
      .next { s.setCore n { c with fw := { c.fw with complete := true } } with resp := { data := [0xC0000000] } }) ∧
    (¬ whole → c.fw.repairs < 3 → exec (.fwEnd n q len) s =
      .next { s.setCore n { c with fw := { c.fw with repairs := c.fw.repairs + 1 } } with
        resp := { data := miss.map fun i => word [(1, 30, 2), (q, 22, 8), (i, 0, 22)] } }) ∧
    (¬ whole → 3 ≤ c.fw.repairs → Ends (.fwEnd n q len) s fun t =>
      Only [.core, .pmc, .resp] s t ∧ OtherCores n s t ∧ (t.getCore n).failed = some 0x29 ∧
      (t.getCore n).ccb.fault = c.ccb.fault ||| faultBit fFwRepair)) ∧
  (∀ (n q len : Nat) (s : State), n < 576 → s.fwSeqOk q = false ∨ (s.getCore n).noFw = true →
    exec (.fwEnd n q len) s = .next { s with resp := {} }) ∧
  (∀ (n : Nat) (l : List Nat) (s : State), n < 576 → Ends (.fwNack n l) s fun t =>
    Only [.pmc, .resp] s t ∧ t.resp = { data := l.map (BitVec.ofNat 32) } ∧
    t.pmc = { s.pmc with cnt := { s.pmc.cnt with now := t.pmc.cnt.now } } ∧
    tget t.pmc.cnt.now 0x0FA4 0 = tget s.pmc.cnt.now 0x0FA4 0 + BitVec.ofNat 32 l.length) ∧
  ∀ (n : Nat) (s : State), n < 576 → Ends (.fwAck n) s fun t =>
    Only [.core, .resp] s t ∧ t.resp = {} ∧ OtherCores n s t ∧
    ((s.getCore n).fw.complete = false → t.getCore n = s.getCore n) ∧
    ((s.getCore n).fw.complete = true → t.getCore n = { s.getCore n with fw := { (s.getCore n).fw with acked := true } })

/-- R457: firmware flits of the hall: DATA is kept at its index; END with packets missing answers the master with NACKs that list
them, and keeps what has come, for up to three repairs, and then the member fails; with all of them the package is judged and the
buffer emptied. At the master a NACK has its packets sent again, and an ACK changes nothing. A flit for another panel is relayed. -/
def Sys2Proof.Claims.FirmwareFlits : Prop :=
  (∀ (port src q i : Nat) (ws : List W32) (x : Flit) (s : State), ForPanel s port x →
    exec (.fwFlit ⟨port, x⟩ src ⟨0, q, i⟩ ws) s = .next { s.noted port [] with
      sec := { s.sec with hallPackets := tset s.sec.hallPackets i (ws.take 13) [] }
      resp := {} }) ∧
  (∀ (port src q i : Nat) (ws : List W32) (x : Flit) (s : State), ForPanel s port x →
    let miss := (List.range (cdiv (ws.getD 0 0).toNat 52)).filter fun i => (tget s.sec.hallPackets i []).length ≠ 13
    (miss ≠ [] → s.sec.hallRepairs < 3 → Ends (.fwFlit ⟨port, x⟩ src ⟨2, q, i⟩ ws) s fun t =>
      Only [.sec, .fab, .port, .resp, .fresh] s t ∧ t.sec = { s.sec with hallRepairs := s.sec.hallRepairs + 1 } ∧
      t.resp = { data := miss.map fun i => word [(1, 30, 2), (q, 22, 8), (i, 0, 22)] }) ∧
    (miss ≠ [] → 3 ≤ s.sec.hallRepairs → Ends (.fwFlit ⟨port, x⟩ src ⟨2, q, i⟩ ws) s fun t =>
      Only [.sec, .fresh, .pins, .site, .mem, .poison, .undef, .flips, .stack, .port, .resp] s t ∧
      t.sec.hallPackets = [] ∧ t.sec.hallRepairs = 0 ∧ t.resp = { status := 0x1204 }) ∧
    (miss = [] → Ends (.fwFlit ⟨port, x⟩ src ⟨2, q, i⟩ ws) s fun t =>
      Only [.sec, .fresh, .core, .boot, .pins, .pmc, .site, .hlt, .mem, .poison, .undef, .flips, .stack, .resp, .fab, .port] s t ∧
      t.sec.hallPackets = [] ∧ t.sec.hallRepairs = 0)) ∧
  (∀ (port src q i : Nat) (ws : List W32) (x : Flit) (s : State), ForPanel s port x →
    (Ends (.fwFlit ⟨port, x⟩ src ⟨1, q, i⟩ ws) s fun t => Only [.fab, .port, .resp, .fresh] s t ∧
      t.resp = { data := [word [(1, 30, 2), (q, 22, 8), (i, 0, 22)]] } ∧
      ∀ r, s.route src = some r → (⟨portOf r.1 r.2, 0x8, src, word [(0, 30, 2), (s.sec.hallSeq, 22, 8), (i, 0, 22)] ::
        bytesWords ((s.sec.hallOut.drop (52 * i)).take 52)⟩ : Express) ∈ t.fab.express) ∧
    exec (.fwFlit ⟨port, x⟩ src ⟨3, q, i⟩ ws) s = .next { s.noted port [] with resp := { data := [word [(3, 30, 2), (q, 22, 8), (i, 0, 22)]] } }) ∧
  ∀ (port src k q i : Nat) (ws : List W32) (x : Flit) (r : Nat × Bool) (s : State), port < 32 → x.crcOk = true →
    x.resv = false → x.dest ≠ s.panelId → s.route x.dest = some r → exec (.fwFlit ⟨port, x⟩ src ⟨k, q, i⟩ ws) s =
      .next ((s.noted port []).express (portOf r.1 r.2) 0x8 x.dest (word [(k, 30, 2), (q, 22, 8), (i, 0, 22)] :: ws))

/-! ### Mesh destinations (R164, R165, R186, R254, R407) -/

/-- R164, R165, R186, R255: the header of a PUT opens its transfer at the port where it arrived; a data beat goes to the rows that
the header names and to no other byte, and a clean beat of one word to a home that refuses nothing is what it reads as
afterwards. Behind the last beat goes an acknowledgement. -/
def Sys2Proof.Claims.MeshPuts : Prop :=
  (∀ (u : UnitId) (i : Nat) (e : Nat × Nat × Beat) (s : State), (s.meshPort u).turn = some i →
    (s.meshPort u).rx[i]? = some e → e.2.2.head = true → e.2.2.kind = 1 → Ends (.putWrite u) s fun t =>
      let x := e.2.2.xfer.open u e.2.1
      let y := if x.hall then { x with refused := (s.hallRefused x.addr x.span).map (BitVec.ofNat 16) } else x
      Only [.mesh, .core, .quad, .stack, .resp] s t ∧ t.resp = {} ∧ t.meshPort u = { s.meshPort u with
        rx := (s.meshPort u).rx.eraseIdx i, xfers := (s.meshPort u).xfers ++ [y] } ∧
      (∀ v, v ≠ u → t.meshPort v = s.meshPort v) ∧ t.mesh.flights = s.mesh.flights ∧ t.mesh.net = s.mesh.net) ∧
  ∀ (u : UnitId) (i : Nat) (e : Nat × Nat × Beat) (x : Xfer) (s : State), (s.meshPort u).turn = some i →
    (s.meshPort u).rx[i]? = some e → e.2.2.head = false →
    (s.meshPort u).xfers.find? (fun z => z.port = e.2.1 && z.stream = e.2.2.stream) = some x → x.hall = false →
    Ends (.putWrite u) s fun t =>
      let b := e.2.2
      let word := b.data.length = 32 ∧ b.poison = 0 ∧ (∃ h y z, s.unitAt (x.at x.moved) = some (.res h, y, z)) ∧
        s.writeRefused (x.at x.moved) 32 = none
      Only [.core, .mesh, .mem, .poison, .undef, .flips, .pmc, .stack, .quad, .resp] s t ∧
      (∀ a, (∀ k, ¬ (x.at (x.moved + 32 * k) ≤ a ∧ a < x.at (x.moved + 32 * k) + 32)) → t.byte a = s.byte a) ∧
      (t.meshPort u).rx.length + 1 = (s.meshPort u).rx.length ∧
      (b.last = true → ∀ y ∈ (t.meshPort u).xfers, y.port ≠ x.port ∨ y.stream ≠ x.stream) ∧
      (word → t.bytes (x.at x.moved) 32 = b.data) ∧
      (word → b.last = true → x.refused = none → x.src < 576 → unitNode u < 1024 →
        let m : Msg := { type := tyAck, dest := coreQuad x.src, src := unitNode u
                         body := [ackBody 0 x.stream true (coreSlot x.src) (ackPlace u x.port)] }
        t.mesh.net = if s.reaches m.src m.dest then s.mesh.net ++ [m] else s.mesh.net)

/-- R186, R254, R407: a GET header readies the data beats of its rows, in order, with the bytes that stand there; at a core in
RESETTING it readies none and answers that state; memory does not change. -/
def Sys2Proof.Claims.MeshGets : Prop :=
  ∀ (u : UnitId) (i : Nat) (e : Nat × Nat × Beat) (s : State),
    let p := s.meshPort u
    let x := e.2.2.xfer.open u e.2.1
    p.turn = some i → p.rx[i]? = some e → e.2.2.head = true → e.2.2.kind = 2 → x.hall = false →
    Ends (.getRequest u) s fun t =>
      let q := t.meshPort u
      Only [.mesh, .fresh, .stack, .core, .pmc, .quad, .resp] s t ∧ q.rx = p.rx.eraseIdx i ∧ q.xfers = p.xfers ∧
      (∀ n, u = .core n → (s.getCore n).ccb.state = .resetting → t.resp.status = 0x1001 ∧ q.tx = p.tx) ∧
      ((∀ n, u = .core n → (s.getCore n).ccb.state ≠ .resetting ∧ (s.getCore n).scr.writes = []) →
        t.resp.status = 0 ∧ q.tx.take p.tx.length = p.tx ∧
        ((q.tx.drop p.tx.length).flatMap fun y => y.2.2.data) =
          (List.range x.rows).flatMap fun k => s.bytes (x.addr + k * x.addrStride) x.rowBytes)

/-! ### The frame (R46 to R57, R214, R366, R367) -/

/-- R47, R326: GO goes to the head member of a work cell whose inbox is complete, once, with the number of requests
admitted. -/
def Sys2Proof.Claims.GoTokens : Prop :=
  ∀ (w k : Nat) (s : State), w < 96 → (s.getWork w).goCount = some k → Ends (.goSend w) s fun t =>
    Only [.pmc, .core] s t ∧ (t.getWork w).goCount = none ∧
    (s.head (.work w) = none → Only [.pmc] s t ∧ t.getWork w = { s.getWork w with goCount := none }) ∧
    ∀ n, s.head (.work w) = some n → (s.getCore n).ccb.state ≠ .resetting → OtherCores n s t ∧
      ((s.getCore n).ccb.inport.length < 16 → t.getWork w = { s.getWork w with goCount := none } ∧
        (t.getCore n).ccb = { (s.getCore n).ccb with inport := (s.getCore n).ccb.inport ++ [token 1 k] })

/-- R51, R177, R45: the deadline classifies the cores that it concerns: one that is done, or stopped, stays as it is; one that still issues, or
waits for a semaphore that has its count, is late; one whose wait cannot end expires and stops, its cell FAULTED, and so it does in a cell
FAULTED before. Any core late extends the frame, where A allows one. Row pairs that a core's vector engine has issued act before it stops
(R126). -/
def Sys2Proof.Claims.DevelopDeadline : Prop :=
  ∀ s : State, s.pmc.point = 1 → Ends .developDeadline s fun t =>
    Only [.core, .pmc, .mesh, .stack, .fresh] s t ∧ ((∀ n, VeIdle (s.getCore n)) → Only [.core, .pmc, .mesh] s t) ∧
    t.mesh = { s.mesh with net := t.mesh.net } ∧ t.pmc.point = 2 ∧
    t.pmc.extended = ((t.core.any fun e => e.2.stillLate) && s.pmc.a ≠ 0) ∧
    let calm := (∀ n, VeIdle (s.getCore n)) ∨ s.Clean
    (calm → ∀ n, n ∉ s.classified → t.getCore n = s.getCore n) ∧
    ∀ n ∈ s.classified,
      let c := s.getCore n
      let d := t.getCore n
      (c.seq.state = .done ∨ c.seq.state = .stopped → d.seq = c.seq ∧ d.late = c.late ∧ (calm → d = c)) ∧
      (c.seq.state ≠ .done → c.seq.state ≠ .stopped → c.seq.waiting = none →
        d.seq = c.seq ∧ d.late = true ∧ (calm → d = { c with late := true, cnt := d.cnt })) ∧
      ∀ w, c.seq.state ≠ .done → c.seq.state ≠ .stopped → c.seq.waiting = some w →
        (w.count ≤ tget c.scr.sem w.sem 0 →
          d.seq = c.seq ∧ d.late = true ∧ (calm → d = { c with late := true, cnt := d.cnt })) ∧
        (tget c.scr.sem w.sem 0 < w.count → c.ccb.state = .running → d.seq.state = .stopped ∧ d.ccb.tokenOut = token 5 n ∧
          d.ccb.fault.getLsbD (if w.role then fOverrun else fUnderrun) = true ∧ d.ccb.state = .faulted ∧
          ((∀ m, VeIdle (s.getCore m)) → d.ccb.fault = c.ccb.fault ||| faultBit (if w.role then fOverrun else fUnderrun)) ∧
          d.arr.queue = [] ∧ d.ve.queue = [] ∧ d.str.queue = [] ∧ d.late = c.late)

/-- R52: a core that is still late at the extension's end stops in FAULTED with LATE; no other core changes. -/
def Sys2Proof.Claims.ExtensionLimit : Prop :=
  ∀ s : State, s.pmc.point = 2 → (∃ e ∈ s.core, e.2.stillLate = true) → Ends .extensionLimit s fun t =>
    Only [.core, .pmc, .stack, .fresh] s t ∧ ((∀ n, VeIdle (s.getCore n)) → Only [.core, .pmc] s t) ∧ t.pmc.point = 3 ∧
    ((∀ n, VeIdle (s.getCore n)) ∨ s.Clean →
      ∀ n, (∀ e ∈ s.core, e.1 = n → e.2.stillLate = false) → t.getCore n = s.getCore n) ∧
    ∀ e ∈ s.core, e.2.stillLate = true →
      let c := s.getCore e.1
      let d := t.getCore e.1
      d.ccb.state = .faulted ∧ d.ccb.fault.getLsbD fLate = true ∧ d.seq.state = .stopped ∧
      ((∀ m, VeIdle (s.getCore m)) → d.ccb.fault = c.ccb.fault ||| faultBit fLate) ∧
      d.arr.queue = [] ∧ d.ve.queue = [] ∧ d.str.queue = [] ∧ d.scr.sem = c.scr.sem ∧
      ∀ w ∈ s.worksOf e.1, (s.getWork w).bound.isSome = true → (t.getWork w).void = some s.pmc.frame

/-- R53, R55, R91: drain opens once Develop and its extension have ended; an extended frame counts; a phase armed and not
applied is dropped, and that router poisons until the Shutter. -/
def Sys2Proof.Claims.StopBath : Prop :=
  ∀ s : State, s.pmc.point = 2 ∨ s.pmc.point = 3 → (∀ e ∈ s.core, e.2.stillLate = false) → Ends .stopBath s fun t =>
    Only [.pmc, .core, .rtr, .stack, .mem, .poison, .undef, .flips, .site, .fresh] s t ∧ t.pmc.point = 4 ∧ t.pmc.phase = 3 ∧
    t.pmc.frame = s.pmc.frame ∧
    (s.pmc.extended = true → t.pmc.ovrCount = min (s.pmc.ovrCount + 1) 0xFFFF) ∧
    (s.pmc.extended = false → t.pmc.ovrCount = s.pmc.ovrCount ∧ t.pmc.lastExt = s.pmc.lastExt) ∧
    ∀ n, n < 576 → t.getRtr n = (if (s.getRtr n).armed.isNone then s.getRtr n else
      { s.getRtr n with armed := none, poisoning := true })

/-- R55, R56, R65, R499: drain closes: nothing stays in flight or in an engine's queue, and semaphores, in-ports, barriers and
the frame's counts are those of a new frame. -/
def Sys2Proof.Claims.DrainClose : Prop :=
  ∀ s : State, s.pmc.point = 4 → Ends .drainClose s fun t =>
    Only [.core, .quad, .tile, .stack, .port, .fab, .site, .mesh, .pwr, .clk, .thm, .hlt, .boot, .sec, .mtr, .pins, .mem,
      .poison, .undef, .flips, .fresh, .pmc] s t ∧
    t.pmc.point = 5 ∧ t.pmc.frame = s.pmc.frame ∧
    t.mesh = { s.mesh with flights := [], core := [], res := [], fio := [], gate := [], mgmt := {}, net := drained s.mesh.net } ∧
    t.fab.barriers = [] ∧
    ∀ n, n < 576 →
      let d := t.getCore n
      d.arr.queue = [] ∧ d.ve.queue = [] ∧ d.str.queue = [] ∧ d.dma = [] ∧ d.seq.pend = [] ∧ d.seq.waiting = none ∧
      d.scr.sem = [] ∧ d.ccb.inport = [] ∧ d.ccb.tokenOut = 0 ∧ d.arr.acc = [] ∧ d.cnt.prev = d.cnt.now ∧ d.late = false

/-- R48: the Shutter: the frame counts on; a node armed for this frame fires, any other misses it. -/
def Sys2Proof.Claims.ShutterFires : Prop :=
  ∀ s : State, s.pmc.point = 5 → Ends .shutter s fun t =>
    Only [.pmc, .core, .rtr, .quad, .tile, .stack, .port, .ring, .fab, .site, .mesh, .clk, .thm, .hlt, .boot, .sec, .pins,
      .mem, .poison, .undef, .flips, .fresh, .resp] s t ∧
    t.pmc.frame = s.pmc.frame + 1 ∧ t.pmc.phase = 1 ∧ t.pmc.point = 0 ∧ t.pmc.extended = false ∧
    (∀ q, q < 96 → (t.getQuad q).armFrame = none ∧
      ((∃ k, (s.getQuad q).armFrame = some (s.pmc.frame + 1, k)) → (t.getQuad q).fired = true ∧ (t.getQuad q).missed = 0) ∧
      ((∀ k, (s.getQuad q).armFrame ≠ some (s.pmc.frame + 1, k)) → (t.getQuad q).fired = false ∧
        (t.getQuad q).missed = (s.getQuad q).missed + 1)) ∧
    t.mesh.armed = [] ∧ t.mesh.heard = [] ∧
    (∀ r, r ∈ t.mesh.fired ↔ ∃ k, (r, s.pmc.frame + 1, k) ∈ s.mesh.armed) ∧
    t.mesh.flights = s.mesh.flights ∧ t.mesh.net = drained s.mesh.net ∧ t.mesh.cycle = 0 ∧ t.fab.barriers = [] ∧
    ∀ n, tget t.mesh.core n {} = { tget s.mesh.core n {} with busyTo := 0 }

/-- R48, R194, R196, R366: in a quadrant that fires, each core of a clocked and tested die reads the new frame, and each router begins in phase
0; where FRAME16 is this frame's a validated pending bank becomes the active one, and an unvalidated one is late. -/
def Sys2Proof.Claims.ShutterLatches : Prop :=
  ∀ (n : Nat) (k : W64) (s : State), n < 576 → s.pmc.point = 5 →
    (s.getQuad (coreQuad n)).armFrame = some (s.pmc.frame + 1, k) → Ends .shutter s fun t =>
      let r := s.getRtr n
      let u := t.getRtr n
      let now := r.arm = true ∧ r.frame16.toNat = (s.pmc.frame + 1).toNat % 65536
      ((s.getQuad (coreQuad n)).gated.getLsbD (coreDie n % 3) = false →
        (s.getQuad (coreQuad n)).tested.getLsbD (coreDie n % 3) = true → (t.getCore n).ccb.frame = s.pmc.frame + 1) ∧
      (s.pmc.work = [] → s.pmc.overrides = [] → tget s.pmc.corridors 3 [] = [] →
        u.phase = 0 ∧ u.round = 0 ∧ u.armed = none ∧ u.poisoning = false ∧ u.idle = false ∧
        (¬ now → u.active = r.active ∧ u.pending = r.pending ∧ u.arm = r.arm ∧ u.status = r.status) ∧
        (now → r.status = 1 → u.active = r.pending ∧ u.pending = r.active ∧ u.arm = false ∧ u.status = 0) ∧
        (now → r.status ≠ 1 → u.active = r.active ∧ u.pending = r.pending ∧ u.arm = false ∧ u.status = 3))

/-- R214, R366, R367: at the check a core that runs in a quadrant without a heartbeat takes HEARTBEAT, and so does one, in RESETTING too,
of a die that fires no Shutter, gated or with its self-test still to pass, unless that is expected; the others keep their cells. -/
def Sys2Proof.Claims.HeartbeatCheck : Prop :=
  ∀ s : State, s.pmc.point = 0 → s.pmc.phase = 1 → Ends .heartbeatCheck s fun t =>
    Only [.pins, .pmc, .core, .hlt, .site, .stack, .mem, .poison, .undef, .flips] s t ∧ t.pmc.point = 1 ∧
    ∀ n, n < 576 →
      let x := s.getQuad (coreQuad n)
      let d := coreDie n % 3
      let silent := (x.gated.getLsbD d = true ∨ x.tested.getLsbD d = false) ∧ x.absent.getLsbD d = false
      let out := (x.heard = false ∧ s.live n = true) ∨
        (x.heard = true ∧ silent ∧ (s.live n = true ∨ (s.getCore n).ccb.state = .resetting))
      (out → (t.getCore n).ccb.fault = (s.getCore n).ccb.fault ||| faultBit fHeartbeat ∧
        (t.getCore n).ccb.holding.getLsbD fHeartbeat = true ∧ (t.getCore n).ccb.reason = whyHeartbeat ∧
        (s.live n = true → (t.getCore n).ccb.state = .faulted)) ∧
      (¬ out → t.getCore n = s.getCore n)

/-- R367: a quadrant that has missed one Shutter stops its cores and idles its routers; a perimeter die injects nothing. After
four, the routers stay idle, their outputs and core ports wait for detours, and the positions are spared. -/
def Sys2Proof.Claims.MissedShutters : Prop :=
  (∀ (q : Nat) (s : State), q < 96 → (s.getQuad q).fired = false → (s.getQuad q).missed = 1 →
    Ends (.shutterArmTimeout (.quad q)) s fun t =>
      let idle := ∀ n ∈ quadCores q, VeIdle (s.getCore n)
      Only [.core, .rtr, .pmc, .stack, .fresh] s t ∧ (idle → Only [.core, .rtr] s t) ∧
      (∀ n ∈ quadCores q, Halted (s.getCore n) (t.getCore n) ∧ t.getRtr n = { s.getRtr n with idle := true }) ∧
      ∀ n, n ∉ quadCores q → (idle ∨ s.Clean → t.getCore n = s.getCore n) ∧ t.getRtr n = s.getRtr n) ∧
  (∀ (n : Nat) (s : State), n < 8 → s.fioFitted n = true → s.mesh.fired.contains (rowFio n) = false →
    Ends (.shutterArmTimeout (.fio n)) s fun t =>
      Only [.mesh] s t ∧ t.mesh = { s.mesh with stopped := t.mesh.stopped } ∧ rowFio n ∈ t.mesh.stopped) ∧
  ∀ (q : Nat) (s : State), q < 96 → (s.getQuad q).fired = false → 4 ≤ (s.getQuad q).missed →
    Ends (.quadrantMissLimit q) s fun t =>
      Only [.rtr, .pmc, .pins, .hlt, .core, .site, .stack, .mem, .poison, .undef, .flips] s t ∧
      (∀ n ∈ quadCores q, t.getRtr n = { s.getRtr n with idle := true }) ∧
      (∀ n, n ∉ quadCores q → t.getRtr n = s.getRtr n) ∧
      ∀ n ∈ quadCores q, ∀ p ∈ [1, 2, 3, 4, 5, 6], (n, p) ∈ t.pmc.detours

/-! ### Hall cells (R60 to R62, R286, R287) -/

/-- R60, R61, R283, R286: a member that hears its master takes the offset and, for the next frame, its trim; it holds the lock while the offset
stays within 200 ns, from the sixteenth such frame on, and loses it at once beyond. One message counts for a frame. A message for another member
goes on with CORR grown by the hop and the time in this panel; the master sends one with its frame number to every member on every ring that
reaches it. -/
def Sys2Proof.Claims.HallShutters : Prop :=
  (∀ (port : Nat) (f count : W64) (own arrival send corr : Int) (x : Flit) (s : State),
    ForPanel s port x (copyOf x 0x4 (shutterBody f count send corr)) →
    s.fab.hallIndex.isSome = true → s.hallMaster = false →
    let o := own - arrival + send + corr + ((s.getPort port).rtt : Int) / 2
    let n := if o.natAbs ≤ 200 then (if s.fab.heardMaster then s.fab.closeFrames else s.fab.closeFrames + 1) else 0
    Ends (.hallShutter ⟨port, x⟩ f count ⟨own, arrival⟩ send corr) s fun t =>
      Only [.fab, .pmc, .port, .pins, .site, .stack, .mem, .poison, .undef, .flips] s t ∧
      t.fab = { s.fab with offset := o, tauNext := trim o, fofs := f - s.pmc.frame, closeFrames := n, silentFrames := 0,
                           heardMaster := true, elected := none } ∧
      (t.pmc.hallLock = true ↔ o.natAbs ≤ 200 ∧ (s.pmc.hallLock = true ∨ 16 ≤ n)) ∧
      (o.natAbs ≤ 200 ∨ s.pmc.hallLock = false → Only [.fab, .pmc, .port] s t)) ∧
  (∀ (port : Nat) (f count : W64) (own arrival send corr : Int) (x : Flit) (s : State), port < 32 → x.crcOk = true →
    x.resv = false → x.dest ≠ s.panelId → (s.getPort port).first ≠ copyOf x 0x4 (shutterBody f count send corr) →
    ∃ k : Nat, k < 2 ^ 16 ∧
      exec (.hallShutter ⟨port, x⟩ f count ⟨own, arrival⟩ send corr) s = .next (({ s.noted port
        (copyOf x 0x4 (shutterBody f count send corr)) with fresh := s.fresh + 1 } : State).expressTo 0x4 x.dest
        (shutterBody f count send (corr + ((s.getPort port).rtt : Int) / 2 + k)))) ∧
  ∀ s : State, s.pmc.point = 5 → s.hallMaster = true → s.fab.hallNext = none → s.fab.idNext = none → s.pmc.overrides = [] →
    Ends .shutter s fun t =>
    ∀ m ∈ s.fab.hallMembers, m ≠ s.panelId → ∀ r w, r < 16 → (s.getRing r).forming = none → (s.getRing r).leaving = [] →
      s.ringWay r m = some w →
      ∃ e ∈ t.fab.express, e.port = portOf r w ∧ e.kind = 0x4 ∧ e.dest = m ∧ e.body.take 2 = twoWords (s.pmc.frame + 1)

/-- R61, R287: sixteen frames without the master remove it from the membership: the member with the lowest ID left follows it,
and unlocks. After sixteen more the panel leaves the hall cell and runs free. -/
def Sys2Proof.Claims.HallElections : Prop :=
  (∀ s : State, s.fab.hallIndex.isSome = true → s.hallMaster = false → s.fab.elected = none → 16 ≤ s.fab.silentFrames →
    Ends .hallMasterLoss s fun t =>
      Only [.fab, .pmc, .pins, .site, .stack, .mem, .poison, .undef, .flips] s t ∧ t.pmc.hallLock = false ∧
      t.fab.hallMembers = s.fab.hallMembers.filter (· ≠ s.fab.hallMembers.foldl min s.panelId) ∧
      t.fab.silentFrames = 0 ∧ t.fab.tau = 0 ∧ (t.hallMaster = true → t.fab.elected = none ∧ t.fab.offset = 0) ∧
      (t.hallMaster = false → t.fab.elected = some 0 ∧ t.fab.offset = s.fab.offset)) ∧
  ∀ (n : Nat) (s : State), s.fab.elected = some n → 16 ≤ n → Ends .hallFreeRun s fun t =>
    Only [.fab, .pmc] s t ∧ t.fab.hallIndex = none ∧ t.fab.hallMembers = [] ∧ t.fab.offset = 0 ∧ t.fab.tau = 0 ∧
    t.fab.fofs = 0 ∧ t.fab.elected = none ∧ t.pmc = { s.pmc with hallLock := false }

/-! ### The fabric (R272 to R282, R288 to R299) -/

namespace Sys2Proof.Machine

/-- The arrivals of a train of each kind. -/
def arrivals (port : Nat) (x : Train) : List Instr :=
  [.fabPut port x, .getReq port x, .getResp port x, .fillReq port x, .fillResp port x, .nakResp port x]

/-- The state once a port has taken a train in order: what its HEAD returns has come back (R281); its acknowledgement and credits are owed
(R280), and go out at once in a CREDIT flit where no HEAD flit is due (when that is: DESIGN CHOICE, log entry 135). -/
def State.took (s : State) (port : Nat) (x : Train) : State :=
  let u := s.takeCredit port x.credits x.ackSeq x.nak
  let p := u.getPort port
  (u.setPort port { p with
    ackSeq := x.seq
    seqIn := (x.seq + 1) % 65536
    nak := false
    owed := tset p.owed x.vl (tget p.owed x.vl 0 + 1 + x.ndata) 0 }).giveCredit port

/-- A whole train arrives in order at a port that carries trains, and still does when it has taken what the HEAD returns (R280, R281). -/
def Arrives (s : State) (port : Nat) (x : Train) : Prop :=
  let u := s.takeCredit port x.credits x.ackSeq x.nak
  port < 32 ∧ (s.getPort port).up = true ∧ x.crcOk = true ∧ (u.getPort port).up = true ∧ x.seq = (u.getPort port).seqIn

/-- Its OP is in use and no reserved bit is set (R9, R278). -/
def InOrder (s : State) (port : Nat) (x : Train) : Prop := Arrives s port x ∧ 0 < x.op ∧ x.op < 7 ∧ x.resv = false

/-- It is for this panel, which takes trains (R290, R433). -/
def ForMe (s : State) (x : Train) : Prop := x.dest = s.panelId ∧ s.thm.state ≠ 2 ∧ s.thm.state ≠ 3

/-- What taking a train does to its port (R280, R281): its acknowledgement and credits are owed, and go out at once in a CREDIT flit
where no HEAD flit is due. No other port changes. -/
def Taken (s t : State) (port : Nat) (x : Train) : Prop :=
  let p := s.getPort port
  let q := t.getPort port
  let now := { p with ackSeq := x.seq, nak := false, owed := tset p.owed x.vl (tget p.owed x.vl 0 + 1 + x.ndata) 0 }
  let quiet := p.egress = [] ∧ p.again = []
  Only [.port, .fab, .fresh] s t ∧ q.seqIn = (x.seq + 1) % 65536 ∧ q.ackSeq = x.seq ∧ q.nak = false ∧ q.egress = p.egress ∧
    (quiet → t.fab.express.Perm (s.fab.express ++ [⟨port, 0x1, p.nbrPanel, creditWords now⟩]) ∧ q.owed = now.repaid.owed) ∧
    (¬ quiet → t.fab.express = s.fab.express ∧ q.owed = now.owed) ∧ ∀ k, k ≠ port → t.getPort k = s.getPort k

/-- A flit that comes whole, with no reserved bit set (R9, R283). -/
def Good (port : Nat) (x : Flit) : Prop := port < 32 ∧ x.crcOk = true ∧ x.resv = false

/-- The last train of the egress queue that leads to `dest`, where there is one. -/
def Answered (s t : State) (dest : Nat) (P : Train → Prop) : Prop :=
  ∀ r, s.route dest = some r → ∃ y, (t.getPort (portOf r.1 r.2)).egress = (s.getPort (portOf r.1 r.2)).egress ++ [y] ∧
    y.dest = dest ∧ y.src = s.panelId ∧ P y

end Sys2Proof.Machine

/-- R280, R281, R288, R290, R293: of a train with a bad CRC the port asks for another copy; of one out of order it takes what the HEAD flit
returns; one with an unused OP is discarded and counted, and one with a reserved bit set rejected; one for another panel of the ring
goes on, on the odd lane of its class from the ring's lowest member on, back the way it came where the link onward is out of service, and one
for a panel that the ring does not reach is refused to its source, as all are in Safelight hold. -/
def Sys2Proof.Claims.TrainArrivals : Prop :=
  ∀ (port : Nat) (x : Train) (s : State), port < 32 → (s.getPort port).up = true → ∀ c ∈ arrivals port x,
    let u := s.takeCredit port x.credits x.ackSeq x.nak
    let v := s.took port x
    (x.crcOk = false → exec c s = .next ((s.setPort port { s.getPort port with
      nak := true, errs := (s.getPort port).errs + 1 }).giveCredit port)) ∧
    (x.crcOk = true → (u.getPort port).up = false ∨ x.seq ≠ (u.getPort port).seqIn → exec c s = .next u) ∧
    (Arrives s port x → Taken u v port x ∧ (x.op = 0 ∨ 7 ≤ x.op → exec c s = .next (v.countPort port 0x1C 1)) ∧
      (0 < x.op → x.op < 7 → x.resv = true →
        (x.op ∈ [1, 2, 4] → Ends c s fun t => Only [.port] v t ∧
          Answered v t x.src fun y => y.op = 6 ∧ y.status = 0x0002 ∧ y.xid = x.xid) ∧
        (x.op ∉ [1, 2, 4] → exec c s = .next v))) ∧
    (InOrder s port x → x.dest = s.panelId → s.thm.state = 2 ∨ s.thm.state = 3 → Ends c s fun t => Only [.port] v t ∧
      Answered v t x.src fun y => y.op = 6 ∧ y.status = 0x0B02 ∧ y.xid = x.xid) ∧
    (InOrder s port x → x.dest ≠ s.panelId → Ends c s fun t =>
      let map := (s.getRing (port / 2)).map
      Only [.port] v t ∧
      (x.dest ∈ map →
        let on := portOf (port / 2) (port % 2 = 1)
        let back : Bool := !(v.getPort on).up
        let p := if back then port else on
        (t.getPort p).egress = (v.getPort p).egress ++ [{ x with
          west := if back then !x.west else x.west, plate := none, turned := false
          vl := if ∀ m ∈ map, s.panelId ≤ m then x.vl / 2 * 2 + 1 else x.vl }]) ∧
      (x.dest ∉ map → Answered v t x.src fun y => y.op = 6 ∧ y.status = 0x0B02 ∧ y.xid = x.xid))

/-- An access to address `a` finds its die as it stands behind the mesh accesses that have arrived there (R255): where none waits, only a
refresh slot may hold it, for how long is free (R258: log entry 34). -/
def AtHome (s v : State) : Prop := (∀ h, (s.meshPort (.res h)).rx = []) → Only [.stack, .fresh] s v

/-- R255, R272, R296, R298: a PUT of another panel to memory that takes it is what reads there afterwards, and changes no other
byte; one that is refused changes no memory, and its source hears why. It finds memory behind the mesh accesses that came before. -/
def Sys2Proof.Claims.HomeWrites : Prop :=
  ∀ (port : Nat) (x : Train) (s : State), InOrder s port x → ForMe s x →
    let v := (s.took port x).reachHome x.addr
    let n := min x.len x.data.length
    let refused := (homeRuns x.addr x.len).findSome? fun r => v.writeRefused r.1 r.2
    AtHome (s.took port x) v ∧
    (v.homeRange x.addr x.len = true → refused = none →
      Ends (.fabPut port x) s fun t =>
        Only [.mem, .poison, .undef, .flips, .stack] v t ∧ t.bytes x.addr n = x.data.take n ∧
        ∀ a, ¬ (x.addr ≤ a ∧ a < x.addr + n) → t.byte a = v.byte a) ∧
    (∀ e, v.homeRange x.addr x.len = true → refused = some e →
      Ends (.fabPut port x) s fun t =>
        Only [.port, .stack] v t ∧ (Answered v t x.src fun y => y.op = 6 ∧ y.status = BitVec.ofNat 16 e ∧ y.xid = x.xid) ∧
        (e = 0x0B01 → tget (t.getPort port).cnt.now 0x1C 0 = tget (v.getPort port).cnt.now 0x1C 0 + 1)) ∧
    (v.homeRange x.addr x.len = false → Ends (.fabPut port x) s fun t =>
      Only [.port] v t ∧ Answered v t x.src fun y => y.op = 6 ∧ y.status = 0x0B03 ∧ y.xid = x.xid)

/-- R255, R278, R297: a GET_REQ or FILL_REQ of another panel is answered with the bytes that stand there, behind the mesh accesses that
came before; a FILL_RESP says whether a publish entry in force covers them, and until which frame. Memory does not change, and where
nothing is wrong in it the read meets nothing. -/
def Sys2Proof.Claims.HomeReads : Prop :=
  ∀ (port : Nat) (x : Train) (s : State), InOrder s port x → ForMe s x →
    let v := (s.took port x).reachHome x.addr
    v.homeRange x.addr x.len = true →
    Ends (.getReq port x) s (fun t =>
      Only [.port, .stack, .core, .pmc] v t ∧ (v.Clean → Only [.port, .stack] v t) ∧
      Answered v t x.src fun y => y.op = 3 ∧ y.xid = x.xid ∧ y.data = v.bytes x.addr x.len) ∧
    Ends (.fillReq port x) s fun t =>
      Only [.port, .stack, .core, .pmc] v t ∧ (v.Clean → Only [.port, .stack] v t) ∧
      Answered v t x.src fun y => y.op = 5 ∧ y.xid = x.xid ∧ y.data = v.bytes x.addr x.len ∧
        (y.pub = true ↔ ∃ e ∈ v.fab.pub, e.2.start ≤ v.hallFrame ∧ v.hallFrame ≤ e.2.stop ∧ e.2.base ≤ x.addr ∧
          x.addr + x.len ≤ e.2.base + e.2.len)

/-- R295, R299, R267, R268: the answer to a part of a remote GET is kept until every part of its transfer has come, and then the whole
transfer is outstanding no more; a published line whose lease runs is installed as the most recent of its cache, unless the repair
buffer has its place, which is free (log entry 32). -/
def Sys2Proof.Claims.RemoteAnswers : Prop :=
  (∀ (port : Nat) (x : Train) (r : Remote) (s : State), InOrder s port x → ForMe s x →
    let v := s.took port x
    v.fab.remotes.find? (fun r => r.xid = x.xid && r.op ≠ 1) = some r → Ends (.getResp port x) s fun t =>
      let more := ∃ z ∈ v.fab.remotes, z.group = r.group ∧ z.op ≠ 1 ∧ z.xid ≠ x.xid ∧ z.data = none
      Only [.fab, .mesh] v t ∧
      (more → t.mesh = v.mesh ∧ t.fab.remotes.length = v.fab.remotes.length ∧ ∃ z ∈ t.fab.remotes, z.xid = x.xid ∧
        z.data = some ((x.carried.drop r.skip).take r.want)) ∧
      (¬ more → (∀ z ∈ t.fab.remotes, z.op = 1 ∨ z.group ≠ r.group) ∧
        ∀ z ∈ v.fab.remotes, z.op = 1 → z ∈ t.fab.remotes)) ∧
  ∀ (port : Nat) (x : Train) (r : Remote) (s : State), InOrder s port x → ForMe s x →
    let v := s.took port x
    v.fab.remotes.find? (fun r => r.xid = x.xid && r.op = 4) = some r → Ends (.fillResp port x) s fun t =>
      let die := cacheDie r.core
      let k := v.getStack die
      let line : Line := { tag := (r.dest * 2 ^ 48 + r.addr) / 256, data := x.data, poison := x.poison, leaseEnd := x.leaseEnd }
      let win := match k.winNext with
        | some n => if r.early then k.win else max k.win n.1
        | none => k.win
      Only [.fab, .mesh, .stack] v t ∧
      (x.pub = false ∨ x.leaseEnd < v.hallFrame.setWidth 32 ∨ inBuffer k.buffer line = true →
        ∀ h, t.getStack h = v.getStack h) ∧
      (x.pub = true → v.hallFrame.setWidth 32 ≤ x.leaseEnd → inBuffer k.buffer line = false → cacheSets win ≠ 0 →
        (t.getStack die).cache.head? = some line ∧ ∀ h, h ≠ die → t.getStack h = v.getStack h)

/-- R186, R272, R298, R302: a NAK_RESP to a PUT shows in FAB_PUT_NAK. A PUT to a published region sets DESCRIPTOR at its core, which goes on;
of any other the PUT is refused by DMA_NAK while it is open, and stops its core as R78 says where it has completed. One to a GET has the
Fabric I/O die refuse the core's GET with the status it carries. -/
def Sys2Proof.Claims.RemoteRefusals : Prop :=
  ∀ (port : Nat) (x : Train) (r : Remote) (s : State), InOrder s port x → ForMe s x →
    let v := s.took port x
    v.fab.remotes.find? (fun r => r.xid = x.xid) = some r → Ends (.nakResp port x) s fun t =>
      let c := v.getCore r.core
      let d := t.getCore r.core
      let still (q : Queued) : Bool := dmHall q.desc && dmPut q.desc && q.started && q.index = r.index && dmStream q.desc = r.rstream
      let refused (put : Bool) (stream : Nat) : Msg :=
        { type := tyAck, dest := coreQuad r.core, src := unitNode r.unit
          body := [ackBody x.status.toNat stream put (coreSlot r.core) (ackPlace r.unit r.port)] }
      Only [.fab, .core, .pmc, .mesh, .stack, .fresh] v t ∧ (∀ z ∈ t.fab.remotes, z.xid ≠ x.xid) ∧
      (r.op = 1 → t.fab.putNak = word [(x.status.toNat, 16, 16), (x.xid, 0, 16)] ∧ t.fab.putNakFrame = v.frame32 ∧
        (x.status = 0x0B01 → t.mesh = v.mesh ∧ OtherCores r.core v t ∧
          d.ccb.fault = c.ccb.fault ||| faultBit fDescriptor ∧ d.seq = c.seq) ∧
        (x.status ≠ 0x0B01 → c.dma.any still = true → r.core < 576 → unitNode r.unit < 1024 →
          t.core = v.core ∧ Posted v t (refused true r.rstream)) ∧
        (x.status ≠ 0x0B01 → c.dma.any still = false →
          Rejected { v with fab := t.fab } t r.core x.status.toNat r.desc r.index)) ∧
      (r.op ≠ 1 → ∀ q, c.dma.find? (fun q => dmHall q.desc && !dmPut q.desc && q.started && dmRstream q.desc = r.rstream) = some q →
        r.core < 576 → unitNode r.unit < 1024 → t.core = v.core ∧ Posted v t (refused false (dmStream q.desc)))

/-- R276, R277, R279 to R282, R293: a train that is to be resent goes first, and then the train whose turn it is, a re-pointed one before
all others, when credit and room fit it; it leaves for the replay buffer, its HEAD flit carries the credits owed, and its flits stand in
order in the positions that are no express slots (what idle flits have gone before is free: log entry 135). A credit return frees what it
acknowledges; a NAK has the rest resent, and the eighth in 1 ms retrains the port, whose trains go the other way. -/
def Sys2Proof.Claims.TrainFlow : Prop :=
  (∀ (port i : Nat) (x : Train) (o : Port) (s : State), port < 32 → (s.getPort port).again = [] →
    let p := s.getPort port
    let a := s.nextOwner port p 2048
    (p.egress.findIdx? (·.turned) = some i ∧ o = p) ∨ (p.egress.findIdx? (·.turned) = none ∧
      p.egress.findIdx? (fun t => trainOwner t = a.turn) = some i ∧
      o = { a with deficit := tset a.deficit a.turn (tget a.deficit a.turn 0 - (1 + x.ndata)) 0 }) →
    p.egress[i]? = some x → p.up = true → creditFits p.inFlight x.vl (1 + x.ndata) = true → flitsOf p.replay + (1 + x.ndata) ≤ 800 →
    Ends (.trainSend port) s fun t =>
      let q := t.getPort port
      let y := { x with seq := p.seqOut, turned := false }
      Only [.port, .resp, .fresh] s t ∧ (∀ k, k ≠ port → t.getPort k = s.getPort k) ∧ q.egress = p.egress.eraseIdx i ∧
      q.turn = o.turn ∧ q.deficit = o.deficit ∧ t.resp = { data := headFlit y p } ∧ q.owed = p.repaid.owed ∧
      q.replay = p.replay ++ [y] ∧ q.seqOut = (p.seqOut + 1) % 65536 ∧
      tget q.inFlight x.vl 0 = tget p.inFlight x.vl 0 + 1 + x.ndata ∧
      (∀ e ∈ q.line, e.1 % 16 = 15 ↔ e.2 = .idle ∨ ∃ k, e.2 = .express k) ∧
      (q.line.filter fun e => e.1 % 16 ≠ 15).map (·.2) = .head p.seqOut :: (List.range x.ndata).map (.data p.seqOut) ∧
      tget q.cnt.now 0x10 0 = tget p.cnt.now 0x10 0 + BitVec.ofNat 32 (1 + x.ndata)) ∧
  (∀ (port : Nat) (y : Train) (l : List Train) (s : State), port < 32 → (s.getPort port).again = y :: l →
    (s.getPort port).up = true → Ends (.trainSend port) s fun t =>
      let p := s.getPort port
      let q := t.getPort port
      Only [.port, .resp, .fresh] s t ∧ (∀ k, k ≠ port → t.getPort k = s.getPort k) ∧ q.again = l ∧ q.egress = p.egress ∧
      q.replay = p.replay ∧ q.replays = p.replays + 1 ∧ t.resp = { data := headFlit y p } ∧ q.owed = p.repaid.owed ∧
      tget q.cnt.now 0x14 0 = tget p.cnt.now 0x14 0 + 1) ∧
  ∀ (port ack : Nat) (cr : List Nat) (nak : Bool) (x : Flit) (s : State), port < 32 → x.crcOk = true → x.resv = false →
    Ends (.credit ⟨port, x⟩ cr ack nak) s fun t =>
      let p := s.getPort port
      let q := t.getPort port
      let left := dropAcked p.replay ack
      let naks := (p.nakTimes.filter fun t => s.nowCycles ≤ t + 2500000) ++ [s.nowCycles]
      let turn (b : Bool) (x : Train) : Train := { x with west := !x.west, turned := b }
      Only [.port] s t ∧ (∀ k, k ≠ port → k ≠ mate port → t.getPort k = s.getPort k) ∧
      (nak = false ∨ naks.length < 8 → t.getPort (mate port) = s.getPort (mate port) ∧ q.replay = left ∧
        (∀ v, v < 6 → tget q.inFlight v 0 = tget p.inFlight v 0 - cr.getD v 0) ∧ q.egress = p.egress ∧ q.mode = p.mode) ∧
      (nak = false → q.nakTimes = p.nakTimes ∧ q.again = p.again.filter fun y => left.contains y) ∧
      (nak = true → q.nakTimes = naks ∧ (naks.length < 8 → q.again = left)) ∧
      (nak = true → 8 ≤ naks.length → q.mode = .training ∧ q.replay = [] ∧ q.again = [] ∧ q.egress = [] ∧
        (t.getPort (mate port)).egress =
          left.map (turn true) ++ (s.getPort (mate port)).egress ++ p.egress.map (turn false))

/-- R293, R296: a remote fetch without an answer is asked for once more, and then ends with poisoned data; from the second frame after its
own on, a transfer's late train is discarded and counted, a fetch ends with poisoned data, and a PUT is over. A train of another panel is
discarded and counted by its number. -/
def Sys2Proof.Claims.FetchTimeouts : Prop :=
  (∀ (xid : Nat) (r : Remote) (s : State),
    s.fab.remotes.find? (fun r => r.xid = xid && (r.op = 2 || r.op = 4) && r.data.isNone) = some r →
    (r.retried = false → Ends (.remoteFetchTimeout xid) s fun t =>
      Only [.port, .fab] s t ∧ (∀ z ∈ t.fab.remotes, z.xid = xid → z.op ≠ 1 → z.retried = true) ∧
      t.fab = { s.fab with remotes := t.fab.remotes } ∧
      Answered s t r.dest fun y => y.op = r.op ∧ y.xid = xid ∧ y.addr = r.addr ∧ y.len = r.len) ∧
    (r.retried = true → Ends (.remoteFetchTimeout xid) s fun t =>
      Only [.fab, .mesh, .fresh] s t ∧ t.fab = { s.fab with remotes := t.fab.remotes } ∧
      ∀ z ∈ t.fab.remotes, z.xid = xid → z.op ≠ 1 → z.data ≠ none)) ∧
  (∀ (port xid : Nat) (r : Remote) (s : State), port < 32 →
    s.fab.remotes.find? (fun r => r.xid = xid && r.op ≠ 0) = some r →
    let own (t : Train) : Bool := t.xid = xid && t.src = s.panelId && (t.op = 1 || t.op = 2 || t.op = 4)
    (¬ r.frame + 2 ≤ s.pmc.frame → exec (.lateTrainDiscard port xid) s = .next s) ∧
    (r.frame + 2 ≤ s.pmc.frame → Ends (.lateTrainDiscard port xid) s fun t =>
      Only [.port, .fab, .mesh, .fresh] s t ∧ (∀ k, k ≠ port → t.getPort k = s.getPort k) ∧
      (∀ z ∈ t.fab.remotes, z.xid = xid → z.op = 2 ∨ z.op = 4 → z.data ≠ none) ∧ (∀ z ∈ t.fab.remotes, z.xid = xid → z.op ≠ 1) ∧
      (t.getPort port).egress = dropFirst own (s.getPort port).egress ∧
      (t.getPort port).replay = dropFirst own (s.getPort port).replay ∧
      tget (t.getPort port).cnt.now 0x1C 0 = tget (s.getPort port).cnt.now 0x1C 0 + 1)) ∧
  ∀ (port xid : Nat) (s : State), port < 32 → s.fab.remotes.find? (fun r => r.xid = xid && r.op ≠ 0) = none →
    let other (t : Train) : Bool := t.xid = xid && !(t.src = s.panelId && (t.op = 1 || t.op = 2 || t.op = 4))
    ((s.getPort port).egress ++ (s.getPort port).replay).any other = true → Ends (.lateTrainDiscard port xid) s fun t =>
      Only [.port] s t ∧ (∀ k, k ≠ port → t.getPort k = s.getPort k) ∧
      (t.getPort port).egress = dropFirst other (s.getPort port).egress ∧
      (t.getPort port).replay = dropFirst other (s.getPort port).replay ∧
      tget (t.getPort port).cnt.now 0x1C 0 = tget (s.getPort port).cnt.now 0x1C 0 + 1

/-! ### Ports and rings (R275, R289 to R294) -/

/-- R275, R281, R289: a port that has trained begins afresh in its mode and identifies itself, and with its ring's other port up, or in a ring
that is not bypassed, the ring forms; one that has not goes down and tests itself. -/
def Sys2Proof.Claims.PortTraining : Prop :=
  ∀ (port rtt : Nat) (m : PortMode) (s : State), port < 32 →
    (s.getPort port).mode = .training ∨ (s.getPort port).mode = .down → Ends (.portTrained port m rtt) s fun t =>
      let p := s.getPort port
      let q := t.getPort port
      let g := s.getRing (port / 2)
      let up := m = .x8 ∨ m = .x4lo ∨ m = .x4hi
      Only [.port, .ring, .hlt, .fab, .fresh] s t ∧ (∀ k, k ≠ port → t.getPort k = s.getPort k) ∧
      t.fab = { s.fab with express := t.fab.express } ∧ q.owed = [] ∧ q.nakTimes = [] ∧ q.seqIn = 0 ∧ q.seqOut = 0 ∧
      q.inFlight = [] ∧ q.again = [] ∧ q.nak = false ∧ q.first = [] ∧ q.pos = 0 ∧ q.changed = s.frame16 ∧ q.replay = p.replay ∧
      q.egress = p.egress ∧
      (up → q.mode = m ∧ q.rtt = min rtt 0xFFFF ∧ (q.rttLong = true ↔ 970 < rtt) ∧ q.localFault = false ∧
        q.spanFault = false ∧ q.loopback = false ∧ (t.row (rowPort port)).state = (if m = .x8 ∧ p.miswired = false then 1 else 2) ∧
        ∃ e, t.fab.express.Perm (s.fab.express ++ [e]) ∧ e.port = port ∧ e.kind = 0x5 ∧ e.dest = p.nbrPanel) ∧
      (¬ up → t.fab = s.fab ∧ q.mode = .down ∧ q.loopback = true ∧ q.rtt = p.rtt ∧ t.ring = s.ring) ∧
      (up → g.released = false → (s.getPort (mate port)).up = true ∨ g.bypass = false →
        t.getRing (port / 2) = { g with bypass := false, forming := some [s.panelId], probing := 1 }) ∧
      ∀ r, r ≠ port / 2 → t.getRing r = s.getRing r

/-- R275, R293: a port that goes down, or retrains, hands its trains to its ring's other port, the unacknowledged first and before any new
one, and each goes round the other way. -/
def Sys2Proof.Claims.PortsThatTurn : Prop :=
  (∀ (port : Nat) (s : State), port < 32 → (s.getPort port).mode ≠ .absent → (s.getPort port).mode ≠ .down →
    Ends (.portDown port) s fun t =>
      let p := s.getPort port
      let g := s.getRing (port / 2)
      let turn (b : Bool) (x : Train) : Train := { x with west := !x.west, turned := b }
      Only [.pins, .port, .ring, .site, .stack, .hlt, .mem, .poison, .undef, .flips] s t ∧
      (∀ k, k ≠ port → k ≠ mate port → t.getPort k = s.getPort k) ∧
      t.getPort port = { p with mode := .down, changed := s.frame16, loopback := true, egress := [], replay := [], again := [],
                                inFlight := [], seqOut := 0, seqIn := 0 } ∧
      (t.getPort (mate port)).egress =
        p.replay.map (turn true) ++ (s.getPort (mate port)).egress ++ p.egress.map (turn false) ∧
      t.getRing (port / 2) = { g with
        map := brokenMap g s.panelId (port % 2 = 1)
        state := if g.state = 0 ∧ (s.getPort (mate port)).up = true then 1 else if g.state = 3 then 3 else 2 }) ∧
  ∀ (port : Nat) (s : State), port < 32 → (s.getPort port).up = true → Ends (.portPeriodicRetrain port) s fun t =>
    let p := s.getPort port
    let turn (b : Bool) (x : Train) : Train := { x with west := !x.west, turned := b }
    Only [.port, .hlt] s t ∧ (∀ k, k ≠ port → k ≠ mate port → t.getPort k = s.getPort k) ∧
    t.getPort port = { p with mode := .training, tried := true, changed := s.frame16, egress := [], replay := [], again := [],
                              inFlight := [], seqOut := 0, seqIn := 0 } ∧
    (t.getPort (mate port)).egress =
      p.replay.map (turn true) ++ (s.getPort (mate port)).egress ++ p.egress.map (turn false)

/-- R275, R291, R427: the loopback test ends with a fault of the port, whose ring is then bypassed and its other port cut off, or of its
span; the test that a port passes in the cold start before it has trained lets the ports of a ring train, once both have. A port with a
span fault trains again and counts the attempt. -/
def Sys2Proof.Claims.LoopbackTests : Prop :=
  (∀ (port : Nat) (pass : Bool) (s : State), port < 32 → (s.getPort port).loopback = true → 4 ≤ s.boot.step →
    ¬ (pass = true ∧ s.boot.step = 4 ∧ (s.getPort port).tried = false) →
    Ends (.loopbackDone port pass) s fun t =>
      let m := s.getPort (mate port)
      Only [.port, .hlt, .pmc, .ring] s t ∧ (∀ k, k ≠ port → k ≠ mate port → t.getPort k = s.getPort k) ∧
      t.getPort port = { s.getPort port with loopback := false, localFault := !pass, spanFault := pass } ∧
      (t.row (rowPort port)).reason = 0x2D ∧ (t.row (rowPort port)).state = (if pass then 5 else 4) ∧
      (pass = true → t.ring = s.ring ∧ t.getPort (mate port) = m) ∧
      (pass = false → (t.getRing (port / 2)).bypass = true ∧ (t.getRing (port / 2)).map = [] ∧
        t.getPort (mate port) = (if m.mode = .absent ∨ m.mode = .down then m else
          { m with mode := .down, changed := s.frame16, loopback := true, egress := [], replay := [], again := [], inFlight := [] }))) ∧
  (∀ (port : Nat) (s : State), port < 32 → (s.getPort port).loopback = true → s.boot.step = 4 → (s.getPort port).tried = false →
    Ends (.loopbackDone port true) s fun t =>
      let m := s.getPort (mate port)
      let p := { s.getPort port with loopback := false }
      let go := m.loopback = false ∧ m.localFault = false ∧ (s.getRing (port / 2)).released = false
      let trains (x : Port) : Port := { x with mode := .training, changed := s.frame16, tried := true }
      Only [.port, .hlt] s t ∧ (∀ k, k ≠ port → k ≠ mate port → t.getPort k = s.getPort k) ∧
      (go → t.getPort port = trains p ∧ t.getPort (mate port) = trains m) ∧
      (¬ go → t.getPort port = p ∧ t.getPort (mate port) = m)) ∧
  ∀ (port : Nat) (s : State), port < 32 → (s.getPort port).mode = .down → (s.getPort port).spanFault = true →
    Ends (.spanRetrainTimer port) s fun t =>
      Only [.port, .hlt] s t ∧ (∀ k, k ≠ port → t.getPort k = s.getPort k) ∧
      t.getPort port = { s.getPort port with mode := .training, changed := s.frame16, tried := true } ∧
      (t.row (rowPort port)).attempts = min ((s.row (rowPort port)).attempts + 1) 0xFFFF ∧
      ∀ k, k ≠ rowPort port → t.row k = s.row k

/-- R289 to R291, R294: a neighbour's IDENT is kept, and shows a wrong wire, and the lowest member of a whole ring, or an end of a line, sends
PROBE; a LEAVE is due at its Shutter; a PROBE takes this panel's ID on and is kept; one that comes back forms the ring's map and goes round
once more, and one that does not goes the other way once, then leaves a line, or a part of a ring that lacks members of the map before
(how a map goes round and which part it is: DEDUCED, log entry 136). -/
def Sys2Proof.Claims.RingMessages : Prop :=
  (∀ (port : Nat) (b : IdentBody) (x : Flit) (s : State), Good port x → Ends (.ident ⟨port, x⟩ b) s fun t =>
    let ring := port / 2
    let q := t.getPort port
    let w := t.getPort (2 * ring)
    let e := t.getPort (2 * ring + 1)
    let probe (p : Nat) := t.fab.express.Perm (s.fab.express ++ [⟨p, 0x6, (t.getPort p).nbrPanel, [BitVec.ofNat 32 s.panelId]⟩])
    Only [.fab, .stack, .port, .hlt, .fresh] s t ∧
    (∀ k, k ≠ port → t.getPort k = { s.getPort k with cnt := (t.getPort k).cnt, waiting := (t.getPort k).waiting }) ∧
    q.nbrPanel = b.panel ∧ q.nbrPort = b.port ∧ q.nbrValid = true ∧ q.nbrHall = b.hall ∧ q.nbrSerial = b.serial ∧
    (q.miswired = true ↔ b.ring ≠ ring ∨ b.dim ≠ (s.getRing ring).dim) ∧
    (∀ e ∈ t.fab.known, e.1 = b.serial → e.2 = b.panel) ∧ (b.serial, b.panel) ∈ t.fab.known ∧
    t.fab = { s.fab with known := t.fab.known, express := t.fab.express } ∧
    ((s.getRing ring).probing = 1 → w.up = true → e.up = true → w.nbrValid = true → e.nbrValid = true → t.lowest ring = true →
      probe (2 * ring + 1)) ∧
    ((s.getRing ring).probing = 1 → w.up = false → e.up = true → e.nbrValid = true → probe (2 * ring + 1)) ∧
    ((s.getRing ring).probing = 1 → w.up = true → e.up = false → w.nbrValid = true → probe (2 * ring)) ∧
    ((s.getRing ring).probing ≠ 1 → t.fab.express = s.fab.express) ∧
    ((∀ e ∈ s.fab.known, e.1 = b.serial → e.2 = b.panel) → t.stack = s.stack)) ∧
  (∀ (port panel : Nat) (f : W64) (x : Flit) (s : State), Good port x →
    let ring := port / 2
    exec (.leave ⟨port, x⟩ panel f) s =
      .next ((s.noted port []).setRing ring { s.getRing ring with leaving := (s.getRing ring).leaving ++ [(panel, f)] })) ∧
  (∀ (port : Nat) (ids : List Nat) (x : Flit) (s : State), Good port x → (s.getRing (port / 2)).bypass = false →
    Ends (.probe port ids x) s fun t =>
      let ring := port / 2
      let west : Bool := port % 2 = 1
      let g := s.getRing ring
      let on := portOf ring west
      let back := ids.head? = some s.panelId ∧ g.probing = 0
      let sent (l : List Nat) := if (s.getPort on).up
        then t.fab.express.Perm (s.fab.express ++ [⟨on, 0x6, (s.getPort on).nbrPanel, l.map (BitVec.ofNat 32)⟩])
        else t.fab.express = s.fab.express
      Only [.ring, .resp, .fab, .port, .fresh] s t ∧ t.resp = { data := ids.map (BitVec.ofNat 32) } ∧
      (∀ r, r ≠ ring → t.getRing r = s.getRing r) ∧
      (s.panelId ∉ ids → t.getRing ring = g.heard west ids ∧ sent (ids ++ [s.panelId])) ∧
      (s.panelId ∈ ids → ¬ back → sent ids ∧ t.getRing ring =
        { g with forming := some (if west then ids.reverse else ids), state := 0, probing := 0, fromWest := [], fromEast := [] }) ∧
      (s.panelId ∈ ids → back → t.getRing ring = g ∧ t.fab = s.fab)) ∧
  ∀ (ring : Nat) (s : State), ring < 16 → (s.getRing ring).probing ≠ 0 → Ends (.probeTimeout ring) s fun t =>
    let g := s.getRing ring
    let m := (g.fromWest ++ s.panelId :: g.fromEast.reverse).eraseDups
    Only [.ring, .fab, .port, .fresh] s t ∧ (∀ r, r ≠ ring → t.getRing r = s.getRing r) ∧
    t.getRing ring = (if g.probing = 1 then { g with probing := 2 }
      else { g with forming := some m, probing := 0, fromWest := [], fromEast := [], state := if ∀ p ∈ g.map, p ∈ m then 1 else 2 }) ∧
    (g.probing = 1 ∧ s.lowest ring = true →
      ∃ e, t.fab.express.Perm (s.fab.express ++ [e]) ∧ e.port = portOf ring true ∧ e.kind = 0x6) ∧
    (¬ (g.probing = 1 ∧ s.lowest ring = true) → Only [.ring] s t)

/-- The express flit that a command brings to a port (R283). -/
def Sys2Proof.Machine.BringsFlit (port : Nat) (x : Flit) : Instr → Prop
  | .hallShutter ⟨p, y⟩ _ _ _ _ _ | .credit ⟨p, y⟩ _ _ _ | .expressBarrier ⟨p, y⟩ _ _ _ | .expressRelease ⟨p, y⟩ _
  | .ident ⟨p, y⟩ _ | .leave ⟨p, y⟩ _ _ | .probe p _ y | .fwFlit ⟨p, y⟩ _ _ _ => p = port ∧ y = x
  | _ => False

/-- The words of a flit that is sent twice (R283, R284): EKIND, DEST and body; none of another. -/
def Sys2Proof.Machine.sentTwice (s : State) (x : Flit) : Instr → List W32
  | .hallShutter _ f k _ d c => copyOf x 0x4 (shutterBody f k d c)
  | .expressBarrier _ id _ a => copyOf x 0x2 (barrierBody s id a.count a.earliest)
  | .expressRelease _ r => copyOf x 0x3 (barrierBody s r.id 0 r.earliest)
  | _ => []

/-- R9, R283: an express flit that fails its CRC is discarded and counted; the second copy of one sent twice is discarded where the first
was good; one with a reserved bit set is rejected. -/
def Sys2Proof.Claims.BadFlits : Prop :=
  ∀ (port : Nat) (x : Flit) (c : Instr) (s : State), port < 32 → BringsFlit port x c →
    let second := sentTwice s x c ≠ [] ∧ (s.getPort port).first = sentTwice s x c
    (x.crcOk = false → exec c s = .next ((s.countPort port 0x18 1).modPort port fun p => { p with errs := p.errs + 1, first := [] })) ∧
    (x.crcOk = true → second → exec c s = .next (s.modPort port fun p => { p with first := [] })) ∧
    (x.crcOk = true → ¬ second → x.resv = true → exec c s = .next ((s.noted port (sentTwice s x c)).answer 0x0002))

/-! ### Memory (R251 to R264, R307, R318) -/

/-- R255, R256, R258, R263, R307: the host writes its window, within one stack here, and reads the same bytes back; a FAILED stack
discards what is written. The access finds its die behind the mesh accesses that have arrived there. -/
def Sys2Proof.Claims.HostMemory : Prop :=
  ∀ (g off len : Nat) (bs : List Byte) (s : State), g < 2 → (s.getSite g).state = 2 ∨ (s.getSite g).state = 3 →
    let n := bs.length
    let h := (s.winStacks g).getD (off / stackSize) 0
    let v := (s.catchUp (.res h)).heldFree h
    0 < n → off + n ≤ s.winSize g → off % stackSize + n ≤ stackSize →
    ((s.meshPort (.res h)).rx = [] → Only [.stack, .fresh] s v) ∧
    ((v.getStack h).state ≠ 4 → Ends (.cxlMemAccess g true off len bs) s fun t =>
      Only [.mem, .undef, .flips, .poison, .stack, .resp] v t ∧ t.resp = {} ∧ t.bytes (v.winAddr g off) n = bs ∧
      ∀ a, ¬ (v.winAddr g off ≤ a ∧ a < v.winAddr g off + n) → t.byte a = v.byte a) ∧
    ((v.getStack h).state = 4 → Ends (.cxlMemAccess g true off len bs) s fun t => Only [.resp] v t ∧ t.resp = {}) ∧
    Ends (.cxlMemAccess g false off n []) s fun t =>
      Only [.stack, .resp, .core, .pmc] v t ∧ (v.Clean → Only [.stack, .resp] v t) ∧
      t.resp.status = 0 ∧ t.resp.data = bytesWords (v.bytes (v.winAddr g off) n) ∧
      (v.Clean → v.readRefused (v.winAddr g off) = false → t.resp.poison = false) ∧
      (v.readRefused (v.winAddr g off) = true → t.resp.poison = true)

/-- R256, R258 to R260: a refresh slot runs hot above 85 °C, or every other time writes back what reads have corrected and scrubs on, as
fast as covers the stack in 2 s: no single-bit error stays where it has scrubbed. A stack without a reading 20 µs after the Shutter is
stale, and refreshes hot from its third such frame on. -/
def Sys2Proof.Claims.RefreshAndTemperature : Prop :=
  (∀ (h : Nat) (s : State), h < 48 → (s.getStack h).alive = true →
    let x := s.getStack h
    let hot := x.hot = true ∨ 85 < x.temp
    let all := stackSize / 32
    (hot → exec (.refreshSlot h) s = .next (s.setStack h { x with hot := true, scrubSlot := false })) ∧
    (¬ hot → x.scrubSlot = false → exec (.refreshSlot h) s = .next (s.setStack h { x with scrubSlot := true })) ∧
    (¬ hot → x.scrubSlot = true → Ends (.refreshSlot h) s fun t =>
      Only [.stack, .fresh, .flips, .core, .pmc] s t ∧ (s.Clean → Only [.stack, .fresh, .flips] s t) ∧
      ∃ n, all ≤ 500000 * n ∧ (t.getStack h).scrubAt = (x.scrubAt + n) % all ∧
        let back (e : Nat × Bool) : Bool := x.writeBack.any fun y => 32 * e.1 = stackAddr h (32 * y)
        let met (e : Nat × Bool) : Bool := 32 * e.1 / stackSize = h && (32 * e.1 % stackSize / 32 + all - x.scrubAt) % all < n
        t.flips = s.flips.filter (fun e => e.2 || !(back e || met e)) ∧
        (s.Clean → (∀ k, k ≠ h → t.getStack k = s.getStack k) ∧ t.getStack h = { x with
          scrubSlot := false, writeBack := [], scrubAt := (x.scrubAt + n) % all, cnt := x.cnt.add 0x34 n }))) ∧
  ∀ (h : Nat) (s : State), h < 48 → (s.getStack h).tempRead = false →
    let x := s.getStack h
    let n := x.staleFrames + 1
    Ends (.hbmTempDeadline h) s fun t =>
      Only [.stack, .hlt] s t ∧ (∀ k, k ≠ h → t.getStack k = s.getStack k) ∧
      t.getStack h = { x with tempStale := true, tempRead := true, staleFrames := n, hot := x.hot || 3 ≤ n
                              coldReads := if 3 ≤ n then 0 else x.coldReads } ∧
      (n < 3 → t.hlt = s.hlt) ∧ (3 ≤ n → (t.row (rowStack h)).reason = 0x26 ∧
        (t.row (rowStack h)).state = (s.row (rowStack h)).state)

/-- R261 to R264, R257: a maintenance step starts where one may, as often as its frame allows, 10 s apart in a host window, and its
work is the work it finds then: a repair's page goes to the repair buffer. A day after a pass of retraining the next begins. Its end
writes the page back and logs the repair, or retires the channel it trained; a step that fails waits for another frame, and the third
failure of a channel in a row fails the stack. -/
def Sys2Proof.Claims.Maintenance : Prop :=
  (∀ (h : Nat) (s : State), h < 48 → let x := s.getStack h
    x.alive = true → x.stepBusy = false → x.steps < s.stepCount x → x.state ≠ 3 ∨ x.hostWait = 0 →
    x.state = 3 ∨ x.quiet = true ∨ s.declared h = [] → Ends (.maintenanceStep h) s fun t =>
      let y := t.getStack h
      let again := 16 ≤ x.nextChannel ∧ dayFrames s.pmc.t ≤ (s.pmc.frame - x.passFrame).toNat
      let begun : Stack := { x with
        stepBusy := true, steps := x.steps + 1, lastStep := s.frame16, stepWork := y.stepWork
        hostWait := if x.state = 3 then 10000000 else x.hostWait
        nextChannel := y.nextChannel, passFrame := y.passFrame }
      Only [.stack, .mem, .poison, .flips, .undef, .core, .pmc, .fresh] s t ∧
      y = { begun with cnt := y.cnt, ce := y.ce, ue := y.ue, sector := y.sector, dberr := y.dberr, writeBack := y.writeBack
                       repairs := y.repairs, hotChannels := y.hotChannels, ceFrame := y.ceFrame
                       resCe := y.resCe, resUe := y.resUe, resWord := y.resWord } ∧
      y.stepWork = Stack.work { x with nextChannel := y.nextChannel } ∧
      (again → y.nextChannel = 0 ∧ y.passFrame = s.pmc.frame) ∧
      (¬ again → y.nextChannel = x.nextChannel ∧ y.passFrame = x.passFrame) ∧
      (y.stepWork ≠ 16 → Only [.stack] s t ∧ (∀ k, k ≠ h → t.getStack k = s.getStack k) ∧ y = begun) ∧
      (y.stepWork = 16 → x.win = 0 → ∀ a, t.byte a = s.byte a) ∧
      (y.stepWork = 16 → x.win ≠ 0 → ∃ k, k < 64 ∧
        t.bytes (winBase h + 1024 * k) 1024 = (pageLines h (x.repairs.headD 0)).flatMap (fun a => s.bytes a 256) ∧
        ∀ a, ¬ (winBase h + 1024 * k ≤ a ∧ a < winBase h + 1024 * k + 1024) → t.byte a = s.byte a)) ∧
  ∀ (h : Nat) (pass : Bool) (s : State), h < 48 → (s.getStack h).stepBusy = true →
    let x := { s.getStack h with stepBusy := false }
    let k := x.stepWork
    Ends (.maintenanceStepDone h pass) s fun t =>
      let y := t.getStack h
      Only [.stack, .fresh, .pins, .site, .hlt, .mem, .poison, .undef, .flips, .pmc] s t ∧
      (k = 16 → x.repairs = [] → Only [.stack] s t ∧ y = x) ∧
      (∀ p l, x.repairs = p :: l → k = 16 → pass = true →
        Only [.stack, .hlt, .mem, .poison, .undef, .flips] s t ∧ (∀ a, t.byte a = s.byte a) ∧
        t.flips = s.flips.filter (fun e => !(pageLines h p).any fun a => wholeIn a 256 e.1) ∧
        y = { x with repairs := l, repairLog := x.repairLog ++ [p], cnt := y.cnt
                     dberr := x.dberr.filter fun e => hbmPage (32 * e.1) ≠ p
                     writeBack := x.writeBack.filter fun e => hbmPage (32 * e) ≠ p } ∧
        (t.row (rowStack h)).data = BitVec.ofNat 32 p) ∧
      (∀ p l, x.repairs = p :: l → k = 16 → pass = false →
        y = { x with failedNow := nadd x.failedNow 16 } ∨
        y = { x with repairs := l, cnt := y.cnt } ∧ Told s t 6 (s.ccbId (.tile (h / 2))) h p ∧ (t.row (rowStack h)).reason = 0x2B) ∧
      (k = 17 → Only [.stack] s t ∧ y = x) ∧
      (k < 16 → pass = true → Only [.stack] s t ∧ y = x.retrained k) ∧
      (k < 16 → pass = false → tget x.stepFails k 0 < 2 → Only [.stack] s t ∧
        y = { x with stepFails := tset x.stepFails k (tget x.stepFails k 0 + 1) 0, failedNow := nadd x.failedNow k }) ∧
      (k < 16 → pass = false → 2 ≤ tget x.stepFails k 0 → y = { x with state := 4, cnt := y.cnt } ∧
        (t.row (rowStack h)).state = 4 ∧ (t.row (rowStack h)).reason = 0x2C ∧ Told s t 6 (s.ccbId (.tile (h / 2))) h 4) ∧
      (k = 17 ∨ k < 16 ∧ (pass = true ∨ tget x.stepFails k 0 < 2) → ∀ j, j ≠ h → t.getStack j = s.getStack j)

/-- R318: at the end of a copy its destination holds the bytes of its source, no other byte has changed, its corridor is gone, and the
command is DONE. -/
def Sys2Proof.Claims.CopyEnd : Prop :=
  ∀ (k : Copy) (s : State), s.pmc.copy = some k →
    (∀ h ∈ s.copyStacks k, (s.getStack h).quiet = false ∧ (s.getStack h).stepBusy = false) →
    s.pmc.cmds = [(k.site, k.mb)] → Ends .hbmCopyDone s fun t =>
      Only [.pmc, .stack, .core, .poison, .mem, .undef, .flips, .resp, .site, .rtr] s t ∧ t.pmc.copy = none ∧ t.pmc.cmds = [] ∧
      t.bytes k.dst k.len = (s.winRead k.site k.src k.len).1.map (·.1) ∧
      (∀ a, ¬ (k.dst ≤ a ∧ a < k.dst + k.len) → t.byte a = s.byte a) ∧ tget t.pmc.corridors 3 [] = [] ∧
      ((t.getSite k.site).box k.mb).owner = ownDone ∧ ((t.getSite k.site).box k.mb).word 4 = 0

/-! ### Supplies and power delivery (R305, R306, R330 to R347, R361, R362) -/

namespace Sys2Proof.Machine

/-- ALERT_N rests while no cause of an alert stands (R331, R357, R380, R383). -/
def AlertFollows (t : State) : Prop :=
  t.pins.alertN = true ↔ t.pwr.mainOk = true ∧ t.pwr.backupOk = true ∧ t.clk.sel ≠ 2 ∧ t.thm.state = 0 ∧ t.boot.err = 0 ∧
    t.mtr.metering = true

/-- The other input. -/
def otherSupply : Supply → Supply
  | .main => .backup
  | .backup => .main

/-- The cores of a list stop and take the fault (R31, R78); row pairs that their vector engines have issued act first (R126), and may find
errors. No other core changes, but for those that the end of the cold start's ramps lets start (R423). -/
def Stopped (s t : State) (l : List Nat) (bit : Nat) : Prop :=
  let idle := ∀ n ∈ l, VeIdle (s.getCore n)
  (idle ∨ s.Clean → s.boot.step ≠ 2 → ∀ n, n ∉ l → t.getCore n = s.getCore n) ∧
    ∀ n ∈ l, (t.getCore n).seq.state = .stopped ∧ (t.getCore n).arr.queue = [] ∧ (t.getCore n).ve.queue = [] ∧
      (t.getCore n).str.queue = [] ∧ (t.getCore n).ccb.fault.getLsbD bit = true ∧
      (idle → (t.getCore n).ccb.fault = (s.getCore n).ccb.fault ||| faultBit bit)

end Sys2Proof.Machine

/-- R330, R331: an input that becomes valid, or is valid no longer, shows in its row, and the source follows: MAIN where it is
valid and not on its return hold, else BACKUP, else none. MAIN returns on hold while BACKUP carries the load, and takes over in a Stop Bath. -/
def Sys2Proof.Claims.Inputs : Prop :=
  (∀ (i : Supply) (s : State), s.inputOk i = false → Ends (.inputValid i) s fun t =>
    Only [.pwr, .pins, .fresh, .pmc, .hlt] s t ∧ t.inputOk i = true ∧ t.inputOk (otherSupply i) = s.inputOk (otherSupply i) ∧
    t.pwr.source = t.pwr.pick ∧ (t.row (rowSupply i)).state = 1 ∧ (t.row (rowSupply i)).reason = 0 ∧ AlertFollows t ∧
    (i = .main → (t.pwr.mainHold = true ↔ s.pwr.source = 2 ∧ s.pwr.backupOk = true)) ∧
    (s.pwr.source = 2 → s.pwr.backupOk = true → t.pwr.source = 2)) ∧
  (∀ (i : Supply) (s : State), s.inputOk i = true → Ends (.inputInvalid i) s fun t =>
    Only [.pwr, .pins, .fresh, .pmc, .hlt] s t ∧ t.inputOk i = false ∧ t.inputOk (otherSupply i) = s.inputOk (otherSupply i) ∧
    t.pwr.source = t.pwr.pick ∧ (t.row (rowSupply i)).state = 5 ∧ (t.row (rowSupply i)).reason = 0 ∧ t.pins.alertN = false) ∧
  (∀ (i : Supply) (s : State), s.inputOk i = true → Ends (.inputOvercurrent i) s fun t =>
    Only [.pwr, .pins, .fresh, .pmc, .hlt] s t ∧ t.inputOk i = false ∧ t.inputOk (otherSupply i) = s.inputOk (otherSupply i) ∧
    t.pwr.source = t.pwr.pick ∧ (t.row (rowSupply i)).state = 5 ∧ (t.row (rowSupply i)).reason = 0x23 ∧
    (i = .main → t.pwr.mainOc = true) ∧ (i = .backup → t.pwr.backupOc = true) ∧
    tget t.pmc.cnt.now 0x022C 0 = tget s.pmc.cnt.now 0x022C 0 + 1) ∧
  (∀ s : State, s.pwr.mainOk = true → s.pwr.mainHold = true → s.pmc.phase = 3 → Ends .mainReturn s fun t =>
    Only [.pwr, .pins, .fresh, .pmc] s t ∧ t.pwr.source = 1 ∧ t.pwr.mainHold = false ∧ AlertFollows t ∧
    (s.pwr.source = 2 → t.pwr.changed = s.frame16 ∧
      tget t.pmc.cnt.now 0x0220 0 = tget s.pmc.cnt.now 0x0220 0 + 1)) ∧
  ∀ (i : Supply) (s : State), s.pwr.mainOk = false → s.pwr.backupOk = false → s.pwr.failed = false →
    (match i with | .main => s.pwr.mainOc | .backup => s.pwr.backupOc) = false → Ends (.inputReconnect i) s fun t =>
      Only [.pwr, .pins, .fresh, .pmc, .hlt] s t ∧ t.inputOk i = true ∧ t.pwr.source = t.pwr.pick ∧
      (t.row (rowSupply i)).state = 1

/-- R333, R291, R386: with both inputs gone every rail and branch falls, the cells are OFF, every ring bypass closes, the
power-loss record and the thermal bins are in flash, and memory is left as it is. -/
def Sys2Proof.Claims.PowerFailure : Prop :=
  ∀ (bulk : Bool) (s : State), s.pwr.mainOk = false → s.pwr.backupOk = false → s.pwr.failed = false →
    Ends (.powerFailure bulk) s fun t =>
      Only [.pwr, .pins, .fresh, .boot, .quad, .core, .site, .mesh, .tile, .stack, .port, .ring, .pmc] s t ∧
      ((∀ n, VeIdle (s.getCore n)) → t.pmc = s.pmc) ∧
      t.pwr = { s.pwr with failed := true, source := 0 } ∧ t.pins = { s.pins with panelOk := false } ∧
      (∀ q, q < 96 → (t.getQuad q).rail = 0 ∧ (t.getQuad q).source = 5 ∧ (t.getQuad q).locked = false ∧
        (t.getQuad q).gated = 7) ∧
      (∀ n, n < 576 → (t.getCore n).ccb.state = .off ∧ (t.getCore n).arr.queue = [] ∧ (t.getCore n).ve.queue = []) ∧
      (∀ p, p < 32 → (t.getPort p).mode = .down ∧ (t.getPort p).egress = [] ∧ (t.getPort p).replay = []) ∧
      (∀ r, r < 16 → (t.getRing r).bypass = true) ∧ (∀ h, h < 48 → (t.getStack h).state = 0) ∧
      (∀ k, k < 24 → (t.getTile k).flashCyc = (s.getTile k).cyc ∧ (t.getTile k).flashTmax = (s.getTile k).tmax) ∧
      ∃ w, t.boot.lossRec = some (s.pmc.frame, w) ∧ bits w.toNat 0 4 = (if bulk then 2 else 1)

/-- R334, R335, R338, R347: a converter that fails shows in its row, and the other one carries both half-buses; with none left
the tile's quadrants lose their rails. A feed that trips is off, and the other carries on. A phase of either rail that is shed is failed
and counted, and the last one takes the rails. -/
def Sys2Proof.Claims.ConvertersAndPhases : Prop :=
  (∀ (k : Nat) (d : Side) (s : State), k < 24 →
    let i := match d with | .w => 0 | .e => 1
    let other := match d with | .w => (s.getTile k).convE | .e => (s.getTile k).convW
    Ends (.converterFail k d) s fun t =>
      let y := t.getTile k
      Only [.tile, .pmc, .hlt, .quad, .core, .stack, .boot, .fresh] s t ∧ (match d with | .w => y.convW | .e => y.convE) = 1 ∧
      (match d with | .w => y.convE | .e => y.convW) = other ∧ (y.tied = true ↔ other = 0) ∧
      (∀ j, j ≠ k → t.getTile j = s.getTile j) ∧ (t.row (rowConv k i)).state = 4 ∧
      (other = 0 → Only [.tile, .pmc, .hlt] s t ∧ (t.row (rowConv k (1 - i))).state = 2) ∧
      (other ≠ 0 → (∀ q ∈ tileQuads k, (t.getQuad q).rail = 6 ∧ ∀ n ∈ quadCores q,
          (s.getCore n).ccb.state ≠ .off → (s.getCore n).ccb.state ≠ .retired →
            (t.getCore n).ccb.state = .dark ∧ (t.getCore n).ccb.reason = whyNone) ∧
        ∀ q, q ∉ tileQuads k → t.getQuad q = s.getQuad q)) ∧
  (∀ (k : Nat) (d : Side) (s : State), k < 24 → Ends (.vfabTFeedTrip k d) s fun t =>
    Only [.tile, .pmc, .hlt] s t ∧ (∀ j, j ≠ k → t.getTile j = s.getTile j) ∧
    t.getTile k = (match d with
      | .w => { s.getTile k with feedW := false }
      | .e => { s.getTile k with feedE := false }) ∧
    (t.row (rowFeed k (match d with | .w => 0 | .e => 1))).state = 4) ∧
  ∀ (q p : Nat) (s : State), q < 96 → p < 10 →
    (if p < 8 then (s.getQuad q).failedPh.getLsbD p = false else (s.getQuad q).sramGood.getLsbD (p - 8) = true) →
    Ends (.phaseShed q p) s fun t =>
      let x := s.getQuad q
      let y := t.getQuad q
      let r := t.row (rowPhase q p)
      Only [.quad, .fresh, .hlt, .core, .pmc, .stack, .boot] s t ∧ (∀ k, k ≠ q → t.getQuad k = s.getQuad k) ∧
      (p < 8 → y.failedPh = x.failedPh ||| BitVec.ofNat 8 (2 ^ p) ∧ y.sramGood = x.sramGood) ∧
      (8 ≤ p → y.failedPh = x.failedPh ∧ y.sramGood = x.sramGood &&& ~~~ BitVec.ofNat 2 (2 ^ (p - 8))) ∧
      y.good = 8 - popcount y.failedPh ∧
      tget y.cnt.now 0x009C 0 = tget x.cnt.now 0x009C 0 + 1 ∧ r.state = 4 ∧ (r.reason = 0x23 ∨ r.reason = 0x24) ∧
      r.data = BitVec.ofNat 32 r.reason ∧
      (y.good ≠ 0 → y.sramGood ≠ 0 → y.rail = x.rail ∧ t.core = s.core) ∧ (y.good = 0 ∨ y.sramGood = 0 → y.rail = 6)

/-- R339 to R341: an overcurrent stops the quadrant's cores with POWER; a step that no notice covers is counted. -/
def Sys2Proof.Claims.Overcurrents : Prop :=
  (∀ (q : Nat) (s : State), q < 96 → Ends (.quadrantOvercurrentStop q) s fun t =>
    Only [.core, .pmc, .stack, .fresh] s t ∧ ((∀ n ∈ quadCores q, VeIdle (s.getCore n)) → Only [.core, .pmc] s t) ∧
    Stopped s t (quadCores q) fPower) ∧
  ∀ (q : Nat) (s : State), q < 96 → Ends (.unannouncedStep q) s fun t =>
    Only [.quad] s t ∧ (∀ k, k ≠ q → t.getQuad k = s.getQuad k) ∧
    t.getQuad q = { s.getQuad q with cnt := (t.getQuad q).cnt } ∧
    tget (t.getQuad q).cnt.now 0x0094 0 = tget (s.getQuad q).cnt.now 0x0094 0 + 1

/-- R341, R361, R362: a droop requests a stretch, which the first request begins; in the Stop Bath, or with 20 µs used, every
request is denied and those quadrants' cores stop with POWER. The stretch ends when no quadrant requests it. -/
def Sys2Proof.Claims.Stretches : Prop :=
  (∀ (q : Nat) (s : State), q < 96 → Ends (.vcoreDroop q) s fun t =>
    let denied := s.pmc.phase = 3 ∨ 2000 ≤ s.clk.used
    Only [.quad, .clk, .pmc, .core, .stack, .fresh] s t ∧
    (¬ denied → Only [.quad, .clk, .pmc] s t ∧ (t.getQuad q).stretching = true ∧ t.clk.active = true ∧
      (s.clk.active = true → t.clk = s.clk) ∧ (s.clk.active = false → t.clk = { s.clk with active := true, crossed := false, firstQd := q })) ∧
    (denied → t.clk.active = false ∧ (∀ p, p < 96 → (t.getQuad p).stretching = false) ∧
      ∀ n ∈ quadCores q, (t.getCore n).seq.state = .stopped ∧ (t.getCore n).ccb.fault.getLsbD fPower = true)) ∧
  (∀ (q : Nat) (s : State), q < 96 → (s.getQuad q).stretching = true →
    exec (.stretchWithdraw q) s = .next (s.setQuad q { s.getQuad q with stretching := false })) ∧
  (∀ s : State, s.clk.active = true → (∀ q, q < 96 → (s.getQuad q).stretching = false) → Ends .stretchEnd s fun t =>
    Only [.clk, .fresh] s t ∧ t.clk = { s.clk with active := false, crossed := false, used := t.clk.used } ∧
    t.clk.used ≤ 2000 ∧ min 2000 (s.clk.used + if s.clk.crossed then 0 else 100) ≤ t.clk.used) ∧
  ∀ s : State, s.clk.active = true → Ends .stretchLimit s fun t =>
    Only [.clk, .pmc, .quad, .core, .stack, .fresh] s t ∧ t.clk.active = false ∧ (∀ p, p < 96 → (t.getQuad p).stretching = false) ∧
    (s.pmc.phase ≠ 3 → t.clk.used = 2000) ∧
    ∀ q, q < 96 → (s.getQuad q).stretching = true → ∀ n ∈ quadCores q,
      (t.getCore n).seq.state = .stopped ∧ (t.getCore n).ccb.fault.getLsbD fPower = true

/-- R344, R345: a due ramp starts, and names its first frame, but in the cold start, where no core runs; each step that the bus can grant,
in order of quadrants and by its present power and what its running quadrants may still draw, raises the rail by one of sixteen, and one
that it cannot pauses the ramp. -/
def Sys2Proof.Claims.Ramps : Prop :=
  (∀ (q : Nat) (s : State), q < 96 → (s.getQuad q).rampDue = true → (s.getQuad q).rail = 0 →
    exec (.quadrantRamp q) s = .next (s.setQuad q { s.getQuad q with
        rail := 1, step := 0, pause := 0, defers := 0, rampDue := false, passed := 0
        tested := if s.boot.step = 2 then (s.getQuad q).tested else 0
        rampF1 := if s.boot.step = 2 then none else some (s.pmc.frame + BitVec.ofNat 64 (cdiv 3205 (max 1 s.pmc.t))) })) ∧
  ∀ (q m : Nat) (r : List Nat) (s : State), q < 96 → (s.getQuad q).rail = 1 ∨ (s.getQuad q).rail = 2 →
    let x := s.getQuad q
    let grant := (∀ p ∈ s.busQuads q, q ≤ p ∨ (s.getQuad p).ramping = false) ∧ m + s.busReserve q r + 12000 ≤ 300000
    Ends (.rampStep q m r) s fun t =>
      let y := t.getQuad q
      Only [.quad, .pins, .core, .site, .pmc, .mem, .poison, .undef, .flips, .stack, .boot] s t ∧
      (grant → Only [.quad, .pmc, .boot, .stack, .core] s t ∧ (s.boot.step ≠ 2 → Only [.quad, .pmc] s t) ∧
        (x.step < 15 → t = s.setQuad q { x with rail := 1, step := x.step + 1 }) ∧
        (15 ≤ x.step → y.rail = 3 ∧ y.step = 0)) ∧
      (¬ grant → x.pause ≠ 2000 → t = s.setQuad q { x with rail := 2, pause := x.pause + 1 }) ∧
      (¬ grant → x.pause = 2000 → y.rail = 2 ∧ y.defers = min (x.defers + 1) 15 ∧ y.rampF1 = x.rampF1.map (· + 1) ∧
        ∀ n ∈ quadCores q, (t.getCore n).ccb.reason = whyPowerDeferred)

/-- R346, R347: a tripped eFuse takes both rails and faults the cells with POWER; a probe follows unless one has passed within
the hour; a probe that passes lets the quadrant ramp, and one that fails leaves it shorted. -/
def Sys2Proof.Claims.Fuses : Prop :=
  (∀ (q : Nat) (s : State), q < 96 → (s.getQuad q).rail = 1 ∨ (s.getQuad q).rail = 2 ∨ (s.getQuad q).rail = 3 →
    Ends (.efuseTrip q) s fun t =>
      Only [.quad, .hlt, .core, .pmc, .stack, .boot, .fresh] s t ∧ Stopped s t (quadCores q) fPower ∧
      (∀ k, k ≠ q → t.getQuad k = s.getQuad k) ∧
      t.getQuad q = { s.getQuad q with
        rail := 0, step := 0, rampF1 := none, tripped := true, probeDue := !s.probedLately q, activePh := 0 } ∧
      (t.row (rowPhase q 0)).reason = 0x23) ∧
  ∀ (q : Nat) (pass : Bool) (s : State), q < 96 → (s.getQuad q).probeDue = true → s.thm.state < 2 →
    Ends (.efuseProbe q pass) s fun t =>
      Only [.quad, .hlt] s t ∧ (∀ k, k ≠ q → t.getQuad k = s.getQuad k) ∧
      (t.row (rowPhase q 0)).attempts = min ((s.row (rowPhase q 0)).attempts + 1) 0xFFFF ∧
      t.getQuad q = (if pass then { s.getQuad q with rail := 0, probeDue := false, tripped := false, rampDue := true, probedAt := some s.pmc.frame }
        else { s.getQuad q with rail := 4, probeDue := false })

/-- R305, R306, R309: a Host Site sets its core voltage within its range; an overload takes its rail off and the site DOWN, whose
requests are answered no more. -/
def Sys2Proof.Claims.SitePower : Prop :=
  (∀ (g v : Nat) (s : State), g < 2 → exec (.sidebandVidMessage g v) s =
    .next (s.setSite g { s.getSite g with vid := if 650 ≤ v ∧ v ≤ 950 then v else (s.getSite g).vid })) ∧
  ∀ (g : Nat) (s : State), g < 2 → (s.getSite g).state ≠ 5 → (s.getSite g).railOff = false →
    Ends (.hostSiteRailOff g) s fun t =>
      Only [.site, .pins, .pmc, .hlt, .mem, .poison, .undef, .flips, .stack] s t ∧ (t.getSite g).railOff = true ∧ (t.getSite g).state = 4 ∧
      (t.row (rowSite g)).state = 5 ∧ (t.row (rowSite g)).reason = 0x23 ∧
      ((s.getSite g).state = 4 → Only [.site, .hlt] s t) ∧
      ((s.getSite g).state ≠ 4 → (t.getSite g).changed = s.frame16 ∧ ∀ w, ∀ q ∈ (t.getWork w).out, q.site ≠ g)

/-! ### Clocks (R355, R357, R364 to R366) -/

/-- R357: a reference that is lost is selected no more: A, then B, else free running, with an alert; one that returns is
present at once and selected at a Stop Bath. -/
def Sys2Proof.Claims.References : Prop :=
  (∀ (r : Ref) (s : State), (match r with | .a => s.clk.refA | .b => s.clk.refB) = true → Ends (.referenceLoss r) s fun t =>
    Only [.clk, .pins, .hlt] s t ∧ (match r with | .a => t.clk.refA | .b => t.clk.refB) = false ∧
    (match r with | .a => t.clk.refB | .b => t.clk.refA) = (match r with | .a => s.clk.refB | .b => s.clk.refA) ∧
    t.clk.sel = t.clk.pick ∧ AlertFollows t ∧ (t.row (rowOfRef r)).state = 5 ∧ (t.row (rowOfRef r)).reason = 0x2F) ∧
  ∀ (r : Ref) (s : State), Ends (.referenceReturn r) s fun t =>
    Only [.clk, .hlt] s t ∧ t.clk = (match r with
      | .a => { s.clk with refA := true }
      | .b => { s.clk with refB := true }) ∧ (t.row (rowOfRef r)).state = 1 ∧ (t.row (rowOfRef r)).reason = 0

/-- R364, R365, R366: a quadrant that loses lock runs from its standby, or from nothing and is then cut off; a die that loses its
clock is fed from the die beside it. Either way the cores stop with CLOCK, and the dies are gated. A relocked quadrant waits for
its return. -/
def Sys2Proof.Claims.ClockLoss : Prop :=
  (∀ (q : Nat) (s : State), q < 96 → (s.getQuad q).locked = true → Ends (.lossOfLock q) s fun t =>
    let x := s.getQuad q
    let y := t.getQuad q
    Only [.rtr, .quad, .core, .pmc, .stack, .fresh] s t ∧ (∀ k, k ≠ q → t.getQuad k = s.getQuad k) ∧ Stopped s t (quadCores q) fClock ∧
    y = { x with locked := false, relocked := none, source := x.standby, gated := 7, passed := 0, attempts := 0, cnt := y.cnt } ∧
    tget y.cnt.now 0x0110 0 = tget x.cnt.now 0x0110 0 + 1 ∧
    (∀ n ∈ quadCores q, (t.getCore n).ccb.holding.getLsbD fClock = true) ∧
    (x.standby ≠ 5 → t.rtr = s.rtr) ∧ (x.standby = 5 → ∀ n ∈ quadCores q, (t.getRtr n).idle = true)) ∧
  (∀ (d : Nat) (s : State), d < 288 → (s.getQuad (d / 3)).gated.getLsbD (d % 3) = false → Ends (.dieClockLoss d) s fun t =>
    let x := s.getQuad (d / 3)
    Only [.quad, .core, .pmc, .stack, .fresh] s t ∧ (∀ k, k ≠ d / 3 → t.getQuad k = s.getQuad k) ∧ Stopped s t (dieCores d) fClock ∧
    t.getQuad (d / 3) = { x with
      gated := x.gated ||| dieBit d, dieFwd := x.dieFwd ||| dieBit d, passed := x.passed &&& ~~~ dieBit d
      absent := x.absent &&& ~~~ dieBit d, attempts := 0 }) ∧
  ∀ (q : Nat) (s : State), q < 96 → (s.getQuad q).locked = false →
    exec (.oscillatorRelock q) s = .next (s.setQuad q { s.getQuad q with locked := true, relocked := some s.nowCycles })

/-- R345, R366, R396: a gated die whose clock is there is ungated and tests itself; a pass shows in its row, and the die rejoins
at the next Shutter; a failure sets SELF_TEST in them, and the third marks them failed. -/
def Sys2Proof.Claims.DieReturn : Prop :=
  (∀ (d : Nat) (s : State), d < 288 → (s.getQuad (d / 3)).gated.getLsbD (d % 3) = true → (s.getQuad (d / 3)).source ≠ 5 →
    Ends (.dieUngate d) s fun t =>
      let x := s.getQuad (d / 3)
      Only [.quad, .core, .hlt] s t ∧ (∀ k, k ≠ d / 3 → t.getQuad k = s.getQuad k) ∧
      t.getQuad (d / 3) = { x with gated := x.gated &&& ~~~ dieBit d, tested := x.tested &&& ~~~ dieBit d } ∧
      (t.row (rowDie d)).state = 6 ∧ (∀ n, n ∉ dieCores d → t.getCore n = s.getCore n) ∧
      (x.source = 0 → x.dieFwd.getLsbD (d % 3) = false → t.core = s.core) ∧
      (x.dieFwd.getLsbD (d % 3) = true → ∀ n ∈ dieCores d, (t.getCore n).ccb =
        { (s.getCore n).ccb with reason := whyClockForwarded })) ∧
  ∀ (d : Nat) (pass : Bool) (s : State), d < 288 → (s.getQuad (d / 3)).gated.getLsbD (d % 3) = false →
    (s.getQuad (d / 3)).tested.getLsbD (d % 3) = false → Ends (.dieSelfTestDone d pass) s fun t =>
      let x := s.getQuad (d / 3)
      let y := t.getQuad (d / 3)
      Only [.quad, .core, .hlt, .pmc] s t ∧ (∀ k, k ≠ d / 3 → t.getQuad k = s.getQuad k) ∧
      (∀ n, n ∉ dieCores d → t.getCore n = s.getCore n) ∧
      (pass = true → Only [.quad, .hlt] s t ∧
        y = { x with tested := x.tested ||| dieBit d, passed := x.passed ||| dieBit d } ∧ (t.row (rowDie d)).state = 1) ∧
      (pass = false → y = { x with attempts := min (x.attempts + 1) 3, gated := x.gated ||| dieBit d } ∧
        (∀ n ∈ dieCores d, (t.getCore n).ccb.fault = (s.getCore n).ccb.fault ||| faultBit fSelfTest) ∧
        (x.attempts < 2 → ∀ n ∈ dieCores d, (t.getCore n).failed = (s.getCore n).failed) ∧
        (2 ≤ x.attempts → (t.row (rowDie d)).state = 4 ∧ (t.row (rowDie d)).reason = 0x0A ∧
          ∀ n ∈ dieCores d, (t.getCore n).failed = some 0x0A))

/-! ### Temperatures and cooling (R259, R305, R371 to R386, R433) -/

namespace Sys2Proof.Machine

/-- What the entry into Safelight hold leaves (R383). -/
def Held (s t : State) (cause : Nat) : Prop :=
  t.thm.state = 3 ∧ t.thm.cause = cause ∧ t.thm.changed = s.frame16 ∧ t.pins.alertN = false ∧
    tget t.pmc.cnt.now 0x0418 0 = tget s.pmc.cnt.now 0x0418 0 + 1 ∧
    (∀ w, (t.getWork w).out = [] ∧ ∀ k ∈ (t.getWork w).cls, k.2.queue = []) ∧
    (∀ n, n < 576 → (t.getCore n).arr.queue = [] ∧ (t.getCore n).ve.queue = [] ∧ (t.getCore n).seq.state = .stopped) ∧
    (∀ q, q < 96 → s.isDark q = false → (t.getQuad q).rail = 0) ∧
    ∀ h, h < 48 → (t.getStack h).state = (if (s.getStack h).state = 2 then 0 else (s.getStack h).state)

end Sys2Proof.Machine

/-- R371, R372: a pair whose elements are both valid reads the higher one, which is held to the limits of its place; the second
sample that reaches the trip enters Safelight hold. -/
def Sys2Proof.Claims.SensorSamples : Prop :=
  (∀ (l : List Sample) (s : State), Ends (.sensorSample l) s fun t =>
    Only [.tile, .quad, .thm, .pmc, .stack, .site, .pins, .core, .boot, .hlt, .mem, .poison, .undef, .flips, .fresh] s t) ∧
  ∀ (n : Nat) (a b : Int) (s : State), n < 443 → (s.pair n).state ≠ 2 → -320 ≤ a → a ≤ 2400 → -320 ≤ b → b ≤ 2400 →
    Ends (.sensorSample [{ sensor := n, diode := some a, ring := some b }]) s fun t =>
      let p := s.pair n
      let q := t.pair n
      q.temp = max a b ∧ q.diff = a - b ∧ (q.trip = true ↔ (sensorLimits n).2 ≤ max a b) ∧
      (q.overT = true ↔ (sensorLimits n).1 < max a b) ∧ q.state = p.state ∧
      q.tripRun = (if (sensorLimits n).2 ≤ max a b then p.tripRun + 1 else 0) ∧
      (∀ m, m < 443 → m ≠ n → t.pair m = s.pair m) ∧
      ((sensorLimits n).2 ≤ max a b → 1 ≤ p.tripRun → n ∉ s.atTrip → t.thm.state = 2 ∨ t.thm.state = 3)

/-- R305, R371, R378, R380: a Host Site's report is kept, and its row shows a missing one no longer; a fan that fails shows in its row and warns;
both fans gone for a second,
or an inlet above 45 °C for ten, enter the hold. -/
def Sys2Proof.Claims.FansAndInlet : Prop :=
  (∀ (g : Nat) (x : Int) (s : State), g < 2 → Ends (.junctionReport g x) s fun t =>
    Only [.site, .hlt] s t ∧ t.site = (s.setSite g { s.getSite g with junction := x, junctionAge := 0 }).site ∧
    (t.row (rowSite g)).state = (s.row (rowSite g)).state ∧ (t.row (rowSite g)).reason ≠ 0x26 ∧
    ((s.row (rowSite g)).reason ≠ 0x26 → t.hlt = s.hlt)) ∧
  (∀ (f : Nat) (on : Bool) (s : State), f < 2 → Ends (.fanfailChange f on) s fun t =>
    Only [.thm, .pins, .site, .hlt, .mem, .poison, .undef, .flips, .stack] s t ∧ (t.row (rowFan f)).state = (if on then 5 else 1) ∧
    t.thm.fan0 = (if f = 0 then on else s.thm.fan0) ∧ t.thm.fan1 = (if f = 0 then s.thm.fan1 else on) ∧
    (on = true → s.thm.state = 0 → t.thm.state = 1 ∧ t.pins.alertN = false ∧
      ∃ x y, Told s t 2 (s.ccbId .panel) x y) ∧ (2 ≤ s.thm.state → t.thm.state = s.thm.state)) ∧
  (∀ s : State, s.thm.fan0 = true → s.thm.fan1 = true → Ends .fanfailHoldTimer s fun t =>
    Only [.thm, .pmc, .quad, .stack, .core, .boot, .pins, .site, .mem, .poison, .undef, .flips, .fresh] s t ∧
    (s.thm.state = 2 ∨ s.thm.state = 3 → t = s) ∧ (s.thm.state ≠ 2 → s.thm.state ≠ 3 → Held s t 3)) ∧
  ∀ s : State, 720 < s.thm.inlet → Ends .inletHoldTimer s fun t =>
    Only [.thm, .pmc, .quad, .stack, .core, .boot, .pins, .site, .mem, .poison, .undef, .flips, .fresh] s t ∧
    (s.thm.state = 2 ∨ s.thm.state = 3 → t = s) ∧ (s.thm.state ≠ 2 → s.thm.state ≠ 3 → Held s t 4)

/-- R379, R380, R386: a second closes each tile's mean reading, which its highest temperature takes in; the hour's write puts the
bins and that temperature in flash. -/
def Sys2Proof.Claims.ThermalClocks : Prop :=
  (∀ s : State, Ends .thermalResistanceTick s fun t =>
    Only [.fresh, .tile, .thm, .pins, .site, .mem, .poison, .undef, .flips, .stack] s t ∧ t.thm.seconds = s.thm.seconds + 1 ∧
    t.thm.pairs = s.thm.pairs ∧
    ∀ k, k < 24 →
      let x := s.getTile k
      let y := t.getTile k
      y.links = x.links ∧ y.flashCyc = x.flashCyc ∧ y.tN = 0 ∧
      (x.tN = 0 → y.tmax = x.tmax ∧ y.cyc = x.cyc ∧ y.window = x.window ∧ y.rth = x.rth) ∧
      (x.tN ≠ 0 → y.tSum = 0 ∧ y.tmax = max x.tmax (x.tSum / x.tN))) ∧
  ∀ s : State, Ends .thermalFlashWrite s fun t =>
    Only [.tile] s t ∧ ∀ k, k < 24 → t.getTile k = { s.getTile k with flashCyc := (s.getTile k).cyc, flashTmax := (s.getTile k).tmax }

/-- R385, R433, R317: with its conditions ended the hold is left by a resume, whose quadrants ramp, or a DECISION event says so, once,
where the thermal response is MANUAL. -/
def Sys2Proof.Claims.HoldExit : Prop :=
  ∀ s : State, s.thm.state = 3 → s.mayExit = true → Ends .holdExit s fun t =>
    Only [.boot, .thm, .pins, .quad, .stack, .site, .mem, .poison, .undef, .flips, .pmc] s t ∧
    (s.manual 3 = true → t.thm = s.thm ∧ t.quad = s.quad ∧
      (if (3, s.ccbId .panel, 1) ∈ s.pmc.asked then t = s else Told s t 8 (s.ccbId .panel) 3 1)) ∧
    (s.manual 3 = false → Only [.boot, .thm, .pins, .quad, .stack, .pmc] s t ∧ t.thm.state = 4 ∧
      t.thm.resumeAt = some (s.pmc.frame + 1) ∧
      ∀ q, q < 96 → t.getQuad q = (if s.thm.darkAtEntry.contains q || s.isDark q then s.getQuad q else
        { s.getQuad q with rampDue := true }))

/-! ### Health (R204 to R207, R246, R248, R308, R309, R396, R405 to R414, R432) -/

/-- R406, R432: a core in RESETTING whose test ends holds nothing of its engines, its scratch is undefined and nothing else in
memory changes; a pass lets it rejoin at the Shutter, a failure marks it failed with SELF_TEST. -/
def Sys2Proof.Claims.WarmRecovery : Prop :=
  ∀ (n : Nat) (pass : Bool) (s : State), n < 576 → (s.getCore n).ccb.state = .resetting → (s.getCore n).rejoin = false →
    Ends (.warmSelfTestDone n pass) s fun t =>
      let c := s.getCore n
      let d := t.getCore n
      Only [.undef, .flips, .fresh, .core, .poison, .hlt, .pmc] s t ∧ OtherCores n s t ∧ d.ccb.state = .resetting ∧
      d.arr.queue = [] ∧ d.ve.queue = [] ∧ d.str.queue = [] ∧ d.dma = [] ∧ d.scr.sem = [] ∧ d.scr.cadReg = [] ∧ d.scr.expire = c.scr.expire ∧
      d.position = c.position ∧ d.exposed = c.exposed ∧
      (∀ a, ¬ (scratchAddr n 0 ≤ a ∧ a < scratchAddr n 0 + 0x1000000) → t.byte a = s.byte a) ∧
      (pass = true → d.rejoin = true ∧ d.failed = c.failed ∧ d.ccb = c.ccb ∧ t.pmc = s.pmc) ∧
      (pass = false → d.rejoin = false ∧ d.failed = some 0x0A ∧
        d.ccb = c.ccb.raise (s.ccbId (.core n)) s.frame32 fSelfTest ∧
        (t.row n).attempts = min ((s.row n).attempts + 1) 0xFFFF)

/-- R314, R410: a PMC that restarts, for a lockstep mismatch or a command beyond twice its limit, ends every command with
E_PMC_RESTART, its ACCEPT_FRAME written, and drops a running copy; the frames go on. Once it runs it takes commands again. -/
def Sys2Proof.Claims.PmcRestarts : Prop :=
  (∀ (i : Instr) (s : State), (i = .lockstepMismatch ∧ 2 ≤ s.boot.step) ∨ (i = .commandDeadlineExpiry ∧ s.pmc.cmds ≠ []) →
    s.pmc.restarting = false → Ends i s fun t =>
      Only [.pmc, .resp, .site, .hlt, .boot, .core, .sec, .rtr] s t ∧ t.pmc.restarting = true ∧ t.pmc.copy = none ∧
      tget t.pmc.corridors 3 [] = [] ∧
      t.pmc.cmds = [] ∧ t.pmc.frame = s.pmc.frame ∧ t.pmc.point = s.pmc.point ∧ t.pmc.work = s.pmc.work ∧
      tget t.pmc.cnt.now 0x051C 0 = tget s.pmc.cnt.now 0x051C 0 + 1 ∧
      t.hlt.restarts = s.recentRestarts ++ [s.pmc.frame] ∧
      (∀ e ∈ s.pmc.cmds, ((t.getSite e.1).box e.2).owner = ownDone ∧ ((t.getSite e.1).box e.2).word 4 = 0x1002 ∧
        ((t.getSite e.1).box e.2).word 6 = s.frame32) ∧
      (t.hlt.restarts.length % 3 ≠ 0 → Only [.pmc, .resp, .site, .hlt, .rtr] s t)) ∧
  ∀ s : State, s.pmc.restarting = true → s.pmc.cmds = [] → Ends .pmcRestartDone s fun t =>
    Only [.pmc, .sec] s t ∧ t.pmc = { s.pmc with restarting := false, held := none } ∧ t.sec = s.sec.resume

/-- R411 to R414, R417, R317: the hour's means of the ageing monitors; a Bracketing's result, whose reserve fails where it found
none; a re-plan of MARGIN for a trigger that holds, from the prediction of the last daily results where the quadrant has a
reserve, which takes effect at the next Shutter and is logged, or only says so where margins are MANUAL. -/
def Sys2Proof.Claims.AgeingAndMargins : Prop :=
  (∀ s : State, Ends .ageingStore s fun t =>
    Only [.quad] s t ∧ ∀ q, q < 96 →
      let x := s.getQuad q
      t.getQuad q = (if x.ageN = 0 then x else
        { x with slackMean := x.slackSum / x.ageN, roMean := x.roSum / x.ageN, slackSum := 0, roSum := 0, ageN := 0 })) ∧
  (∀ (q m0 m1 m2 : Nat) (bad : Bool) (s : State), q < 96 → s.usableIn q ≠ [] → Ends (.bracketing q m0 m1 m2 bad) s fun t =>
    let w := word [(m0, 24, 8), (m1, 16, 8), (m2, 8, 8)]
    Only [.quad, .fresh, .core] s t ∧ (∀ k, k ≠ q → t.getQuad k = s.getQuad k) ∧
    t.getQuad q = { s.getQuad q with
      brk := w, brkDays := (w :: (s.getQuad q).brkDays).take 90, brkSlack := (s.getQuad q).slackMean } ∧
    (bad = false → Only [.quad] s t) ∧
    (bad = true → ∃ n ∈ s.usableIn q, OtherCores n s t ∧ t.getCore n = { s.getCore n with failed := some 0x2A })) ∧
  ∀ (q cause : Nat) (p : Int) (s : State), q < 96 → s.replanDue q cause = true → Ends (.marginReplan q cause p) s fun t =>
    let x := s.getQuad q
    let old := x.margin
    let half := if s.usableIn q = [] ∨ x.brkDays = [] then 2 * p else x.predict
    let new := max (-50) (max (old - 10) (up5 (-(-(2 * old + (if s.usableIn q = [] then 80 else 50) - half) / 2))))
    Only [.quad, .pins, .hlt, .site, .pmc, .mem, .poison, .undef, .flips, .stack] s t ∧ (t.getQuad q).margin = old ∧
    (t.getQuad q).planSlack = x.slackMean ∧ (∀ k, k ≠ q → t.getQuad k = s.getQuad k) ∧
    (s.manual 2 = true → t.pmc.overrides = s.pmc.overrides ∧ t.hlt = s.hlt ∧
      if (2, s.ccbId (.quad q), ofSigned 32 (min 50 new)) ∈ s.pmc.asked then Only [.quad] s t
      else Told s t 8 (s.ccbId (.quad q)) 2 (ofSigned 32 (min 50 new))) ∧
    (s.manual 2 = false → Only [.quad, .hlt, .pmc] s t ∧
      t.pmc.overrides = s.pmc.overrides ++ [(.margin q (min 50 new) false, s.pmc.frame + 1)] ∧
      t.hlt.mlogPtr = (s.hlt.mlogPtr + 1) % 16 ∧
      tget t.hlt.mlog (4 * s.hlt.mlogPtr) 0 = word [(cause, 28, 4), (q, 16, 7), (sbyte old, 8, 8), (sbyte (min 50 new), 0, 8)] ∧
      (new ≤ 50 → t.getQuad q = { x with planSlack := x.slackMean }))

/-- R203, R204: at a Stop Bath a lane group that is due retrains, and carries nothing meanwhile, unless its link has just eight
good ones, which skips it; it is good again from the next Stop Bath when it passes, and is retired when it does not. -/
def Sys2Proof.Claims.LaneRetraining : Prop :=
  (∀ (k l d g : Nat) (s : State), linkFitted k l = true → d < 2 → g < 11 → 4 ≤ s.pmc.point →
    (s.getLink k l d).trained = true → (s.getLink k l d).retraining = false → (s.getLink k l d).passed = none →
    s.retrainDue (s.getLink k l d) g = true → Ends (.linkRetrain k l d g) s fun t =>
      let x := s.getLink k l d
      Only [.tile, .hlt] s t ∧ (∀ j, j ≠ k → t.getTile j = s.getTile j) ∧
      (x.good.getLsbD g = false → t = s) ∧
      (x.good.getLsbD g = true → x.goodCount = 8 →
        t.getLink k l d = { x with skipped := true, due := ndel x.due g } ∧ t.hlt = s.hlt) ∧
      (x.good.getLsbD g = true → x.goodCount ≠ 8 → t.getLink k l d = { x with retraining := true, skipped := false, group := g } ∧
        (t.row (rowLane k l d g)).state = 6 ∧
        (t.row (rowLane k l d g)).attempts = min ((s.row (rowLane k l d g)).attempts + 1) 0xFFFF)) ∧
  ∀ (k l d : Nat) (pass : Bool) (s : State), linkFitted k l = true → d < 2 → (s.getLink k l d).retraining = true →
    Ends (.linkRetrainDone k l d pass) s fun t =>
      let x := s.getLink k l d
      let y := t.getLink k l d
      Only [.tile, .hlt, .pmc] s t ∧ (∀ j, j ≠ k → t.getTile j = s.getTile j) ∧ y.retraining = false ∧ y.mode = x.mode ∧
      y.due = ndel x.due x.group ∧ y.trainedAt = tset x.trainedAt x.group s.pmc.frame 0 ∧
      (pass = true → y.good = x.good ∧ y.passed = some x.group ∧ (t.row (rowLane k l d x.group)).state = 1 ∧ t.pmc = s.pmc) ∧
      (pass = false → y.good = x.good &&& ~~~ BitVec.ofNat 11 (2 ^ x.group) ∧
        (t.row (rowLane k l d x.group)).state = 4 ∧ (t.row (rowLane k l d x.group)).reason = 0x21 ∧
        (8 ≤ y.goodCount ∨ x.mode = 2 → t.pmc = s.pmc) ∧
        (x.trained = true → y.goodCount < 8 → x.retiring = false → x.mode ≠ 2 →
          y.retiring = true ∧ linkPort k l d ∈ t.pmc.detours))

/-- R206, R207: where detours for the retired outputs are found, their tables are pending and armed two frames ahead, to act
together; where none fits, the plates they would have served await a cut of their rates. Either way the links that retire do so at
that Shutter, no output waits for a detour more, and the tables in force stay as they are. -/
def Sys2Proof.Claims.Detours : Prop :=
  ∀ s : State, s.pmc.detours ≠ [] → s.pmc.restarting = false → Ends .detourCompute s fun t =>
    Only [.pmc, .rtr, .tile, .resp] s t ∧ t.pmc.detours = [] ∧ (∀ n, (t.getRtr n).active = (s.getRtr n).active) ∧
    (∀ bs, s.detours [] = some bs →
      (∀ n, t.getRtr n = s.getRtr n ∨ n ∈ bs.map (·.1) ∧ (t.getRtr n).arm = true ∧ (t.getRtr n).validating = true ∧
        (t.getRtr n).frame16 = (s.pmc.frame + 2).setWidth 16 ∧ (n, (t.getRtr n).pending) ∈ bs) ∧
      t.pmc.together = s.pmc.together ++ [bs.map (·.1)] ∧ t.pmc.unrouted = s.pmc.unrouted) ∧
    (s.detours [] = none → t.rtr = s.rtr ∧ t.pmc.together = s.pmc.together ∧ ∀ w ∈ s.detourWorks, w ∈ t.pmc.unrouted) ∧
    ∀ e ∈ linkList, (s.getLink e.1 e.2.1 e.2.2).retiring = true → (s.getLink e.1 e.2.1 e.2.2).retireAt = none →
      (t.getLink e.1 e.2.1 e.2.2).retireAt = some (s.pmc.frame + if (s.detours []).isSome then 2 else 1)

/-- R308, R309, R423: a UCIe module that trains, or loses its link, shows in its row, and its site's state follows the modules
that are trained; a site that is DOWN trains again the modules that are not. -/
def Sys2Proof.Claims.SiteModules : Prop :=
  (∀ (g m : Nat) (mode : ModMode) (s : State), g < 2 → m < 8 → s.siteFitted g = true → (s.getSite g).railOff = false →
    s.boot.step = 6 → Ends (.moduleTrained g m mode) s fun t =>
      Only [.site, .pins, .hlt, .pmc, .mem, .poison, .undef, .flips, .stack] s t ∧
      (∀ k, tget (t.getSite g).modules k .down = (if k = m then mode else tget (s.getSite g).modules k .down)) ∧
      (t.getSite g).state = (if 4 ≤ (t.getSite g).trained then 3 else 4) ∧
      (t.row (rowModule g m)).state = (match mode with | .x64 => 1 | .x32 => 2 | .training => 6 | .down => 4)) ∧
  ∀ (g : Nat) (s : State), g < 2 → (s.getSite g).state = 4 → (s.getSite g).railOff = false → Ends (.siteRetrain g) s fun t =>
    Only [.site, .hlt] s t ∧ (∀ m, m < 8 → tget (t.getSite g).modules m .down =
      (if modTrained (tget (s.getSite g).modules m .down) then tget (s.getSite g).modules m .down else .training)) ∧
    (t.getSite g).state = 4 ∧ (t.row (rowSite g)).attempts = min ((s.row (rowSite g)).attempts + 1) 0xFFFF

/-- R246, R248: at its deadline a bind whose banks are all armed is installed, and any other is abandoned, with its banks disarmed
and its copies dropped; a resident load that fails takes one more setup frame, three times. -/
def Sys2Proof.Claims.BindDeadlines : Prop :=
  (∀ (w : Nat) (b : Binding) (s : State), w < 96 → (s.getWork w).next = some b → b.frame = s.pmc.frame + 2 →
    Ends (.bindInstallDeadline w) s fun t =>
      let rs := (footBanks (s.plate b.slot) b.quads b.variant).map (·.1)
      let ready := ∀ r ∈ rs, (s.getRtr r).arm = true ∧ (s.getRtr r).validating = false ∧
        (s.getRtr r).frame16 = b.frame.setWidth 16
      Only [.rtr, .core, .resp, .pmc] s t ∧ (∀ v, v ≠ w → t.getWork v = s.getWork v) ∧
      (ready → t = s.setWork w { s.getWork w with next := some { b with stage := .installed } }) ∧
      (¬ ready → t.resp.status = 0x0914 ∧ t.getWork w =
          { s.getWork w with next := none, closed := (s.getWork w).unbindAt.isSome } ∧
        (∀ r ∈ rs, (t.getRtr r).frame16 = b.frame.setWidth 16 → (t.getRtr r).arm = false) ∧
        (∀ n ∈ b.place, (t.getCore n).scr.copy = {}) ∧ ∀ n, n ∉ b.place → t.getCore n = s.getCore n)) ∧
  ∀ (w p : Nat) (b : Binding) (s : State), w < 96 → (s.getWork w).bound = some b → b.stage = .setup → p < b.place.length →
    (b.fails < 3 → exec (.residentLoadFail w p) s = .next (s.setWork w { s.getWork w with
      bound := some { b with fails := b.fails + 1, left := b.left + 1 } })) ∧
    (3 ≤ b.fails → Ends (.residentLoadFail w p) s fun t =>
      Only [.pmc, .core, .rtr, .pins, .site, .mem, .poison, .undef, .flips, .resp, .stack] s t ∧
      t.resp = { status := 0x0914, data := [BitVec.ofNat 32 p] } ∧
      (t.getWork w).bound = none ∧ ∀ n ∈ b.place, (t.getCore n).position = none)

/-! ### Bring-up (R419 to R435, R489) -/

/-- R419, R423, R430, R50: a cold start halts on a bad fuse word or without a bank that verifies, before any frame; else every quadrant is
locked and fired in frame 1 and ramps, the sites' modules train, and the cores start, but for those the operator has retired. The
waiting commands stay. With the last ramp over the stacks test. -/
def Sys2Proof.Claims.ColdStart : Prop :=
  (∀ (q m : Nat) (r : List Nat) (s : State), q < 96 → s.boot.step = 2 → (s.getQuad q).rail = 1 ∨ (s.getQuad q).rail = 2 →
    (s.getQuad q).rampDue = false → 15 ≤ (s.getQuad q).step → m + s.busReserve q r + 12000 ≤ 300000 →
    (∀ p, p < 96 → p ≠ q → (s.getQuad p).rampDue = false ∧ (s.getQuad p).ramping = false) →
    Ends (.rampStep q m r) s fun t => t.boot.step = 3 ∧
      ∀ h, h < 48 → (t.getStack h).state = if (s.getStack h).state = 4 then 4 else 1) ∧
  ∀ (bad : Option Nat) (s : State), s.pwr.mainOk = true ∨ s.pwr.backupOk = true → s.pwr.failed = true ∨ s.boot.step = 0 →
    Ends (.coldStart bad) s fun t =>
      let bank := (s.coldKeep.alert.selectBank s.coldKeep.boot.candidates).1
      t.pending = s.pending ∧ t.mem = [] ∧ t.poison = [] ∧ t.pmc.cmds = [] ∧ t.pmc.work = [] ∧
      t.pins.panelOk = false ∧ t.pwr.failed = false ∧ t.pwr.source = s.pwr.pick ∧
      (∀ k, bad = some k → t.pmc.frame = 0 ∧ t.boot.step = 7 ∧ t.boot.err = word [(0x1101, 16, 16), (0, 12, 4), (k, 0, 12)] ∧
        ∀ q, q < 96 → (t.getQuad q).rail = 0) ∧
      (bad = none → bank = none → t.pmc.frame = 0 ∧ t.boot.step = 7 ∧ t.boot.err = word [(0x1102, 16, 16), (1, 12, 4)] ∧
        ∀ q, q < 96 → (t.getQuad q).rail = 0) ∧
      ∀ k, bad = none → bank = some k → t.pmc.frame = 1 ∧ t.boot.step = 2 ∧ t.boot.bank = k ∧
        (∀ q, q < 96 → (t.getQuad q).rail = 0 ∧ (t.getQuad q).rampDue = true ∧ (t.getQuad q).locked = true ∧ (t.getQuad q).fired = true ∧
          (t.getQuad q).gated = 0 ∧ (t.getQuad q).margin = (s.getQuad q).margin) ∧
        (∀ h, h < 48 → (t.getStack h).state = 0) ∧
        (∀ n, n < 576 → (t.getCore n).ccb.state = .starting ∨ (t.getCore n).ccb.state = .retired ∧
          (t.row n).reason = 0x09) ∧
        ∀ r, r < 16 → (t.getRing r).bypass = true

/-- R425, R426, R205: the memory test leaves each stack READY or FAILED, gives the sites their windows from the stacks that have
not failed, and trains the lane groups: those that fail are not good, and their links are NARROW or RETIRED. -/
def Sys2Proof.Claims.MemoryTest : Prop :=
  ∀ (l : List StackTest) (bad : List LaneGroup) (s : State), s.boot.step = 3 → s.thm.state < 3 →
    Ends (.memoryTestDone ⟨l, bad⟩) s fun t =>
    Only [.pmc, .boot, .stack, .tile, .site, .pins, .hlt, .mem, .poison, .undef, .flips, .rtr, .fresh] s t ∧
    (t.boot.step = 4 ∨ t.boot.step = 5) ∧
    (∀ h, h < 48 → (∀ r ∈ l, r.stack ≠ h) → (t.getStack h).state = 2 ∨ (t.getStack h).state = 3) ∧
    (∀ r ∈ l, r.stack < 48 → r.failed = true → (∀ x ∈ l, x.stack = r.stack → x = r) → (t.getStack r.stack).state = 4 ∧
      (t.getStack r.stack).bootResult = 2 ∧ r.stack ∉ t.pmc.westTaken ∧ r.stack ∉ t.pmc.eastTaken) ∧
    (∀ h ∈ t.pmc.westTaken, h ∈ [12, 24, 13, 25] ∧ (t.getStack h).state = 3) ∧
    (∀ h ∈ t.pmc.eastTaken, h ∈ [23, 35, 22, 34] ∧ (t.getStack h).state = 3) ∧
    t.pmc.westTaken.length ≤ s.pmc.westNext ∧ t.pmc.west = t.pmc.westTaken.length ∧
    (s.sec.h2 = false → t.pmc.eastTaken = []) ∧ ∀ e ∈ linkList,
      let x := t.getLink e.1 e.2.1 e.2.2
      x.trained = true ∧ (∀ g, g < 11 → x.good.getLsbD g = !bad.contains ⟨e.1, e.2.1, e.2.2, g⟩) ∧
      x.mode = if 10 ≤ x.goodCount then 0 else if 8 ≤ x.goodCount then 1 else 2

/-- R428, R3, R396: the core test assigns each fused core that passes, retires any other, which shows SELF_TEST, and the panel is up. -/
def Sys2Proof.Claims.CoreTest : Prop :=
  ∀ (l : List Nat) (s : State), s.boot.step = 5 → s.thm.state < 3 → Ends (.coreTestDone l) s fun t =>
    Only [.pins, .pmc, .tile, .boot, .sec, .fresh, .core, .quad, .hlt, .site, .mem, .poison, .undef, .flips, .stack] s t ∧
    t.boot.step = 6 ∧ t.pins.panelOk = true ∧
    ∀ n, n < 576 →
      let q := coreQuad n
      let fused := n ∈ fusedIn q (tget s.sec.fuseExposed q 0x1F) ∨ n ∈ fusedIn q (tget s.sec.fuseReserve q 0x20)
      let good := fused ∧ n ∉ l ∧ (s.getCore n).ccb.state ≠ .retired
      (good → (t.getCore n).ccb.state = .ready ∧ ((t.row n).state = 1 ∨ (t.row n).state = 7)) ∧
      (¬ good → (t.getCore n).ccb.state = .retired ∧ (t.getCore n).exposed = (s.getCore n).exposed ∧
        ((s.getCore n).ccb.state ≠ .retired → (t.getCore n).ccb.reason = whySelfTest ∧
          (t.getCore n).ccb.fault = (s.getCore n).ccb.fault ||| faultBit fSelfTest ∧ (t.row n).reason = 0x0A))

/-- R489, R37, R405: RESET_REQ_N low for 100 ms plans a reset of every core for the next Stop Bath, and a CELL_STATE event of
the panel says so with reason OPERATOR; a shorter pulse, or one while the panel is not up, is in Safelight hold or its resume,
or has a planned reset pending, does nothing. -/
def Obligations.ResetRequests : Prop :=
  ∀ (ms : Nat) (s : State),
    let takes := 100 ≤ ms ∧ s.boot.step = 6 ∧ s.thm.state < 2 ∧ ∃ q, q < 96 ∧ (s.getQuad q).resetPending = false
    (¬ takes → exec (.resetReq ms) s = .next s) ∧
    (takes → Ends (.resetReq ms) s fun t =>
      Only [.pins, .site, .core, .quad, .mem, .poison, .undef, .flips, .stack] s t ∧
      Told s t 4 (s.ccbId .panel) (word [(9, 16, 16), (5, 0, 4)]).toNat 0 ∧
      (∀ n, n < 576 → t.getCore n = if (s.getCore n).ccb.state = .resetting then s.getCore n else
        { s.getCore n with ccb := { (s.getCore n).ccb with resetPending := true } }) ∧
      ∀ q, q < 96 → t.getQuad q = if (s.viewQuad q).state = .resetting then s.getQuad q else
        { s.getQuad q with resetPending := true })

/-- R430: the recovery service takes a bank image only while the boot ROM halts for want of a bank; a bank that does not verify is
not written. -/
def Sys2Proof.Claims.RecoveryService : Prop :=
  ∀ (b : Nat) (img : List Byte) (s : State), b < 2 → s.boot.step = 7 → bits s.boot.err.toNat 16 16 = 0x1102 →
    Ends (.recoveryImage b img) s fun t =>
      Only [.boot, .pmc, .resp] s t ∧ t.boot.step = 7 ∧
      ((parseRec img 0).or (parseRec img 0x8000) = none → t = { s with resp := { status := 0x1204 } }) ∧
      (∀ r, (parseRec img 0).or (parseRec img 0x8000) = some r →
        (t.resp.status = 0 ∧ t.bankOk (b = 1) = true ∧ t.boot.record (b = 1) = r ∧
          t.boot.image (b = 1) = img.drop imageBase) ∨
        (t.resp.status = 0x1201 ∧ t.boot = s.boot ∧ tget t.pmc.cnt.now 0x0FA0 0 = tget s.pmc.cnt.now 0x0FA0 0 + 1))

/-! ### Attestation (R307, R445, R448 to R451) -/

/-- R449: GET_VERSION begins a connection afresh; the capabilities, and then the one asymmetric algorithm and the one hash, are
agreed in that order, and a request out of order is refused. Any other request is refused, and voids a signed transcript. -/
def Sys2Proof.Claims.SpdmConnections : Prop :=
  ∀ (g : Nat) (s : State), g < 2 → (s.getSite g).open = true →
    let x := s.getSite g
    exec (.getVersion g) s = .next { s.setSite g { x with
      spdmVersion := true, spdmCaps := false, spdmAlgs := false, transcript := [], signed := none } with resp := { data := [0x1300] } } ∧
    Ends (.getCapabilities g) s (fun t =>
      Only [.site, .resp] s t ∧ (t.getSite g).signed = none ∧
      (x.spdmVersion = true → t.resp = {} ∧ (t.getSite g).spdmCaps = true ∧ (t.getSite g).spdmAlgs = x.spdmAlgs) ∧
      (x.spdmVersion = false → t.resp.status = 4 ∧ t.getSite g = { x with signed := none })) ∧
    (∀ a h m, Ends (.negotiateAlgorithms g a h m) s fun t =>
      Only [.site, .resp] s t ∧ (t.getSite g).signed = none ∧
      (x.spdmCaps = true → t.resp = { data := [a &&& 0x80, h &&& 0x2, m &&& 0x4] } ∧
        ((t.getSite g).spdmAlgs = true ↔ a &&& 0x80 ≠ 0 ∧ h &&& 0x2 ≠ 0)) ∧
      (x.spdmCaps = false → t.resp.status = 4 ∧ t.getSite g = { x with signed := none })) ∧
    ∀ code, exec (.spdmUnsupported g code) s =
      .next { s.setSite g { x with signed := none } with resp := { status := 7, data := [BitVec.ofNat 32 code] } }

/-- R445, R449, R450: on an agreed connection the digest and the chain of slot 0 and the measurements are answered; a signed
answer closes the transcript, which SIGN_TRANSCRIPT may then sign. A slot other than 0, or a block that is not there, is refused. -/
def Sys2Proof.Claims.SpdmAnswers : Prop :=
  ∀ (g : Nat) (s : State), g < 2 → (s.getSite g).open = true →
    let x := s.getSite g
    let refused (st : Status) (t : State) : Prop := t.resp.status = st ∧ t.getSite g = { x with signed := none }
    Ends (.getDigests g) s (fun t =>
      Only [.site, .resp] s t ∧ (x.spdmAlgs = false → refused 4 t) ∧
      (x.spdmAlgs = true → t.resp = { data := bytesWords (Config.sha384 s.chain) } ∧
        t.getSite g = { x with signed := none, transcript := x.transcript ++ Config.sha384 s.chain })) ∧
    (∀ slot off len, Ends (.getCertificate g slot off len) s fun t =>
      Only [.site, .resp] s t ∧ (x.spdmAlgs = false → refused 4 t) ∧
      (x.spdmAlgs = true → slot ≠ 0 ∨ s.chain.length ≤ off → refused 1 t) ∧
      (x.spdmAlgs = true → slot = 0 → off < s.chain.length →
        t.resp = { data := bytesWords ((s.chain.drop off).take len) } ∧
        (t.getSite g).transcript = x.transcript ++ (s.chain.drop off).take len)) ∧
    (∀ slot nonce, Ends (.challenge g slot nonce) s fun t =>
      Only [.site, .resp, .fresh] s t ∧ (x.spdmAlgs = false → refused 4 t) ∧
      (x.spdmAlgs = true → slot ≠ 0 → refused 1 t) ∧
      (x.spdmAlgs = true → slot = 0 → t.resp.status = 0 ∧ (t.getSite g).transcript = [] ∧
        ∃ msg, (t.getSite g).signed = some (Config.sha384 (x.transcript ++ msg)) ∧ ∃ tail, msg = nonce ++ tail)) ∧
    ∀ i sign nonce, Ends (.getMeasurements g i sign nonce) s fun t =>
      Only [.site, .resp, .fresh] s t ∧ (x.spdmAlgs = false → refused 4 t) ∧
      (x.spdmAlgs = true → 8 < i → i ≠ 0xFF → refused 1 t) ∧
      (x.spdmAlgs = true → 1 ≤ i → i ≤ 8 → sign = false → t.resp = { data := bytesWords (s.measurement i) } ∧
        t.getSite g = { x with signed := none, transcript := x.transcript ++ s.measurement i }) ∧
      (x.spdmAlgs = true → i ≤ 8 → sign = true → t.resp.status = 0 ∧ (t.getSite g).transcript = [] ∧
        (t.getSite g).signed ≠ none)

/-- R448, R451: SIGN_TRANSCRIPT signs, once, the transcript that the site's last answer closed, under the next index, which it
never gives again; GET_PUBLIC answers the HSS public key. Reserved bits are refused. -/
def Sys2Proof.Claims.LmsCompanion : Prop :=
  (∀ (g : Nat) (w : W32) (s : State), g < 2 → (s.getSite g).open = true → bits w.toNat 24 8 ≠ 2 →
    Ends (.signTranscript g w) s fun t =>
      let x := s.getSite g
      Only [.site, .resp, .sec, .fresh] s t ∧ t.resp.status = 0 ∧ t.getSite g = { x with signed := none } ∧
      (bits w.toNat 24 8 ≠ 1 ∨ bits w.toNat 0 24 ≠ 0 → t.resp.data = [lmsWord (bits w.toNat 24 8) 2] ∧ t.sec = s.sec) ∧
      (w = 0x01000000 → x.signed = none → t.resp.data = [lmsWord 1 eSecNoTranscript] ∧ t.sec = s.sec) ∧
      (w = 0x01000000 → ∀ h, x.signed = some h →
        (t.resp.data = [lmsWord 1 eSecLms] ∧ t.sec.use = s.sec.use) ∨
        (t.sec.use = s.sec.use + 1 ∧ t.resp.data.take 2 = [lmsWord 1 0, BitVec.ofNat 32 s.sec.use]))) ∧
  ∀ (g : Nat) (w : W32) (s : State), g < 2 → (s.getSite g).open = true → bits w.toNat 24 8 = 2 →
    exec (.getPublic g w) s = .next { s.setSite g { s.getSite g with signed := none } with
      resp := { data := if bits w.toNat 0 24 ≠ 0 then [lmsWord 2 2] else lmsWord 2 0 :: bytesWords hssPublic } }

/-! ### The management endpoint (R416, R475) -/

/-- R416, R475: each sensor of the panel reads in its unit; the panel's state sensor reads a state that holds, and the cooling
sensor its warning; a sensor or record that is not there is refused. -/
def Obligations.PldmReadings : Prop :=
  (∀ (id : Nat) (s : State), Ends (.getSensorReading id) s fun t =>
    Only [.resp, .fresh] s t ∧
    (id = 0 ∨ id = 9 ∨ id = 10 ∨ 13 < id → t.resp = { status := 0x80 }) ∧
    (id = 1 → s.thm.inlet0 % 16 = 0 → t.resp = { data := [BitVec.ofInt 32 (s.thm.inlet0 / 16)] }) ∧
    (id = 4 → t.resp = { data := [BitVec.ofNat 32 s.pwr.pLf] }) ∧
    (id = 6 → t.resp = { data := [BitVec.ofNat 32 (s.exposedIn .panel)] }) ∧
    (id = 11 → ∃ r : Nat, r ≤ 1 ∧ (s.mtr.total.toNat % 1000000 = 0 → r = 0) ∧
      t.resp = { data := [BitVec.ofNat 32 (s.mtr.total.toNat / 1000000 + r)] }) ∧
    (id = 12 → t.resp = { data := [s.mtr.copySeq] }) ∧ (id = 13 → t.resp = { data := [s.mtr.bypassE] })) ∧
  (∀ (id : Nat) (s : State), Ends (.getStateSensorReadings id) s fun t =>
    Only [.resp, .fresh] s t ∧ (id ≠ 9 → id ≠ 10 → t.resp = { status := 0x80 }) ∧
    (id = 9 → s.hlt.derated = false → t.resp =
      { data := [if 2 ≤ s.thm.state then 3 else if s.thm.state = 1 then 2 else 1] }) ∧
    (id = 9 → s.hlt.derated = true → s.thm.state = 0 → t.resp = { data := [4] }) ∧
    (id = 10 → t.resp = { data := [if s.thm.state = 1 then 1 else 0] })) ∧
  ∀ (r : Nat) (s : State), Ends (.getPdr r) s fun t =>
    Only [.resp, .fresh] s t ∧ (13 < r → t.resp = { status := 0x82 }) ∧
    (r ≤ 13 → t.resp.status = 0 ∧ t.resp.data.head? = some (BitVec.ofNat 32 (if r = 0 then 1 else r)))

/-! ### Metering (R461 to R475) -/

/-- R465 to R468, R473: the cartridge takes a snapshot that is whole into its open interval, and ignores any other; an interval that
closes seals one record, under the next SEQ, and the next one opens where it ended; without an index
for its signature MTR_STAT reads FAULT. -/
def Sys2Proof.Claims.MeterIntervals : Prop :=
  (∀ (ws : List W32) (s : State), s.mtr.present = true → s.mtr.powered = true → s.mtr.intOpen = true →
    Ends (.snapshot ws) s fun t =>
      Only [.mtr] s t ∧ (snapOk ws = false → t = s) ∧
      (snapOk ws = true → t.mtr.snaps = s.mtr.snaps + 1 ∧
        t.mtr.lastFrame = ((ws.getD 1 0).setWidth 64 ||| ((ws.getD 2 0).setWidth 64 <<< 32)) ∧
        t.mtr.records = s.mtr.records ∧ t.mtr.eMain = s.mtr.eMain ∧ t.mtr.eBackup = s.mtr.eBackup)) ∧
  ∀ (sec a b : Nat) (s : State), s.cartRuns = true → s.mtr.start ≤ sec → Ends (.intervalClose sec a b) s fun t =>
    Only [.mtr, .pins, .fresh, .hlt] s t ∧ (t.mtr.noLms = true → t.mtr.state = 3) ∧ (t.mtr.noLms = false → t.mtr.state = s.mtr.state) ∧
    t.mtr.seq = s.mtr.seq + 1 ∧ t.mtr.records.map (·.1) = s.mtr.records.map (·.1) ++ [s.mtr.seq + 1] ∧
    s.mtr.records <+: t.mtr.records ∧ t.mtr.intOpen = true ∧ t.mtr.start = sec ∧ t.mtr.seconds = sec ∧ t.mtr.snaps = 0 ∧
    t.mtr.lines = [] ∧ t.mtr.startE = t.mtr.eMain + t.mtr.eBackup ∧
    (s.mtr.metering = true → t.mtr.eMain = BitVec.ofNat 64 (max s.mtr.eMain.toNat a) ∧
      t.mtr.eBackup = BitVec.ofNat 64 (max s.mtr.eBackup.toNat b)) ∧
    (s.mtr.metering = false → t.mtr.eMain = s.mtr.eMain ∧ t.mtr.eBackup = s.mtr.eBackup ∧ t.mtr.flags = 4)

/-- R462, R464: the lever closes the open interval and turns metering off or on; a cartridge leaves or comes only in BYPASS, the
same one as it left and another afresh, and one that leaves closes its interval; it keeps its records when its supply goes, and opens an interval
when it returns. -/
def Sys2Proof.Claims.LeverAndCartridge : Prop :=
  (∀ (sec a b : Nat) (s : State), s.mtr.metering = true → Ends (.leverBypass sec a b) s fun t =>
    Only [.mtr, .pins, .fresh, .hlt] s t ∧ t.mtr.metering = false ∧ t.mtr.state = (if s.mtr.present then (if t.mtr.noLms then 3 else 2) else 0) ∧
    t.mtr.seq = (if s.cartRuns then s.mtr.seq + 1 else s.mtr.seq) ∧ t.pins.alertN = false ∧
    (s.mtr.present = true → s.mtr.powered = true → t.mtr.intOpen = true ∧ t.mtr.flags = 4 ∧ t.mtr.start = sec)) ∧
  (∀ (sec : Nat) (s : State), s.mtr.metering = false → s.mtr.present = true → Ends (.leverMeter sec) s fun t =>
    Only [.mtr, .pins, .hlt, .fresh] s t ∧ t.mtr.metering = true ∧ t.mtr.state = (if t.mtr.noLms then 3 else 1) ∧
    t.mtr.seq = (if s.cartRuns then s.mtr.seq + 1 else s.mtr.seq) ∧ t.mtr.eMain = s.mtr.eMain ∧
    (s.mtr.powered = true → t.mtr.intOpen = true ∧ t.mtr.cartSerial ∈ t.mtr.bay)) ∧
  (∀ s : State, s.mtr.metering = false → s.mtr.present = true → Ends (.cartridgeSwap none) s fun t =>
    Only [.mtr, .pins, .hlt, .fresh] s t ∧ t.mtr.present = false ∧ t.mtr.powered = false ∧ t.mtr.state = 0 ∧
    s.mtr.records <+: t.mtr.records ∧ t.mtr.seq = (if s.cartRuns then s.mtr.seq + 1 else s.mtr.seq) ∧ t.mtr.intOpen = false ∧
    t.mtr.eMain = s.mtr.eMain ∧ t.mtr.cartSerial = s.mtr.cartSerial ∧ t.mtr.away.head? = some (s.mtr.cartSerial, t.mtr.cartridge)) ∧
  (∀ (n : W64) (s : State), s.mtr.metering = false → s.mtr.present = false → Ends (.cartridgeSwap (some n)) s fun t =>
    Only [.mtr, .pins, .hlt] s t ∧ t.mtr.present = true ∧ t.mtr.powered = true ∧ t.mtr.cartSerial = n ∧ t.mtr.state = (if t.mtr.noLms then 3 else 2) ∧
    t.mtr.flags = 4 ∧
    (s.mtr.cartSerial = n → t.mtr.records = s.mtr.records ∧ t.mtr.eMain = s.mtr.eMain ∧ t.mtr.seq = s.mtr.seq) ∧
    (∀ c : Cartridge, s.mtr.cartSerial ≠ n → ((s.mtr.away.find? fun e => e.1 = n).map (·.2)).getD {} = c →
      t.mtr.records = c.records ∧ t.mtr.eMain = c.eMain ∧ t.mtr.eBackup = c.eBackup ∧ t.mtr.seq = c.seq ∧ t.mtr.use = c.next)) ∧
  (∀ (sec a b : Nat) (s : State), s.cartRuns = true → Ends (.cartridgePowerLoss sec a b) s fun t =>
    Only [.mtr, .pins, .fresh] s t ∧ t.mtr.powered = false ∧ t.mtr.intOpen = false ∧ t.mtr.seq = s.mtr.seq + 1 ∧
    t.mtr.present = s.mtr.present) ∧
  ∀ (sec : Nat) (s : State), s.mtr.present = true → s.mtr.powered = false → Ends (.cartridgePowerUp sec) s fun t =>
    Only [.mtr] s t ∧ t.mtr.powered = true ∧ t.mtr.use = s.mtr.next ∧ t.mtr.intOpen = true ∧ t.mtr.start = sec ∧
    t.mtr.records = s.mtr.records ∧ t.mtr.eMain = s.mtr.eMain ∧ t.mtr.seq = s.mtr.seq

/-- R471, R476: a frame of the record link that fails its CRC is counted and discarded. STATUS shows in MTR_STAT and MTR_TOTAL, and
without it the link is down; the PMC's copy keeps one record of each SEQ, the lines of each, and the chain. -/
def Sys2Proof.Claims.RecordLink : Prop :=
  (∀ (i : Instr) (st : Nat) (x : W32) (e : W64) (ws : List W32) (ls : List (List W32)) (ch : List Byte) (s : State),
    i = .statusFrame false st x e ∨ i = .legalFrame false ws ∨ i = .linesFrame false x ls ∨ i = .certsFrame false ch →
    Ends i s fun t => Only [.pmc] s t ∧ tget t.pmc.cnt.now 0x0728 0 = tget s.pmc.cnt.now 0x0728 0 + 1 ∧
      t.pmc = { s.pmc with cnt := t.pmc.cnt }) ∧
  (∀ (st : Nat) (x : W32) (e : W64) (s : State), Ends (.statusFrame true st x e) s fun t =>
    Only [.mtr, .hlt, .pins, .resp] s t ∧ t.mtr.linkOk = true ∧ t.mtr.total = e ∧
    t.mtr.state = (if s.mtr.noLms && st % 16 ≠ 0 then 3 else st % 16) ∧
    t.resp = { data := [x] }) ∧
  (∀ (ws : List W32) (s : State), Ends (.legalFrame true ws) s fun t =>
    let q := (ws.getD 2 0).toNat
    Only [.mtr, .pmc] s t ∧ ((∃ e ∈ s.mtr.copyRecs, e.1 = q) → t = s) ∧
    ((∀ e ∈ s.mtr.copyRecs, e.1 ≠ q) → tget t.mtr.copyRecs q [] = ws ∧
      (∀ k, k ≠ q → tget t.mtr.copyRecs k [] = tget s.mtr.copyRecs k []) ∧
      t.mtr.copySeq.toNat = max s.mtr.copySeq.toNat q ∧
      tget t.pmc.cnt.now 0x0724 0 = tget s.pmc.cnt.now 0x0724 0 + 1)) ∧
  (∀ (q : W32) (ls : List (List W32)) (s : State), Ends (.linesFrame true q ls) s fun t =>
    Only [.mtr] s t ∧ (∀ k, k ≠ q.toNat → tget t.mtr.copyLines k [] = tget s.mtr.copyLines k []) ∧
    ∀ l ∈ ls, ∃ m ∈ tget t.mtr.copyLines q.toNat [], lineIndex m = lineIndex l) ∧
  (∀ (ch : List Byte) (s : State), exec (.certsFrame true ch) s = .next { s with
    mtr := { s.mtr with copyCerts := ch, certsSeen := s.mtr.certsSeen + 1, copyFull := s.mtr.copyFull || 1 ≤ s.mtr.certsSeen } }) ∧
  ∀ s : State, Ends .statusTimeout s fun t =>
    Only [.mtr, .pmc, .hlt] s t ∧ t.mtr = { s.mtr with linkOk := false } ∧
    tget t.pmc.cnt.now 0x072C 0 = tget s.pmc.cnt.now 0x072C 0 + 1 ∧
    (s.mtr.metering = true → (t.row rowCart).state = 2) ∧ (s.mtr.metering = false → t.hlt = s.hlt)

/-! ### Reset and the whole machine -/

/-- R26, R45, R63, R328, R392, R417: before the cold start the registers stand at their Reset columns, memory lists nothing, and no
command waits. -/
def Obligations.ResetState : Prop :=
  let s := State.reset
  s.pending = [] ∧ s.mem = [] ∧ s.MemInv ∧ s.pmc.frame = 0 ∧ s.pmc.t = 1000 ∧ s.pmc.s = 8 ∧ s.pmc.a = 20 ∧
    s.pmc.phase = 0 ∧ s.pmc.mask = 0x0FFE ∧ s.clk.firstQd = 0x7F ∧ s.hlt.spareLast = 0xFFFFF000 ∧ s.boot.step = 0 ∧
    (∀ n, (s.getCore n).ccb.state = .off ∧ (s.getCore n).ccb.fault = 0 ∧ (s.getCore n).ccb.inport = [] ∧
      (s.getCore n).seq.baseReg = 0 ∧ (s.getCore n).seq.lenReg = 0) ∧
    (∀ r, (s.row r).state = 1 ∧ (s.row r).changes = 0) ∧ ∀ p, (s.getPort p).nbrHall = 0x3FF

/-- Every step keeps memory in its canonical form (log entry 4: what an unlisted byte reads as). -/
def Obligations.StepKeepsMemory : Prop :=
  ∀ s t : State, s.MemInv → step s = .next t → t.MemInv

namespace Sys2Proof.Machine

/-- What the cells and the engines of core `n` may hold: sixteen tokens (R35), four finished tiles (R121), an OVF and an EMITTED
that saturate (R33); the ordinals in its array and DMA queues rise (R75). -/
def CoreBounds (c : Core) : Prop :=
  c.ccb.inport.length ≤ 16 ∧ c.ccb.ovf ≤ 255 ∧ c.ccb.emitted ≤ 0xFFFF ∧ c.ve.ftq.length ≤ 4 ∧
    Ords c.arr.queue c.arr.issued ∧ Ords c.dma c.dmaIssued

/-- Every entry of the core table is within its bounds. -/
def State.BoundsInv (s : State) : Prop := ∀ e ∈ s.core, CoreBounds e.2

end Sys2Proof.Machine

/-- R33, R35, R75, R121: every step keeps the bounds of each core's queues and counters, and the order in its array and DMA queues. -/
def Obligations.StepKeepsBounds : Prop :=
  ∀ s t : State, s.BoundsInv → step s = .next t → t.BoundsInv

/-- R48, R419: only the Shutter and a cold start change the frame number, and no command changes the queue that it came
from. -/
def Obligations.FrameCounter : Prop :=
  ∀ (c : Instr) (s t : State), exec c s = .next t → t.pending = s.pending ∧
    (t.pmc.frame = s.pmc.frame ∨ (c = .shutter ∧ t.pmc.frame = s.pmc.frame + 1) ∨
      ∃ b, c = .coldStart b ∧ (t.pmc.frame = 0 ∨ t.pmc.frame = 1))

/-- R436, R437, R443: no command clears a blown fuse, lowers the anti-rollback number or changes what the fuses say of the panel; the
signing slots change with KEY_ENROL and KEY_REVOKE alone, and survive a cold start. -/
def Obligations.FusesAndSlots : Prop :=
  ∀ (c : Instr) (s t : State), exec c s = .next t →
    t.sec.revEc &&& s.sec.revEc = s.sec.revEc ∧ t.sec.revLms &&& s.sec.revLms = s.sec.revLms ∧ s.sec.arb ≤ t.sec.arb ∧
    t.sec.rootEc = s.sec.rootEc ∧ t.sec.rootLms = s.sec.rootLms ∧ t.sec.serial = s.sec.serial ∧
    t.sec.grade = s.sec.grade ∧ t.sec.f32 = s.sec.f32 ∧ t.sec.h2 = s.sec.h2 ∧
    t.sec.fuseExposed = s.sec.fuseExposed ∧ t.sec.fuseReserve = s.sec.fuseReserve ∧
    (c ≠ .keyEnrol → c ≠ .keyRevoke → t.sec.slots = s.sec.slots)

/-- R43: an entry of the CCB window whose work cell or hall cell is not configured reads its CCB_ID, OFF with reason NONE, no work cell, and zero
in every other word (while the PMC restarts, one that was not configured before: R410); a write to its TOKEN_IN, CCB_RESET or CCB_DOORBELL is
discarded and completes with E_NO_CELL. -/
def Obligations.UnconfiguredCells : Prop :=
  (∀ (i : Nat) (s : State), i < 16 →
    let answer (cell : CellId) : W32 := if i = 0 then s.ccbId cell else if i = 14 then 0xFFFFFFFF else 0
    (∀ w, w < 96 → (s.shown (.work w)).configured (.work w) = false →
      exec (.mgmtMessage false (regBase + 0x2C38000 + 64 * (409 + w) + 4 * i) 0) s =
        .next { s with resp := { data := [answer (.work w)] } }) ∧
    (s.configured .hall = false → exec (.mgmtMessage false (regBase + 0x2C38000 + 64 * 505 + 4 * i) 0) s =
      .next { s with resp := { data := [answer .hall] } })) ∧
  (∀ (cell : CellId) (v : W32) (s : State), (∃ w, w < 96 ∧ cell = .work w) ∨ cell = .hall → s.configured cell = false →
    ∀ c ∈ [Instr.tokenInWrite cell v, .ccbResetPlanned cell, .ccbResetFatal cell, .ccbDoorbellWrite cell v],
      exec c s = .next { s with resp := { status := 0x0101 } }) ∧
  ∀ s : State, (∀ w, w < 96 → bits (s.ccbId (.work w)).toNat 28 4 = 5 ∧ bits (s.ccbId (.work w)).toNat 0 16 = w) ∧
    bits (s.ccbId .hall).toNat 28 4 = 6 ∧ (s.configured .hall = false → bits (s.ccbId .hall).toNat 0 16 = 0x3FF)

/-- R266: HOSTWIN_SET gives WEST_NEXT and EAST_NEXT, and is refused with E_HOSTWIN_RANGE above 4, or with a non-zero EAST_NEXT on an
H1 part; no other command changes them, and the windows themselves change with a cold start and its memory test alone. -/
def Obligations.HostWindows : Prop :=
  (∀ s c, Accepted .hostwinSet s c →
    let e := bits (c.w 0) 12 3
    let w := bits (c.w 0) 8 3
    (4 < e ∨ 4 < w ∨ e ≠ 0 ∧ s.sec.h2 = false → Finishes .hostwinSet s c 0x0A04 [] s) ∧
    (e ≤ 4 → w ≤ 4 → e = 0 ∨ s.sec.h2 = true → Finishes .hostwinSet s c 0 []
      { s with pmc := { s.pmc with eastNext := e, westNext := w } })) ∧
  (∀ (l : List StackTest) (bad : List LaneGroup) (s : State), s.boot.step = 3 → s.thm.state < 3 → (∀ r ∈ l, r.failed = false) →
    Ends (.memoryTestDone ⟨l, bad⟩) s fun t => t.pmc.westTaken = [12, 24, 13, 25].take s.pmc.westNext ∧
      t.pmc.eastTaken = (if s.sec.h2 then [23, 35, 22, 34].take s.pmc.eastNext else [])) ∧
  ∀ (c : Instr) (s t : State), exec c s = .next t →
    (c ≠ .hostwinSet → t.pmc.westNext = s.pmc.westNext ∧ t.pmc.eastNext = s.pmc.eastNext) ∧
    ((∀ b, c ≠ .coldStart b) → (∀ l bad, c ≠ .memoryTestDone ⟨l, bad⟩) →
      t.pmc.westTaken = s.pmc.westTaken ∧ t.pmc.eastTaken = s.pmc.eastTaken ∧ t.pmc.west = s.pmc.west ∧
        t.pmc.east = s.pmc.east)

/-! ### Every command completes

For each command the condition, on the state and the operands alone, under which the spec has it act, and that `exec` then
answers a next state with its effect. -/

/-- R35, R37 to R39, R40, R211: cells: a token is queued, a reset is planned or acts, a doorbell is taken and answered, fault bits
clear, a fault is told. -/
def Sys2Proof.Claims.CellsComplete : Prop :=
  (∀ (n : Nat) (v : W32) (s : State), n < 576 → (s.getCore n).ccb.state ≠ .resetting → bits v.toNat 28 4 < 6 →
    bits v.toNat 24 4 = 0 → (s.getCore n).ccb.inport.length < 16 → ∃ t, exec (.tokenInWrite (.core n) v) s = .next t ∧
      (t.getCore n).ccb.inport = (s.getCore n).ccb.inport ++ [v]) ∧
  (∀ (n : Nat) (s : State), n < 576 → (s.getCore n).ccb.state ≠ .resetting →
    ∃ t, exec (.ccbResetPlanned (.core n)) s = .next t ∧ (t.getCore n).ccb.resetPending = true) ∧
  (∀ (n : Nat) (s : State), n < 576 → ∃ t, exec (.ccbResetFatal (.core n)) s = .next t ∧
    (t.getCore n).ccb.state = .resetting ∧ (t.getCore n).ccb.fault.getLsbD 0 = true) ∧
  (∀ (cell : CellId) (v : W32) (s : State), cellOk cell = true → s.configured cell = true →
    (s.view cell).state ≠ .resetting → (s.ccbOf cell).dbPending = false →
    ∃ t, exec (.ccbDoorbellWrite cell v) s = .next t ∧
      t.ccbOf cell = { s.ccbOf cell with dbPending := true, cookie := v.setWidth 24 }) ∧
  (∀ (cell : CellId) (s : State), cellOk cell = true → (s.ccbOf cell).dbPending = true → s.pmc.restarting = false →
    ∃ t, exec (.doorbellAccept cell) s = .next t ∧ t.ccbOf cell = { s.ccbOf cell with dbPending := false } ∧
      Told s t 11 (s.ccbId cell) (s.ccbOf cell).cookie.toNat 0) ∧
  (∀ (n : Nat) (v : W32) (s : State), n < 576 → ∃ t, exec (.ccbFaultClear (.core n) v) s = .next t ∧
    (t.getCore n).ccb.fault = (s.getCore n).ccb.fault &&& ~~~ v.setWidth 16) ∧
  ∀ (cell : CellId) (f : BitVec 16) (s : State), cellOk cell = true → s.reaches (s.tokenNode cell) nodePmc = true →
    ∃ t, exec (.faultMessage cell f) s = .next t ∧
    t.resp.data = [s.ccbId cell, f.setWidth 32]

/-- R7, R196, R211, R217, R311: registers: a write and a MGMT message reach CORE_SEQ_BASE and CORE_SEQ_LEN, RTR_TBL_DATA is written
and read at INDEX, a swap is armed, validated and disarmed, and the doorbell page takes its indices. -/
def Sys2Proof.Claims.RegistersComplete : Prop :=
  (∀ (n : Nat) (v : W32) (s : State), n < 576 → (s.getCore n).ccb.state ≠ .resetting →
    ∃ t, exec (.registerWrite .mgmt (regBase + n * 0x10000 + 0x40) 4 v) s = .next t ∧
      (t.getCore n).seq.baseReg = v.toNat % 2 ^ 18) ∧
  (∀ (n : Nat) (v : W32) (s : State), n < 576 → s.reaches nodePmc (coreQuad n) = true →
    (s.getCore n).ccb.state ≠ .resetting → v.toNat % 32768 ≤ 16384 →
    ∃ t, exec (.mgmtMessage true (regBase + n * 0x10000 + 0x44) v) s = .next t ∧
      (t.getCore n).seq.lenReg = v.toNat % 32768) ∧
  (∀ (n : Nat) (s : State), n < 576 → s.reaches nodePmc (coreQuad n) = true →
    ∃ t, exec (.mgmtMessage false (regBase + n * 0x10000) 0) s = .next t ∧
    t.resp.data = [s.ccbId (.core n)]) ∧
  (∀ (n : Nat) (v : W32) (s : State), n < 576 → (s.getRtr n).bankSel = false → (s.getRtr n).index ≤ 16400 →
    ∃ t, exec (.rtrTblDataWrite n v) s = .next t ∧ tget (t.getRtr n).pending (s.getRtr n).index 0 = v ∧
      (t.getRtr n).index = (s.getRtr n).index + 1) ∧
  (∀ (n : Nat) (s : State), n < 576 → (s.getRtr n).bankSel = false → (s.getRtr n).index ≤ 16400 →
    ∃ t, exec (.rtrTblDataRead n) s = .next t ∧ t.resp.data = [tget (s.getRtr n).pending (s.getRtr n).index 0] ∧
      (t.getRtr n).index = (s.getRtr n).index + 1) ∧
  (∀ (n : Nat) (f : BitVec 16) (s : State), n < 576 →
    let d := (f.toNat + 65536 - s.pmc.frame.toNat % 65536) % 65536
    2 ≤ d → d ≤ 32767 → ∃ t, exec (.swapArm n f) s = .next t ∧ t.getRtr n =
      { s.getRtr n with frame16 := f, arm := true, validating := true, status := 0 }) ∧
  (∀ (n : Nat) (f : BitVec 16) (s : State), n < 576 → (s.getRtr n).arm = true →
    ∃ t, exec (.swapDisarm ⟨n, f⟩) s = .next t ∧ (t.getRtr n).arm = false ∧ (t.getRtr n).frame16 = f ∧
      (t.getRtr n).status = 0) ∧
  (∀ (n : Nat) (s : State), n < 576 → (s.getRtr n).validating = true → s.bankError n (s.getRtr n).pending = none →
    ∃ t, exec (.bankValidationDone n) s = .next t ∧
      t.getRtr n = { s.getRtr n with validating := false, status := 1 }) ∧
  (∀ (g m : Nat) (s : State), g < 2 → m < 16 → 1 ≤ (s.getSite g).state → (s.getSite g).state ≤ 3 →
    ((s.getSite g).box m).owner ≠ 1 → s.pmc.restarting = false → opcodes.contains (s.cmdAt g m).op → s.pmc.cmds = [] →
    ∃ t, exec (.mailboxDoorbell g m) s = .next t ∧ ((t.getSite g).box m).owner = 1 ∧ t.pmc.cmds = [(g, m)]) ∧
  (∀ (g : Nat) (v : W32) (s : State), g < 2 →
    let x := s.getSite g
    let size := 2 ^ x.aLog
    let tail := v.toNat % 65536
    1 ≤ x.state → x.state ≤ 3 → x.ringsSet = true → tail < size →
    (x.aTail + size - x.aHead) % size + (tail + size - x.aTail) % size ≤ size - 1 →
    ∃ t, exec (.aringTailWrite g v) s = .next t ∧ (t.getSite g).aTail = tail ∧
      t.pmc.posted = s.pmc.posted ++ [(g, tail)]) ∧
  ∀ (g : Nat) (v : W32) (s : State), g < 2 →
    let x := s.getSite g
    let size := 2 ^ x.cLog
    let head := v.toNat % 65536
    1 ≤ x.state → x.state ≤ 3 → x.ringsSet = true → head < size →
    (head + size - x.cHead) % size ≤ (x.cTail + size - x.cHead) % size →
    ∃ t, exec (.cringHeadWrite g v) s = .next t ∧ (t.getSite g).cHead = head

/-- R316, R320, R324, R63, R466, R471: Vilsal commands that read, and those that set a value at once or at a frame. -/
def Sys2Proof.Claims.VilsalReadsComplete : Prop :=
  (∀ s c, Accepted .getInfo s c → ∃ t, exec .getInfo s = .next t ∧ Reply s t c 0
    [word [(s.sec.grade, 30, 2), (b2n s.sec.f32, 29, 1), (b2n s.sec.h2, 28, 1), (s.exposedIn .panel, 0, 16)],
      word [(s.fab.id, 0, 12)], s.pmc.frame.setWidth 32, (s.pmc.frame >>> 32).setWidth 32, s.sec.version,
      word [((s.getSite 0).state, 0, 4), ((s.getSite 1).state, 4, 4)]]) ∧
  (∀ s c, Accepted .contactRead s c → c.w 0 < 8506 → c.w 0 + c.w 1 ≤ 8506 → ∃ t, exec .contactRead s = .next t ∧
    Reply s t c 0 ((upTo (c.w 0) (min 252 (c.w 1))).flatMap s.rowWords)) ∧
  (∀ s c b, Accepted .statsRead s c → c.w 0 < 96 → (s.getWork (c.w 0)).bound = some b → c.w 2 ≤ 84 →
    c.w 1 + c.w 2 ≤ plCount (s.plate b.slot) 0x0B 8 → ∃ t, exec .statsRead s = .next t ∧
    Reply s t c 0 ((upTo (c.w 1) (c.w 2)).flatMap (s.statRecord (s.plate b.slot) b.place))) ∧
  (∀ s c, Accepted .classGet s c → c.w 0 < 96 → (s.getWork (c.w 0)).quads ≠ [] → ∃ t, exec .classGet s = .next t ∧
    Reply s t c 0 ((List.range 8).flatMap fun k =>
      let y := (s.getWork (c.w 0)).getCls k
      [BitVec.ofNat 32 y.quota, BitVec.ofNat 32 (s.quotaIn (c.w 0) k), BitVec.ofNat 32 y.depth,
        BitVec.ofNat 32 y.queue.length])) ∧
  (∀ s c, Accepted .fwStatus s c → ∃ t, exec .fwStatus s = .next t ∧ Reply s t c 0 s.fwWords) ∧
  (∀ s c, Accepted .meterReadLegal s c → c.w 2 = 1 → c.w 1 ≠ 0xFFFFFFFF → tget s.mtr.copyRecs (c.w 1) [] ≠ [] →
    ∃ t, exec .meterReadLegal s = .next t ∧ Reply s t c 0 (tget s.mtr.copyRecs (c.w 1) [])) ∧
  (∀ s c e, Accepted .meterReadInformative s c → 0 < c.w 2 → c.w 2 ≤ 63 →
    (s.mtr.copyRecs.filter fun e => e.1 % 2 ^ 22 = bits (c.w 1) 10 22).getLast? = some e →
    let part := (upTo (bits (c.w 1) 0 10) (c.w 2)).map fun i =>
      ((tget s.mtr.copyLines e.1 []).find? fun l => lineIndex l = i).getD []
    bits (c.w 1) 0 10 + c.w 2 ≤ (e.2.getD 18 0).toNat → (∀ l ∈ part, l ≠ []) →
    ∃ t, exec .meterReadInformative s = .next t ∧ Reply s t c 0 part.flatten) ∧
  (∀ s c, Accepted .eventMask s c → ∃ t, exec .eventMask s = .next t ∧ Reply s t c 0 [s.pmc.mask] ∧
    t.pmc.mask = BitVec.ofNat 32 (c.w 0)) ∧
  (∀ s c, Accepted .powerLimit s c → 1000 ≤ c.w 0 → c.w 0 ≤ 10800 → ∃ t, exec .powerLimit s = .next t ∧
    Reply s t c 0 [BitVec.ofNat 32 s.pwr.limit] ∧ t.pwr.limit = c.w 0) ∧
  (∀ s c, Accepted .hostwinSet s c → bits (c.w 0) 12 3 ≤ 4 → bits (c.w 0) 8 3 ≤ 4 →
    bits (c.w 0) 12 3 = 0 ∨ s.sec.h2 = true → ∃ t, exec .hostwinSet s = .next t ∧ Reply s t c 0 [] ∧
      t.pmc.eastNext = bits (c.w 0) 12 3 ∧ t.pmc.westNext = bits (c.w 0) 8 3) ∧
  (∀ s c, Accepted .ringSetup s c →
    let x := s.getSite c.site
    let a := c.w64 0
    let b := c.w64 3
    6 ≤ c.w 2 → c.w 2 ≤ 15 → 7 ≤ c.w 5 → c.w 5 ≤ 16 → c.w 2 + 1 ≤ c.w 5 → a % 4096 = 0 → b % 4096 = 0 →
    a + 64 * 2 ^ c.w 2 ≤ s.winSize c.site → b + 64 * 2 ^ c.w 5 ≤ s.winSize c.site →
    overlap a (64 * 2 ^ c.w 2) b (64 * 2 ^ c.w 5) = false → s.siteReqs c.site = [] → x.held = [] → x.aHead = x.aTail →
    ∃ t, exec .ringSetup s = .next t ∧ Reply s t c 0 [] ∧
      let y := t.getSite c.site
      y.ringsSet = true ∧ y.aOff = a ∧ y.aLog = c.w 2 ∧ y.cOff = b ∧ y.cLog = c.w 5 ∧ y.aHead = 0 ∧ y.aTail = 0 ∧
      y.cTail = 0 ∧ y.cHead = 0 ∧ y.cPhase = true) ∧
  (∀ s c, Accepted .frameConfig s c →
    let t := bits (c.w 1) 0 15
    let x := bits (c.w 1) 16 8
    let a := bits (c.w 1) 24 8
    BitVec.ofNat 32 (c.w 0) = s.ccbId .panel → bits (c.w 0) 28 4 = 4 → t ≠ 0 → x ≠ 0 → frameRangeOk t x a = true →
    s.fab.hallIndex = none → s.inTime (c.frame 2) → s.pmc.next = none →
    (∀ e ∈ s.pmc.work, ∀ b, e.2.boundAt (c.frame 2) = some b → plT (s.plate b.slot) = t ∧ plS (s.plate b.slot) = x) →
    ∃ u, exec .frameConfig s = .next u ∧ Reply s u c 0 [] ∧ u.pmc.next = some (t, x, a, c.frame 2)) ∧
  (∀ s c, Accepted .cellConfig s c → c.w 0 < 96 → s.inTime (c.frame 4) →
    let x := s.getWork (c.w 0)
    let new := { x with config := x.config ++ [(maskQuads c 1, c.frame 4)] }
    (∀ e ∈ s.pmc.work, e.1 ≠ c.w 0 → ∀ t, ∀ q ∈ e.2.quadsAt t, q ∉ new.quadsAt t) →
    x.boundAt (c.frame 4) = none → (∀ b, x.next = some b → b.frame < c.frame 4) →
    ∃ t, exec .cellConfig s = .next t ∧ Reply s t c 0 [] ∧ t.getWork (c.w 0) = new) ∧
  (∀ s c, Accepted .classSet s c →
    let w := bits (c.w 0) 0 7
    let k := bits (c.w 0) 8 3
    let y := (s.getWork w).getCls k
    let new := { s.getWork w with
      cls := tset (s.getWork w).cls k { y with next := y.next ++ [(c.w 1, c.w 2, c.frame 3)] } {} }
    w < 96 → c.w 2 ≤ 1024 → (s.getWork w).quadsAt (c.frame 3) ≠ [] → s.inTime (c.frame 3) →
    (∀ t b, (s.getWork w).boundAt t = some b → new.quotasAt t ≤ costCap (s.plate b.slot)) →
    ∃ t, exec .classSet s = .next t ∧ Reply s t c 0 [] ∧ t.getWork w = new) ∧
  ∀ s c, Accepted .jobTag s c → c.w 0 < 96 → (s.getWork (c.w 0)).quadsAt (c.frame 2) ≠ [] → s.inTime (c.frame 2) →
    ∃ t, exec .jobTag s = .next t ∧ Reply s t c 0 [] ∧ t.getWork (c.w 0) = { s.getWork (c.w 0) with
      tagNext := (s.getWork (c.w 0)).tagNext ++ [(BitVec.ofNat 32 (c.w 1), c.frame 2)] }

/-- R316, R317: Vilsal overrides and policies: each accepted one answers DONE and waits for its frame. -/
def Sys2Proof.Claims.VilsalOverridesComplete : Prop :=
  (∀ s c, Accepted .policySet s c → bits (c.w 0) 0 4 < 6 → ∃ t, exec .policySet s = .next t ∧
    Reply s t c 0 [word [(b2n (s.manual (bits (c.w 0) 0 4)), 8, 1), (bits (c.w 0) 0 4, 0, 4)]] ∧
    t.manual (bits (c.w 0) 0 4) = bitOf (c.w 0) 8) ∧
  (∀ s c cell, s.forced c = some (.inl cell) → s.configured cell = true → s.inTime (c.frame 2) →
    (Accepted .cellForceDark s c → c.w 1 % 4 = 0 → ∃ t, exec .cellForceDark s = .next t ∧ Reply s t c 0 [] ∧
      t.pmc.overrides = s.pmc.overrides ++ [(.dark cell, c.frame 2)]) ∧
    (Accepted .cellForceRelease s c → ∃ t, exec .cellForceRelease s = .next t ∧ Reply s t c 0 [] ∧
      t.pmc.overrides = s.pmc.overrides ++ [(.release cell, c.frame 2)]) ∧
    (Accepted .cellForceRetire s c → s.manual 0 = true → ∃ t, exec .cellForceRetire s = .next t ∧ Reply s t c 0 [] ∧
      t.pmc.overrides = s.pmc.overrides ++ (s.coresOf cell).map fun n => (.retire n, c.frame 2))) ∧
  (∀ s c, Accepted .spareSet s c → c.w 0 < 576 → c.w 1 < 576 → c.w 0 ≠ c.w 1 → (s.row (c.w 1)).state = 7 →
    (s.getCore (c.w 1)).position = none → s.sparePending (c.w 0) (c.w 1) = false →
    (s.getCore (c.w 0)).exposed = true ∨ (s.getCore (c.w 0)).owed = true →
    s.manual 0 = true → s.inTime (c.frame 2) → ∃ t, exec .spareSet s = .next t ∧ Reply s t c 0 [] ∧
      (.spare (c.w 0) (c.w 1), c.frame 2) ∈ t.pmc.overrides) ∧
  (∀ s c, bits (c.w 0) 13 2 ≠ 3 → linkFitted (c.w 1) (bits (c.w 0) 4 4) = true → bits (c.w 0) 9 4 ≤ 10 →
    s.manual 1 = true → s.inTime (c.frame 2) →
    (Accepted .linkForceRetire s c → ∃ t, exec .linkForceRetire s = .next t ∧ Reply s t c 0 [] ∧ t.pmc.overrides =
      s.pmc.overrides ++ [(.linkRetire (c.w 1) (bits (c.w 0) 4 4) (bits (c.w 0) 8 1) (bits (c.w 0) 9 4), c.frame 2)]) ∧
    (Accepted .linkForceRetrain s c → ∃ t, exec .linkForceRetrain s = .next t ∧ Reply s t c 0 [] ∧ t.pmc.overrides =
      s.pmc.overrides ++ [(.linkRetrain (c.w 1) (bits (c.w 0) 4 4) (bits (c.w 0) 8 1) (bits (c.w 0) 9 4), c.frame 2)]) ∧
    (Accepted .linkForceReturn s c → ∃ t, exec .linkForceReturn s = .next t ∧ Reply s t c 0 [] ∧ t.pmc.overrides =
      s.pmc.overrides ++ [(.linkReturn (c.w 1) (bits (c.w 0) 4 4) (bits (c.w 0) 8 1) (bits (c.w 0) 9 4), c.frame 2)])) ∧
  (∀ s c, Accepted .clockSet s c →
    let q := bits (c.w 0) 0 7
    let r := bits (c.w 0) 8 5
    q < 96 → 8 ≤ r → r ≤ 16 → s.allManual = true → s.inTime (c.frame 1) →
    (∀ b, ((s.workOfQuad q).bind fun w => (s.getWork w).boundAt (c.frame 1)) = some b →
      (upTo 1 (plNvar (s.plate b.slot))).any (fun v => varRatio (s.plate b.slot) v = r) = true) →
    ∃ t, exec .clockSet s = .next t ∧ Reply s t c 0 [] ∧
      t.pmc.overrides = s.pmc.overrides ++ (s.ratioQuads q).map fun y => (.clock y r, c.frame 1)) ∧
  (∀ s c, Accepted .marginSet s c → c.w 0 < 96 → -50 ≤ toSigned 32 (c.w 1) → toSigned 32 (c.w 1) ≤ 50 →
    s.manual 2 = true → s.inTime (c.frame 2) → ∃ t, exec .marginSet s = .next t ∧ Reply s t c 0 [] ∧
      t.pmc.overrides = s.pmc.overrides ++ [(.margin (c.w 0) (toSigned 32 (c.w 1)) true, c.frame 2)]) ∧
  ∀ s c, s.ringFitted (bits (c.w 0) 0 4) = true → s.inTime (c.frame 1) →
    (Accepted .ringRelease s c → ∃ t, exec .ringRelease s = .next t ∧ Reply s t c 0 [] ∧
      t.pmc.overrides = s.pmc.overrides ++ [(.ring (bits (c.w 0) 0 4) true, c.frame 1)]) ∧
    (Accepted .ringRejoin s c → ∃ t, exec .ringRejoin s = .next t ∧ Reply s t c 0 [] ∧
      t.pmc.overrides = s.pmc.overrides ++ [(.ring (bits (c.w 0) 0 4) false, c.frame 1)])

/-- R240, R245, R249, R268, R286, R294, R297, R318, R443: Vilsal commands on halls, identities, plates, keys and memory. -/
def Sys2Proof.Claims.VilsalPlatesComplete : Prop :=
  (∀ s c, Accepted .fabRebind s c → s.inTime (c.frame 2) → s.fab.idNext = none →
    (∀ e ∈ s.ring, e.2.map.contains (c.w 0) = false) → ∃ t, exec .fabRebind s = .next t ∧ Reply s t c 0 [] ∧
      t.fab.idNext = some (c.w 0, c.frame 2)) ∧
  (∀ s c, Accepted .hallForm s c →
    let ids := (List.range (c.w 1)).map (hallEntry c)
    c.w 0 ≠ 1023 → 2 ≤ c.w 1 → c.w 1 ≤ 2000 → distinct ids = true → (∀ k, s.fab.hallIndex = some k → k = c.w 0) →
    s.fab.hallNext = none →
    s.panelId ∈ ids → (∀ p ∈ ids, s.inOtherHall p (c.w 0) = false) → (∀ p ∈ ids, p ≠ s.panelId → s.route p ≠ none) →
    s.inTime (c.frame 2) → ∃ t, exec .hallForm s = .next t ∧ Reply s t c 0 [] ∧
      t.fab.hallNext = some (some (c.w 0), ids, c.frame 2)) ∧
  (∀ s c, Accepted .hallLeave s c → s.fab.hallIndex = some (c.w 0) → s.fab.hallNext = none → s.inTime (c.frame 1) →
    ∃ t, exec .hallLeave s = .next t ∧ Reply s t c 0 [] ∧ t.fab.hallNext = some (none, [], c.frame 1)) ∧
  (∀ s c, Accepted .plateLoad s c → c.w64 0 % 4096 = 0 → c.w64 0 + c.w64 2 ≤ s.winSize c.site →
    let img := (s.winTake c.site (c.w64 0) (c.w64 2)).1
    c.w64 2 ≠ 0 → (∃ i, i < 16 ∧ ∀ e ∈ s.pmc.store, e.1 ≠ i) → ∃ t, exec .plateLoad s = .next t ∧
      if check1 img = none ∧ s.plateSigned img = true ∧ check3 img = none then
        ∃ i, i < 16 ∧ (∀ e ∈ s.pmc.store, e.1 ≠ i) ∧
          Reply s t c 0 [BitVec.ofNat 32 i, BitVec.ofNat 32 (plId img).1, BitVec.ofNat 32 (plId img).2] ∧
          (i, { image := img, keySlot := plateSlot img }) ∈ t.pmc.store
      else ((t.getSite c.site).box c.mb).owner = ownDone ∧ t.pmc.store = s.pmc.store) ∧
  (∀ s c, Accepted .plateDelete s c → (∃ e ∈ s.pmc.store, e.1 = c.w 0) → c.w 0 ∉ s.usedSlots →
    ∃ t, exec .plateDelete s = .next t ∧ Reply s t c 0 [] ∧
      t.pmc.store = s.pmc.store.filter fun e => e.1 ≠ c.w 0) ∧
  (∀ s c, Accepted .plateUnbind s c → c.w 0 < 96 → (s.getWork (c.w 0)).quads ≠ [] → (s.getWork (c.w 0)).next = none →
    (s.getWork (c.w 0)).unbindAt = none → (s.getWork (c.w 0)).bound ≠ none →
    s.pmc.frame.toNat + s.bindLead (c.w 0) ≤ (c.frame 1).toNat → ∃ t, exec .plateUnbind s = .next t ∧ Reply s t c 0 [] ∧
      t.getWork (c.w 0) = { s.getWork (c.w 0) with unbindAt := some (c.frame 1), closed := true }) ∧
  (∀ s c, Accepted .plateBind s c →
    let slot := bits (c.w 0) 8 4
    let w := bits (c.w 0) 0 7
    let f := c.frame 1
    let quads := (s.getWork w).quadsAt f
    w < 96 → (∃ e ∈ s.pmc.store, e.1 = slot) → quads ≠ [] → (s.getWork w).next = none → (s.getWork w).unbindAt = none →
    s.pmc.frame.toNat + s.bindLead w ≤ f.toNat →
    s.bindChecks w f quads (s.plate slot) = none →
    ∃ t, exec .plateBind s = .next t ∧ ∃ b, (t.getWork w).next = some b ∧ b.slot = slot ∧ b.frame = f ∧
      Reply s t c 0 [BitVec.ofNat 32 b.n, (f + BitVec.ofNat 64 b.n).setWidth 32,
        ((f + BitVec.ofNat 64 b.n) >>> 32).setWidth 32]) ∧
  (∀ s c, Accepted .keyEnrol s c →
    let m := (wordBytes ((c.args.drop 2).map (BitVec.ofNat 32))).take (c.w 1)
    ∃ t, exec .keyEnrol s = .next t ∧ if s.enrolOk m = true ∧ bits (plWord m 16) 0 2 = c.w 0 then
      Reply s t c 0 [] ∧ tget t.sec.slots (c.w 0) {} =
        ({ filled := true, ec := ((manBody m).drop 4).take 96, lms := ((manBody m).drop 100).take 56
           number := BitVec.ofNat 32 (manSeq m) } : KeySlot)
      else Reply s t c 0x0C0C []) ∧
  (∀ s c, Accepted .keyRevoke s c → (tget s.sec.slots (c.w 0) {}).filled = true → ∃ t, exec .keyRevoke s = .next t ∧
    Reply s t c 0 [] ∧ tget t.sec.slots (c.w 0) {} =
      { tget s.sec.slots (c.w 0) {} with filled := false, ec := [], lms := [], revoked := true }) ∧
  (∀ s c, Accepted .resSplit s c →
    let win := bits (c.w 0) 8 4
    let r := bits (c.w 0) 0 8
    win ≤ 8 → r < 48 → s.windowUsed (c.frame 1) r win = false → s.inTime (c.frame 1) → (s.getStack r).winNext = none →
    ∃ t, exec .resSplit s = .next t ∧ Reply s t c 0 [] ∧ (t.getStack r).winNext = some (win, c.frame 1)) ∧
  (∀ s c, Accepted .publish s c →
    let a := c.w64 0
    let len := c.w64 2
    let f := c.frame 5
    a % 2048 = 0 → len % 2048 = 0 → len ≠ 0 → s.inPoolOrWindow a len = true → c.w 4 ≠ 0 →
    (∀ w ∈ s.writerRegions, overlap w.1 w.2 a len = false) → s.hallFrame.toNat + 2 ≤ f.toNat →
    (s.fab.pub.find? fun e => s.pubActive e.2 && e.2.base = a && e.2.len = len) = none →
    (∃ i, i < 64 ∧ ∀ e ∈ s.fab.pub, e.1 = i → s.pubActive e.2 = false) →
    ∃ t, exec .publish s = .next t ∧ ∃ i, i < 64 ∧ Reply s t c 0 [BitVec.ofNat 32 i] ∧
      (i, { base := a, len := len, start := f, stop := f + BitVec.ofNat 64 (c.w 4) - 1 }) ∈ t.fab.pub) ∧
  ∀ s c, Accepted .hbmCopy s c →
    let off := c.w64 0
    let dst := c.w64 2
    let len := c.w64 4
    off % 4096 = 0 → dst % 2048 = 0 → len % 2048 = 0 → off + len ≤ s.winSize c.site →
    (len = 0 → ∃ t, exec .hbmCopy s = .next t ∧ Reply s t c 0 []) ∧
    (len ≠ 0 → s.inPool dst len = true → (∀ w ∈ s.writerRegions, overlap w.1 w.2 dst len = false) →
      (∀ e ∈ s.fab.pub, s.pubActive e.2 = true → overlap e.2.base e.2.len dst len = false) →
      let k : Copy := { site := c.site, mb := c.mb, src := off, dst := dst, len := len }
      let legs := (s.copyFrom k).flatMap fun a => (copyTo k).map fun z => (⟨.res a, .res z, 64, none⟩ : Leg)
      ∃ t, exec .hbmCopy s = .next t ∧
        if (s.addCorridor 3 legs).isSome then t.pmc.copy = some k else Reply s t c 0x0909 [])

/-- R75, R86 to R95, R121 to R126, R138, R174: descriptors: each valid one issues: it enters its engine's queue, or acts, and the sequencer
goes on; the signals and marks that waited are sent and written. -/
def Sys2Proof.Claims.DescriptorsComplete : Prop :=
  (∀ (n k : Nat) (d : List W32) (s : State), Streams s n d k →
    let c := s.getCore n
    (dKind d = 1 → c.dma.length < 16 → dmCheck s n d = none →
      (flag d 0 15 = false → ∃ t, exec (.dmaGet n) s = .next t ∧ Issued s t n k ∧ Appended c.dma (t.getCore n).dma d k) ∧
      (flag d 0 15 = true → ∃ t, exec (.dmaPut n) s = .next t ∧ Issued s t n k ∧ Appended c.dma (t.getCore n).dma d k)) ∧
    (dKind d = 2 → (aqRoom c.arr.queue (c.seq.ready 0)).isSome = true → arCheck c s.pmc.frame d = none →
      ∃ t, exec (.array n) s = .next t ∧ Issued s t n k ∧ Appended c.arr.queue (t.getCore n).arr.queue d k) ∧
    (dKind d = 3 → c.vqFill < 4 → veCheck c d = none →
      ∃ t, exec (.ve n) s = .next t ∧ Issued s t n k ∧ Appended c.ve.queue (t.getCore n).ve.queue d k) ∧
    (dKind d = 4 → c.str.queue.length < 4 → stCheck c s.pmc.frame d = none →
      (stOp d ≠ 2 → stOp d ≠ 3 → ∃ t, exec (.strainerExact n) s = .next t ∧ Issued s t n k ∧
        Appended c.str.queue (t.getCore n).str.queue d k) ∧
      (stOp d = 2 → ∃ t, exec (.strainerPredict n) s = .next t ∧ Issued s t n k ∧
        Appended c.str.queue (t.getCore n).str.queue d k) ∧
      (stOp d = 3 → ∃ t, exec (.strainerKeep n) s = .next t ∧ Issued s t n k ∧
        Appended c.str.queue (t.getCore n).str.queue d k)) ∧
    (dKind d = 5 → swCheck d = none → fld d 1 0 16 ≤ tget c.scr.sem (fld d 0 4 9) 0 → ∃ t, exec (.semWait n) s = .next t ∧
      (t.getCore n).seq.index = k + 1 ∧ (t.getCore n).seq.state = .issuing ∧
      tget (t.getCore n).scr.sem (fld d 0 4 9) 0 = tget c.scr.sem (fld d 0 4 9) 0 - fld d 1 0 16) ∧
    (dKind d = 6 → ssCheck s n d = none → fld d 0 0 4 = 0 → flag d 0 15 = false → ∃ t, exec (.semSignal n) s = .next t ∧
      (t.getCore n).seq.index = k + 1 ∧
      tget (t.getCore n).scr.sem (fld d 0 4 9) 0 = min (tget c.scr.sem (fld d 0 4 9) 0 + fld d 1 0 16) 65535) ∧
    (dKind d = 7 → (s.getRtr n).armed = none → spCheck (s.getRtr n) d = none →
      16 * (max c.seq.nextIssue (tget c.seq.freed 5 0) + 4) < 1024 * (s.getQuad (coreQuad n)).ratio * fld d 1 0 16 →
      ∃ t, exec (.slotPhase n) s = .next t ∧ (t.getCore n).seq.index = k + 1 ∧
        t.getRtr n = { s.getRtr n with armed := some (fld d 0 0 4, fld d 1 0 16) }) ∧
    (dKind d = 8 → (∀ w, w < 16 → 2 ≤ w → dw d w = 0) → fld d 0 24 4 = 0 → fld d 0 8 8 = 0 → fld d 1 8 24 = 0 →
      let delta := toSigned 8 (fld d 0 0 8)
      let lead := if 3 ≤ delta.natAbs then max (fld d 1 0 8) 20 else fld d 1 0 8
      ∃ t, exec (.notice n) s = .next t ∧ (t.getCore n).seq.index = k + 1 ∧
        Posted s t { type := tyNotice, dest := coreQuad n, src := coreQuad n, body := [noticeBody (coreSlot n) delta lead] }) ∧
    (dKind d = 9 → flag d 0 15 = false → (∀ w, w < 16 → 2 ≤ w → dw d w = 0) → fld d 0 24 4 = 0 → fld d 0 12 3 = 0 →
      fld d 0 4 4 = 0 → fld d 1 24 8 = 0 → fld d 0 0 4 = 0 → ∃ t, exec (.mark n) s = .next t ∧
        (t.getCore n).seq.markPtr = (c.seq.markPtr + 1) % 16 ∧
        tget (t.getCore n).seq.markLog (4 * c.seq.markPtr) 0 = word [(dTag d, 24, 8), (fld d 1 0 24, 0, 24)]) ∧
    (dKind d = 10 → flag d 0 15 = false → (∀ w, w < 16 → 2 ≤ w → dw d w = 0) → fld d 0 24 4 = 0 → fld d 0 12 3 = 0 →
      fld d 0 0 8 = 0 → fld d 1 24 8 = 0 → ∃ t, exec (.endDesc n) s = .next t ∧ (t.getCore n).seq.state = .inEnd ∧
        (t.getCore n).seq.endDesc = some d)) ∧
  (∀ (n : Nat) (s : State), n < 576 → s.issuing n = true → (s.getCore n).seq.len ≠ 0 →
    (s.getCore n).seq.len ≤ (s.getCore n).seq.index → ∃ t, exec (.descStreamEnd n) s = .next t ∧
      bits (t.getCore n).seq.faultInfo.toNat 16 16 = 0x0308 ∧ (t.getCore n).seq.state = .stopped ∧
      (t.getCore n).ccb.fault.getLsbD 5 = true) ∧
  (∀ (n : Nat) (w : Waiting) (s : State), n < 576 → (s.getCore n).seq.waiting = some w →
    w.count ≤ tget (s.getCore n).scr.sem w.sem 0 → ∃ t, exec (.semWaitPass n) s = .next t ∧
      (t.getCore n).seq.state = .issuing ∧ (t.getCore n).seq.waiting = none ∧
      tget (t.getCore n).scr.sem w.sem 0 = tget (s.getCore n).scr.sem w.sem 0 - w.count) ∧
  (∀ (n slot : Nat) (p : PendingSig) (s : State), n < 576 → (s.getCore n).seq.pend[slot]? = some p → dKind p.desc = 6 →
    (s.getCore n).afterDone p = true → flag p.desc 0 15 = false → ∃ t, exec (.pendingSignalSend n slot) s = .next t ∧
      (t.getCore n).seq.pend = (s.getCore n).seq.pend.eraseIdx slot ∧ tget (t.getCore n).scr.sem (fld p.desc 0 4 9) 0 =
        min (tget (s.getCore n).scr.sem (fld p.desc 0 4 9) 0 + fld p.desc 1 0 16) 65535) ∧
  (∀ (n slot : Nat) (p : PendingSig) (s : State), n < 576 → (s.getCore n).seq.pend[slot]? = some p → dKind p.desc = 9 →
    (s.getCore n).afterDone p = true → ∃ t, exec (.markEntryWrite n slot) s = .next t ∧
      (t.getCore n).seq.pend = (s.getCore n).seq.pend.eraseIdx slot ∧
      (t.getCore n).seq.markPtr = ((s.getCore n).seq.markPtr + 1) % 16) ∧
  ∀ (n : Nat) (d : List W32) (s : State), n < 576 → (s.getCore n).seq.endDesc = some d → (s.getCore n).arr.queue = [] →
    (s.getCore n).ve.queue = [] → (s.getCore n).str.queue = [] → (s.getCore n).dma = [] → (s.getCore n).seq.pend = [] →
    ∃ t, exec (.endComplete n) s = .next t ∧ (t.getCore n).seq.state = .done ∧
      (t.getCore n).seq.endCycle = some (s.getCore n).seq.now

/-- R70 to R72, R87, R126, R139, R155, R186: engines: a descriptor starts, moves on and leaves its queue; a transfer completes, is
acknowledged, or refused. -/
def Sys2Proof.Claims.EnginesComplete : Prop :=
  (∀ (n : Nat) (q : Queued) (s : State), n < 576 → Ords (s.getCore n).arr.queue (s.getCore n).arr.issued →
    let v := (s.settle n 5).getCore n
    v.arr.queue.find? arrayWaits = some q → v.loadable q = true → heldFor v q = false → (∀ x, fullSince v q x = none) →
    ∃ t, exec (.arrayIssueStart n) s = .next t ∧
      ∃ r ∈ (t.getCore n).arr.queue, r.desc = q.desc ∧ r.ord = q.ord ∧ r.started = true ∧ r.progress = 1) ∧
  (∀ (n : Nat) (q : Queued) (s : State), n < 576 →
    (s.getCore n).arr.queue.find? (fun q => q.started && q.progress < q.blocks) = some q → q.stallFrom = none →
    (∀ x, fullSince (s.getCore n) q x = none) → ∃ t, exec (.weightSwap n) s = .next t ∧
      ∃ r ∈ (t.getCore n).arr.queue, r.desc = q.desc ∧ r.ord = q.ord ∧ r.progress = q.progress + 1) ∧
  (∀ (n : Nat) (q : Queued) (rest : List Queued) (s : State), n < 576 → (s.getCore n).arr.queue = q :: rest →
    q.noWindow = true ∨ q.closed = true → q.stallFrom = none →
    (s.getCore n).ve.ftq.length + (if arZero q.desc then 0 else pushes q.desc) ≤ 4 →
    ∃ t, exec (.arrayComplete n) s = .next t ∧ (t.getCore n).arr.queue.map (·.desc) = rest.map (·.desc) ∧
      (t.getCore n).arr.done = (s.getCore n).arr.done + 1 ∧
      (t.getCore n).arr.acc = (if q.noWindow then (s.getCore n).arr.acc else accWrite (s.getCore n).arr.acc q)) ∧
  (∀ (n : Nat) (q : Queued) (x : Nat × Nat) (s : State), n < 576 → (s.getCore n).ve.queue.find? veWaits = some q →
    (s.getCore n).veStart q 0 0 = some x → (∀ b ∈ (s.getCore n).ve.queue, b.badProg = false) →
    ∃ t, exec (.veRowsStart n) s = .next t ∧
      ∃ y ∈ (t.getCore n).ve.queue, y.desc = q.desc ∧ y.started = true ∧ q.entered + 12 ≤ y.start) ∧
  (∀ (n : Nat) (q : Queued) (s : State), n < 576 → (s.getCore n).ve.queue.find? veRuns = some q →
    ∃ t, exec (.veRelease n) s = .next t ∧
      ∃ x ∈ (t.getCore n).ve.queue, x.desc = q.desc ∧ x.ord = q.ord ∧ x.progress = q.progress + 1) ∧
  (∀ (n : Nat) (q : Queued) (rest : List Queued) (s : State), n < 576 → (s.getCore n).ve.queue = q :: rest →
    veZero q.desc = true ∨ (q.started = true ∧ q.progress = veNt q.desc) → ∃ t, exec (.veComplete n) s = .next t ∧
      (t.getCore n).ve.queue.map (·.desc) = rest.map (·.desc) ∧ (t.getCore n).ve.done = (s.getCore n).ve.done + 1) ∧
  (∀ (n : Nat) (q : Queued) (rest : List Queued) (s : State), n < 576 → (s.getCore n).str.queue = q :: rest →
    q.started = false →
    (stOp q.desc ≠ 3 → ∀ a ∈ (s.getCore n).arr.queue,
      ¬ (flag a.desc 0 7 = true ∧ fld a.desc 11 8 8 = stCtx q.desc ∧ a.index < q.index)) →
    ∃ t, exec (.strainerBuildStart n) s = .next t ∧
      ∃ r, (t.getCore n).str.queue = r :: rest ∧ r.desc = q.desc ∧ r.started = true) ∧
  (∀ (n : Nat) (q : Queued) (rest : List Queued) (s : State), n < 576 → (s.getCore n).str.queue = q :: rest →
    q.started = true → ∃ t, exec (.strainerComplete n) s = .next t ∧ (t.getCore n).str.queue = rest ∧
      (t.getCore n).str.done = (s.getCore n).str.done + 1) ∧
  (∀ (n slot cycle : Nat) (q : Queued) (s : State), n < 576 → (s.getCore n).dma[slot]? = some q →
    let port := tget s.mesh.core n {}
    dmZero q.desc = false → dmPut q.desc = false → q.started = true → (s.getCore n).getIsNext q = true →
    (∀ z ∈ (s.getCore n).dma.take slot, dmStream z.desc ≠ dmStream q.desc) →
    (∀ t ∈ port.xfers, t.stream ≠ dmRstream q.desc) →
    dmBeats q.desc ≤ (port.rx.filter (isData (dmRstream q.desc))).length →
    (∀ z ∈ (s.getCore n).dma.eraseIdx slot, dmStream z.desc = dmStream q.desc → (s.getCore n).allAcked z = false) →
    ∃ t, exec (.dmaComplete n slot cycle) s = .next t ∧ (t.getCore n).dma = (s.getCore n).dma.eraseIdx slot ∧
      (t.getCore n).dmaDone = (s.getCore n).dmaDone + 1 ∧
      (tget t.mesh.core n {}).rx.length = port.rx.length - dmBeats q.desc) ∧
  (∀ (n slot cycle : Nat) (late : Bool) (m : Msg) (q : Queued) (s : State), n < 576 → (s.getCore n).dma[slot]? = some q →
    Ords (s.getCore n).dma (s.getCore n).dmaIssued →
    (∀ z ∈ (s.getCore n).dma, dmStream z.desc = dmStream q.desc → (s.getCore n).allAcked z = false) →
    s.underWay ((s.getCore n).ackFor n slot false) = some m → dmPut q.desc = true →
    tget (s.getCore n).mcast (dmStream q.desc) 1 ≤ q.acks.length + 1 →
    (∀ z ∈ (s.getCore n).dma.take slot, dmStream z.desc ≠ dmStream q.desc) →
    ∃ t, exec (.dmaAck n slot ⟨cycle, late⟩) s = .next t ∧ (t.getCore n).dma = (s.getCore n).dma.eraseIdx slot ∧
      (t.getCore n).dmaDone = (s.getCore n).dmaDone + 1) ∧
  ∀ (n slot : Nat) (st : Status) (late : Bool) (q : Queued) (s : State), n < 576 → (s.getCore n).dma[slot]? = some q →
    s.underWay (fun m => (s.getCore n).ackFor n slot true m && (ackFields m).2.2.2.2 = st.toNat) ≠ none →
    ∃ t, exec (.dmaNak n slot ⟨st, late⟩) s = .next t ∧ bits (t.getCore n).seq.faultInfo.toNat 16 16 = st.toNat ∧
      (t.getCore n).seq.state = .stopped ∧ (t.getCore n).ccb.fault.getLsbD 5 = true

/-- R36, R48, R89, R211 to R215, R285, R340: the control network: each message that is under way arrives and has its effect. -/
def Sys2Proof.Claims.MessagesComplete : Prop :=
  (∀ (q : Nat) (f k : W64) (s : State), q < 96 → s.reaches nodePmc q = true → (s.getQuad q).source ≠ 5 →
    ∃ t, exec (.shutterArm (.quad q) f k) s = .next t ∧ (t.getQuad q).armFrame = some (f, k)) ∧
  (∀ (q : Nat) (s : State), q < 96 → (s.getQuad q).fired = true → s.reaches q nodePmc = true →
    ∃ t, exec (.heartbeat (.quad q) s.frame32) s = .next t ∧ (t.getQuad q).heard = true) ∧
  (∀ (id core count time : Nat) (a b : Barrier) (s : State), core < 576 →
    (s.getBarrier id).getD (newBarrier id count time (s.hallBarrier id)) = a →
    b = (if a.arrived = [] then { a with count := count } else a) → b.released = false → b.arrived.length < b.count →
      s.reaches (coreQuad core) nodePmc = true →
    ∃ t, exec (.barrierArrival id core count time) s = .next t ∧
      ∃ e, t.getBarrier id = some e ∧ e.arrived = b.arrived ++ [(core, time)] ∧
        (b.hall = false → (e.released = true ↔ b.count ≤ b.arrived.length + 1))) ∧
  (∀ (id core : Nat) (late : Bool) (b : Barrier) (s : State), core < 576 → s.getBarrier id = some b → b.released = true →
    (∃ a ∈ b.arrived, a.1 = core) → s.reaches nodePmc (coreQuad core) = true → ∃ t, exec (.barrierRelease id ⟨core, late⟩) s = .next t ∧
      (t.getCore core).released = (s.getCore core).released ++ [id]) ∧
  (∀ (n sem inc cycle : Nat) (late : Bool) (s : State), n < 576 → sem < 512 → s.underWay (isSignal n sem inc) ≠ none →
    (s.getCore n).ccb.state ≠ .resetting → ∃ t, exec (.signalMessage n sem inc cycle late) s = .next t ∧
      tget (t.getCore n).scr.sem sem 0 = min (tget (s.getCore n).scr.sem sem 0 + inc) 65535) ∧
  (∀ (n m k : Nat) (v : W32) (late : Bool) (s : State), n < 576 → m < 576 →
    s.mesh.net.findIdx? (fun x => x.type = 7 && x.src = coreQuad m && x.body = [s.ccbId (.core n), v]) = some k →
    (s.getCore n).ccb.state ≠ .resetting → bits v.toNat 28 4 < 6 → bits v.toNat 24 4 = 0 →
    (s.getCore n).ccb.inport.length < 16 → ∃ t, exec (.tokenMessage (.core n) v ⟨.core m, late⟩) s = .next t ∧
      (t.getCore n).ccb.inport = (s.getCore n).ccb.inport ++ [v]) ∧
  (∀ (n lead : Nat) (d : Int) (late : Bool) (s : State), n < 576 →
    s.underWay (fun m : Msg => m.type = tyNotice && m.src = coreQuad n && m.body = [noticeBody (coreSlot n) d lead]) ≠ none →
    ∃ t, exec (.noticeMessage n d ⟨lead, late⟩) s = .next t ∧
      (t.getQuad (coreQuad n)).notices = (s.getQuad (coreQuad n)).notices ++ [(d, s.nowBase + 250 * lead)]) ∧
  ∀ (q l r : Nat) (s : State), q < 96 → l < 4 → controlRow q l = some r → (s.getQuad q).twin.getLsbD l = false →
    ∃ t, exec (.twinSwitch q l) s = .next t ∧
      (t.getQuad q).twin = (s.getQuad q).twin ||| BitVec.ofNat 4 (2 ^ l) ∧ (t.row r).reason = 0x2E

/-- R46 to R57, R91, R186 to R192, R194, R214, R366, R367: routers and the points of a frame. -/
def Sys2Proof.Claims.FramesComplete : Prop :=
  (∀ (n cycle : Nat) (s : State), n < 576 → ∃ t, exec (.beatForward n cycle) s = .next t ∧
    (t.getRtr n).round = cycle / 1024 ∧ ∀ f ∈ t.mesh.flights, f.router = n → cycle < f.cycle) ∧
  (∀ (n p x : Nat) (s : State), n < 576 → (s.getRtr n).armed = some (p, x) → ∃ t, exec (.phaseSwitch n) s = .next t ∧
    t.getRtr n = { s.getRtr n with phase := p, round := x, armed := none, poisoning := false }) ∧
  (∀ s : State, s.pmc.point = 5 → ∃ t, exec .shutter s = .next t ∧ t.pmc.frame = s.pmc.frame + 1 ∧ t.pmc.phase = 1 ∧
    t.pmc.point = 0) ∧
  (∀ (w k n : Nat) (s : State), w < 96 → (s.getWork w).goCount = some k → s.head (.work w) = some n →
    (s.getCore n).ccb.state ≠ .resetting → (s.getCore n).ccb.inport.length < 16 → ∃ t, exec (.goSend w) s = .next t ∧
      (t.getWork w).goCount = none ∧ (t.getCore n).ccb.inport = (s.getCore n).ccb.inport ++ [token 1 k]) ∧
  (∀ s : State, s.pmc.point = 1 → ∃ t, exec .developDeadline s = .next t ∧ t.pmc.point = 2 ∧
    t.pmc.extended = ((t.core.any fun e => e.2.stillLate) && s.pmc.a ≠ 0)) ∧
  (∀ s : State, s.pmc.point = 2 → (∃ e ∈ s.core, e.2.stillLate = true) → ∃ t, exec .extensionLimit s = .next t ∧
    t.pmc.point = 3 ∧ ∀ e ∈ s.core, e.2.stillLate = true → (t.getCore e.1).ccb.state = .faulted ∧
      (t.getCore e.1).ccb.fault.getLsbD fLate = true ∧ (t.getCore e.1).seq.state = .stopped) ∧
  (∀ s : State, s.pmc.point = 2 ∨ s.pmc.point = 3 → (∀ e ∈ s.core, e.2.stillLate = false) →
    ∃ t, exec .stopBath s = .next t ∧ t.pmc.point = 4 ∧ t.pmc.phase = 3) ∧
  (∀ s : State, s.pmc.point = 4 → ∃ t, exec .drainClose s = .next t ∧ t.pmc.point = 5 ∧ t.mesh.flights = [] ∧
    t.fab.barriers = []) ∧
  (∀ s : State, s.pmc.point = 0 → s.pmc.phase = 1 → ∃ t, exec .heartbeatCheck s = .next t ∧ t.pmc.point = 1 ∧
    ∀ n, n < 576 → (s.getQuad (coreQuad n)).heard = false → s.live n = true →
      (t.getCore n).ccb.fault = (s.getCore n).ccb.fault ||| faultBit fHeartbeat) ∧
  (∀ (q : Nat) (s : State), q < 96 → (s.getQuad q).fired = false → (s.getQuad q).missed = 1 →
    ∃ t, exec (.shutterArmTimeout (.quad q)) s = .next t ∧
      ∀ n ∈ quadCores q, t.getRtr n = { s.getRtr n with idle := true } ∧ Halted (s.getCore n) (t.getCore n)) ∧
  ∀ (q : Nat) (s : State), q < 96 → (s.getQuad q).fired = false → 4 ≤ (s.getQuad q).missed →
    ∃ t, exec (.quadrantMissLimit q) s = .next t ∧ ∀ n ∈ quadCores q, t.getRtr n = { s.getRtr n with idle := true }

/-- R60, R61, R275 to R299: halls, ports, rings and trains. -/
def Sys2Proof.Claims.FabricComplete : Prop :=
  (∀ (port : Nat) (f count : W64) (own arrival send corr : Int) (x : Flit) (s : State),
    ForPanel s port x (copyOf x 0x4 (shutterBody f count send corr)) → s.fab.hallIndex.isSome = true → s.hallMaster = false →
    let o := own - arrival + send + corr + ((s.getPort port).rtt : Int) / 2
    ∃ t, exec (.hallShutter ⟨port, x⟩ f count ⟨own, arrival⟩ send corr) s = .next t ∧ t.fab.offset = o ∧ t.fab.tauNext = trim o ∧
      t.fab.fofs = f - s.pmc.frame ∧ t.fab.heardMaster = true) ∧
  (∀ s : State, s.fab.hallIndex.isSome = true → s.hallMaster = false → s.fab.elected = none → 16 ≤ s.fab.silentFrames →
    ∃ t, exec .hallMasterLoss s = .next t ∧ t.pmc.hallLock = false ∧
      t.fab.hallMembers = s.fab.hallMembers.filter (· ≠ s.fab.hallMembers.foldl min s.panelId)) ∧
  (∀ (n : Nat) (s : State), s.fab.elected = some n → 16 ≤ n → ∃ t, exec .hallFreeRun s = .next t ∧
    t.fab.hallIndex = none ∧ t.fab.hallMembers = [] ∧ t.fab.elected = none) ∧
  (∀ (port rtt : Nat) (m : PortMode) (s : State), port < 32 →
    (s.getPort port).mode = .training ∨ (s.getPort port).mode = .down → m = .x8 ∨ m = .x4lo ∨ m = .x4hi →
    ∃ t, exec (.portTrained port m rtt) s = .next t ∧ (t.getPort port).mode = m ∧ (t.getPort port).rtt = min rtt 0xFFFF) ∧
  (∀ (port : Nat) (s : State), port < 32 → (s.getPort port).mode ≠ .absent → (s.getPort port).mode ≠ .down →
    ∃ t, exec (.portDown port) s = .next t ∧ (t.getPort port).mode = .down ∧ (t.getPort port).egress = []) ∧
  (∀ (port : Nat) (pass : Bool) (s : State), port < 32 → (s.getPort port).loopback = true → 4 ≤ s.boot.step →
    ¬ (pass = true ∧ s.boot.step = 4 ∧ (s.getPort port).tried = false) → ∃ t, exec (.loopbackDone port pass) s = .next t ∧ t.getPort port =
      { s.getPort port with loopback := false, localFault := !pass, spanFault := pass }) ∧
  (∀ (port : Nat) (s : State), port < 32 → (s.getPort port).mode = .down → (s.getPort port).spanFault = true →
    ∃ t, exec (.spanRetrainTimer port) s = .next t ∧ (t.getPort port).mode = .training) ∧
  (∀ (port : Nat) (s : State), port < 32 → (s.getPort port).up = true →
    ∃ t, exec (.portPeriodicRetrain port) s = .next t ∧ (t.getPort port).mode = .training ∧
      (t.getPort port).egress = []) ∧
  (∀ (port i : Nat) (x : Train) (s : State), port < 32 → (s.getPort port).again = [] →
    let p := s.getPort port
    p.egress.findIdx? (·.turned) = some i ∨ (p.egress.findIdx? (·.turned) = none ∧
      p.egress.findIdx? (fun t => trainOwner t = (s.nextOwner port p 2048).turn) = some i) → p.egress[i]? = some x →
    p.up = true → creditFits p.inFlight x.vl (1 + x.ndata) = true → flitsOf p.replay + (1 + x.ndata) ≤ 800 →
    ∃ t, exec (.trainSend port) s = .next t ∧ (t.getPort port).egress = p.egress.eraseIdx i ∧
      (t.getPort port).replay = p.replay ++ [{ x with seq := p.seqOut, turned := false }]) ∧
  (∀ (port : Nat) (x : Train) (s : State), InOrder s port x → ForMe s x →
    let u := s.took port x
    let v := u.reachHome x.addr
    (v.homeRange x.addr x.len = true → (homeRuns x.addr x.len).findSome? (fun r => v.writeRefused r.1 r.2) = none →
      ∃ t, exec (.fabPut port x) s = .next t ∧
        t.bytes x.addr (min x.len x.data.length) = x.data.take (min x.len x.data.length)) ∧
    (v.homeRange x.addr x.len = true →
      (∃ t, exec (.getReq port x) s = .next t ∧
        Answered v t x.src fun y => y.op = 3 ∧ y.xid = x.xid ∧ y.data = v.bytes x.addr x.len) ∧
      ∃ t, exec (.fillReq port x) s = .next t ∧
        Answered v t x.src fun y => y.op = 5 ∧ y.xid = x.xid ∧ y.data = v.bytes x.addr x.len) ∧
    (∀ r, u.fab.remotes.find? (fun r => r.xid = x.xid && r.op ≠ 1) = some r →
      (∀ z ∈ u.fab.remotes, z.group = r.group → z.op = 1 ∨ z.xid = x.xid ∨ z.data ≠ none) →
      ∃ t, exec (.getResp port x) s = .next t ∧ ∀ z ∈ t.fab.remotes, z.op = 1 ∨ z.group ≠ r.group) ∧
    (∀ r, u.fab.remotes.find? (fun r => r.xid = x.xid && r.op = 4) = some r → x.pub = true →
      u.hallFrame.setWidth 32 ≤ x.leaseEnd → (u.getStack (cacheDie r.core)).winNext = none →
      cacheSets (u.getStack (cacheDie r.core)).win ≠ 0 →
      let line : Line := { tag := (r.dest * 2 ^ 48 + r.addr) / 256, data := x.data, poison := x.poison, leaseEnd := x.leaseEnd }
      inBuffer (u.getStack (cacheDie r.core)).buffer line = false → ∃ t, exec (.fillResp port x) s = .next t ∧
        (t.getStack (cacheDie r.core)).cache.head? = some line) ∧
    (∀ r, u.fab.remotes.find? (fun r => r.xid = x.xid) = some r → r.op = 1 → ∃ t, exec (.nakResp port x) s = .next t ∧
      (∀ z ∈ t.fab.remotes, z.xid ≠ x.xid) ∧ t.fab.putNak = word [(x.status.toNat, 16, 16), (x.xid, 0, 16)])) ∧
  (∀ (port ack : Nat) (cr : List Nat) (x : Flit) (s : State), port < 32 → x.crcOk = true → x.resv = false →
    ∃ t, exec (.credit ⟨port, x⟩ cr ack false) s = .next t ∧ (t.getPort port).replay = dropAcked (s.getPort port).replay ack ∧
      ∀ v, v < 6 → tget (t.getPort port).inFlight v 0 = tget (s.getPort port).inFlight v 0 - cr.getD v 0) ∧
  (∀ (port id src arrivals earliest : Nat) (x : Flit) (b : Barrier) (s : State),
    ForPanel s port x (copyOf x 0x2 (barrierBody s id arrivals earliest)) → s.hallMaster = true →
    (s.getBarrier id).getD (newBarrier id 0 earliest true) = b → b.hall = true →
    ∃ t, exec (.expressBarrier ⟨port, x⟩ id src ⟨arrivals, earliest⟩) s = .next t ∧
      ∃ e, t.getBarrier id = some e ∧ src ∈ e.panels ∧ e.earliest = min b.earliest earliest) ∧
  (∀ (port id earliest : Nat) (x : Flit) (b : Barrier) (s : State),
    ForPanel s port x (copyOf x 0x3 (barrierBody s id 0 earliest)) → s.getBarrier id = some b →
    b.hall = true → b.released = false → ∃ t, exec (.expressRelease ⟨port, x⟩ ⟨id, earliest⟩) s = .next t ∧
      t.getBarrier id = some { b with released := true, earliest := earliest }) ∧
  (∀ (port : Nat) (b : IdentBody) (x : Flit) (s : State), Good port x → ∃ t, exec (.ident ⟨port, x⟩ b) s = .next t ∧
    (t.getPort port).nbrPanel = b.panel ∧ (t.getPort port).nbrPort = b.port ∧ (t.getPort port).nbrValid = true) ∧
  (∀ (port panel : Nat) (f : W64) (x : Flit) (s : State), Good port x → ∃ t, exec (.leave ⟨port, x⟩ panel f) s = .next t ∧
    (t.getRing (port / 2)).leaving = (s.getRing (port / 2)).leaving ++ [(panel, f)]) ∧
  (∀ (port : Nat) (ids : List Nat) (x : Flit) (s : State), Good port x → (s.getRing (port / 2)).bypass = false →
    ∃ t, exec (.probe port ids x) s = .next t ∧ t.resp = { data := ids.map (BitVec.ofNat 32) } ∧
      (s.panelId ∉ ids → t.getRing (port / 2) = (s.getRing (port / 2)).heard (port % 2 = 1) ids) ∧
      (s.panelId ∈ ids → (t.getRing (port / 2)).probing = 0)) ∧
  (∀ (ring : Nat) (s : State), ring < 16 → (s.getRing ring).probing = 1 →
    ∃ t, exec (.probeTimeout ring) s = .next t ∧ (t.getRing ring).probing = 2) ∧
  (∀ (xid : Nat) (r : Remote) (s : State),
    s.fab.remotes.find? (fun r => r.xid = xid && (r.op = 2 || r.op = 4) && r.data.isNone) = some r → r.retried = false →
    ∃ t, exec (.remoteFetchTimeout xid) s = .next t ∧
      Answered s t r.dest fun y => y.op = r.op ∧ y.xid = xid ∧ y.addr = r.addr ∧ y.len = r.len) ∧
  ∀ (port xid : Nat) (r : Remote) (s : State), port < 32 → s.fab.remotes.find? (fun r => r.xid = xid && r.op ≠ 0) = some r →
    r.frame + 2 ≤ s.pmc.frame → ∃ t, exec (.lateTrainDiscard port xid) s = .next t ∧
    (∀ z ∈ t.fab.remotes, z.xid = xid → z.op ≠ 1) ∧
    tget (t.getPort port).cnt.now 0x1C 0 = tget (s.getPort port).cnt.now 0x1C 0 + 1

/-- R258 to R264, R305 to R307, R318, R331 to R347, R357, R361 to R366: memory, supplies, rails and clocks. -/
def Sys2Proof.Claims.PowerComplete : Prop :=
  (∀ (h : Nat) (s : State), h < 48 → (s.getStack h).alive = true → (s.getStack h).hot = true ∨ 85 < (s.getStack h).temp →
    ∃ t, exec (.refreshSlot h) s = .next t ∧ (t.getStack h).hot = true) ∧
  (∀ (h : Nat) (s : State), h < 48 → (s.getStack h).tempRead = false →
    ∃ t, exec (.hbmTempDeadline h) s = .next t ∧ (t.getStack h).tempStale = true ∧
      (t.getStack h).staleFrames = (s.getStack h).staleFrames + 1) ∧
  (∀ (h : Nat) (s : State), h < 48 → let x := s.getStack h
    x.alive = true → x.stepBusy = false → x.steps < s.stepCount x → x.state ≠ 3 ∨ x.hostWait = 0 →
    x.state = 3 ∨ x.quiet = true ∨ s.declared h = [] → ∃ t, exec (.maintenanceStep h) s = .next t ∧
      (t.getStack h).stepBusy = true ∧ (t.getStack h).steps = x.steps + 1) ∧
  (∀ (h : Nat) (s : State), h < 48 → (s.getStack h).stepBusy = true →
    let x := { s.getStack h with stepBusy := false }
    x.stepWork < 16 → ∃ t, exec (.maintenanceStepDone h true) s = .next t ∧ t.getStack h = x.retrained x.stepWork) ∧
  (∀ (k : Copy) (s : State), s.pmc.copy = some k →
    (∀ h ∈ s.copyStacks k, (s.getStack h).quiet = false ∧ (s.getStack h).stepBusy = false) →
    s.pmc.cmds = [(k.site, k.mb)] → ∃ t, exec .hbmCopyDone s = .next t ∧ t.pmc.copy = none ∧
      t.bytes k.dst k.len = (s.winRead k.site k.src k.len).1.map (·.1)) ∧
  (∀ (g off len : Nat) (bs : List Byte) (s : State), g < 2 → (s.getSite g).state = 2 ∨ (s.getSite g).state = 3 →
    let h := (s.winStacks g).getD (off / stackSize) 0
    let v := (s.catchUp (.res h)).heldFree h
    0 < bs.length → off + bs.length ≤ s.winSize g → off % stackSize + bs.length ≤ stackSize →
    ((v.getStack h).state ≠ 4 → ∃ t, exec (.cxlMemAccess g true off len bs) s = .next t ∧
      t.bytes (v.winAddr g off) bs.length = bs) ∧
    ∃ t, exec (.cxlMemAccess g false off bs.length []) s = .next t ∧
      t.resp.data = bytesWords (v.bytes (v.winAddr g off) bs.length)) ∧
  (∀ (i : Supply) (s : State), s.inputOk i = false → ∃ t, exec (.inputValid i) s = .next t ∧ t.inputOk i = true ∧
    t.pwr.source = t.pwr.pick) ∧
  (∀ (i : Supply) (s : State), s.inputOk i = true → ∃ t, exec (.inputInvalid i) s = .next t ∧ t.inputOk i = false ∧
    t.pwr.source = t.pwr.pick) ∧
  (∀ (i : Supply) (s : State), s.inputOk i = true → ∃ t, exec (.inputOvercurrent i) s = .next t ∧ t.inputOk i = false ∧
    (t.row (rowSupply i)).reason = 0x23) ∧
  (∀ s : State, s.pwr.mainOk = true → s.pwr.mainHold = true → s.pmc.phase = 3 → ∃ t, exec .mainReturn s = .next t ∧
    t.pwr.source = 1 ∧ t.pwr.mainHold = false) ∧
  (∀ (i : Supply) (s : State), s.pwr.mainOk = false → s.pwr.backupOk = false → s.pwr.failed = false →
    (match i with | .main => s.pwr.mainOc | .backup => s.pwr.backupOc) = false →
    ∃ t, exec (.inputReconnect i) s = .next t ∧ t.inputOk i = true) ∧
  (∀ (bulk : Bool) (s : State), s.pwr.mainOk = false → s.pwr.backupOk = false → s.pwr.failed = false →
    ∃ t, exec (.powerFailure bulk) s = .next t ∧ t.pwr = { s.pwr with failed := true, source := 0 } ∧
      ∀ n, n < 576 → (t.getCore n).ccb.state = .off) ∧
  (∀ (k : Nat) (d : Side) (s : State), k < 24 → ∃ t, exec (.converterFail k d) s = .next t ∧
    (match d with | .w => (t.getTile k).convW | .e => (t.getTile k).convE) = 1) ∧
  (∀ (k : Nat) (d : Side) (s : State), k < 24 → ∃ t, exec (.vfabTFeedTrip k d) s = .next t ∧
    (match d with | .w => (t.getTile k).feedW | .e => (t.getTile k).feedE) = false) ∧
  (∀ (q p : Nat) (s : State), q < 96 → p < 8 → (s.getQuad q).failedPh.getLsbD p = false →
    ∃ t, exec (.phaseShed q p) s = .next t ∧
      (t.getQuad q).failedPh = (s.getQuad q).failedPh ||| BitVec.ofNat 8 (2 ^ p) ∧ (t.row (rowPhase q p)).state = 4) ∧
  (∀ (q : Nat) (s : State), q < 96 → ∃ t, exec (.quadrantOvercurrentStop q) s = .next t ∧
    Stopped s t (quadCores q) fPower) ∧
  (∀ (q : Nat) (s : State), q < 96 → ∃ t, exec (.unannouncedStep q) s = .next t ∧
    tget (t.getQuad q).cnt.now 0x0094 0 = tget (s.getQuad q).cnt.now 0x0094 0 + 1) ∧
  (∀ (q : Nat) (s : State), q < 96 → s.pmc.phase ≠ 3 → s.clk.used < 2000 → ∃ t, exec (.vcoreDroop q) s = .next t ∧
    (t.getQuad q).stretching = true ∧ t.clk.active = true) ∧
  (∀ (q : Nat) (s : State), q < 96 → (s.getQuad q).stretching = true → ∃ t, exec (.stretchWithdraw q) s = .next t ∧
    (t.getQuad q).stretching = false) ∧
  (∀ s : State, s.clk.active = true → (∀ q, q < 96 → (s.getQuad q).stretching = false) →
    ∃ t, exec .stretchEnd s = .next t ∧ t.clk.active = false) ∧
  (∀ s : State, s.clk.active = true → ∃ t, exec .stretchLimit s = .next t ∧ t.clk.active = false ∧
    ∀ p, p < 96 → (t.getQuad p).stretching = false) ∧
  (∀ (q : Nat) (s : State), q < 96 → (s.getQuad q).rampDue = true → (s.getQuad q).rail = 0 →
    ∃ t, exec (.quadrantRamp q) s = .next t ∧ (t.getQuad q).rail = 1 ∧ (t.getQuad q).step = 0 ∧
      (t.getQuad q).rampDue = false) ∧
  (∀ (q m : Nat) (r : List Nat) (s : State), q < 96 → (s.getQuad q).rail = 1 ∨ (s.getQuad q).rail = 2 →
    (∀ p ∈ s.busQuads q, q ≤ p ∨ (s.getQuad p).ramping = false) → m + s.busReserve q r + 12000 ≤ 300000 →
    ∃ t, exec (.rampStep q m r) s = .next t ∧
      ((s.getQuad q).step < 15 → (t.getQuad q).rail = 1 ∧ (t.getQuad q).step = (s.getQuad q).step + 1) ∧
      (15 ≤ (s.getQuad q).step → (t.getQuad q).rail = 3)) ∧
  (∀ (q : Nat) (s : State), q < 96 → (s.getQuad q).rail = 1 ∨ (s.getQuad q).rail = 2 ∨ (s.getQuad q).rail = 3 →
    ∃ t, exec (.efuseTrip q) s = .next t ∧ (t.getQuad q).rail = 0 ∧ (t.getQuad q).tripped = true ∧
      Stopped s t (quadCores q) fPower) ∧
  (∀ (q : Nat) (pass : Bool) (s : State), q < 96 → (s.getQuad q).probeDue = true → s.thm.state < 2 →
    ∃ t, exec (.efuseProbe q pass) s = .next t ∧ (t.getQuad q).probeDue = false ∧
      (t.getQuad q).rail = (if pass then 0 else 4)) ∧
  (∀ (g v : Nat) (s : State), g < 2 → 650 ≤ v → v ≤ 950 → ∃ t, exec (.sidebandVidMessage g v) s = .next t ∧
    (t.getSite g).vid = v) ∧
  (∀ (g : Nat) (s : State), g < 2 → (s.getSite g).state ≠ 5 → (s.getSite g).railOff = false →
    ∃ t, exec (.hostSiteRailOff g) s = .next t ∧ (t.getSite g).railOff = true ∧ (t.getSite g).state = 4) ∧
  (∀ (r : Ref) (s : State), (match r with | .a => s.clk.refA | .b => s.clk.refB) = true →
    ∃ t, exec (.referenceLoss r) s = .next t ∧ (match r with | .a => t.clk.refA | .b => t.clk.refB) = false ∧
      t.clk.sel = t.clk.pick) ∧
  (∀ (r : Ref) (s : State), ∃ t, exec (.referenceReturn r) s = .next t ∧
    (match r with | .a => t.clk.refA | .b => t.clk.refB) = true) ∧
  (∀ (q : Nat) (s : State), q < 96 → (s.getQuad q).locked = true → ∃ t, exec (.lossOfLock q) s = .next t ∧
    (t.getQuad q).locked = false ∧ (t.getQuad q).source = (s.getQuad q).standby ∧ (t.getQuad q).gated = 7 ∧
    Stopped s t (quadCores q) fClock) ∧
  (∀ (d : Nat) (s : State), d < 288 → (s.getQuad (d / 3)).gated.getLsbD (d % 3) = false →
    ∃ t, exec (.dieClockLoss d) s = .next t ∧
      (t.getQuad (d / 3)).gated = (s.getQuad (d / 3)).gated ||| dieBit d ∧ Stopped s t (dieCores d) fClock) ∧
  (∀ (q : Nat) (s : State), q < 96 → (s.getQuad q).locked = false → ∃ t, exec (.oscillatorRelock q) s = .next t ∧
    (t.getQuad q).locked = true) ∧
  (∀ (d : Nat) (s : State), d < 288 → (s.getQuad (d / 3)).gated.getLsbD (d % 3) = true → (s.getQuad (d / 3)).source ≠ 5 →
    ∃ t, exec (.dieUngate d) s = .next t ∧
      (t.getQuad (d / 3)).gated = (s.getQuad (d / 3)).gated &&& ~~~ dieBit d ∧ (t.row (rowDie d)).state = 6) ∧
  ∀ (d : Nat) (pass : Bool) (s : State), d < 288 → (s.getQuad (d / 3)).gated.getLsbD (d % 3) = false →
    (s.getQuad (d / 3)).tested.getLsbD (d % 3) = false → ∃ t, exec (.dieSelfTestDone d pass) s = .next t ∧
      (pass = true → (t.getQuad (d / 3)).tested = (s.getQuad (d / 3)).tested ||| dieBit d) ∧
      (pass = false → (t.getQuad (d / 3)).gated = (s.getQuad (d / 3)).gated ||| dieBit d ∧
        ∀ n ∈ dieCores d, (t.getCore n).ccb.fault = (s.getCore n).ccb.fault ||| faultBit fSelfTest)

/-- R203 to R206, R246, R248, R305, R308, R371 to R386, R410 to R414, R423 to R432, R489: temperatures, health, links, binds and
bring-up. -/
def Sys2Proof.Claims.HealthComplete : Prop :=
  (∀ (n : Nat) (a b : Int) (s : State), n < 443 → (s.pair n).state ≠ 2 → -320 ≤ a → a ≤ 2400 → -320 ≤ b → b ≤ 2400 →
    ∃ t, exec (.sensorSample [{ sensor := n, diode := some a, ring := some b }]) s = .next t ∧ (t.pair n).temp = max a b) ∧
  (∀ (g : Nat) (x : Int) (s : State), g < 2 → ∃ t, exec (.junctionReport g x) s = .next t ∧ (t.getSite g).junction = x) ∧
  (∀ (f : Nat) (on : Bool) (s : State), f < 2 → ∃ t, exec (.fanfailChange f on) s = .next t ∧
    (if f = 0 then t.thm.fan0 else t.thm.fan1) = on) ∧
  (∀ s : State, s.thm.fan0 = true → s.thm.fan1 = true → s.thm.state ≠ 2 → s.thm.state ≠ 3 →
    ∃ t, exec .fanfailHoldTimer s = .next t ∧ Held s t 3) ∧
  (∀ s : State, 720 < s.thm.inlet → s.thm.state ≠ 2 → s.thm.state ≠ 3 →
    ∃ t, exec .inletHoldTimer s = .next t ∧ Held s t 4) ∧
  (∀ s : State, ∃ t, exec .thermalResistanceTick s = .next t ∧ t.thm.seconds = s.thm.seconds + 1 ∧
    ∀ k, k < 24 → (t.getTile k).tN = 0) ∧
  (∀ s : State, ∃ t, exec .thermalFlashWrite s = .next t ∧ ∀ k, k < 24 →
    (t.getTile k).flashCyc = (s.getTile k).cyc ∧ (t.getTile k).flashTmax = (s.getTile k).tmax) ∧
  (∀ s : State, s.thm.state = 3 → s.mayExit = true → s.manual 3 = false → ∃ t, exec .holdExit s = .next t ∧
    t.thm.state = 4 ∧ t.thm.resumeAt = some (s.pmc.frame + 1)) ∧
  (∀ (q m0 m1 m2 : Nat) (s : State), q < 96 → s.usableIn q ≠ [] → ∃ t, exec (.bracketing q m0 m1 m2 false) s = .next t ∧
    (t.getQuad q).brk = word [(m0, 24, 8), (m1, 16, 8), (m2, 8, 8)]) ∧
  (∀ (q cause : Nat) (p : Int) (s : State), q < 96 → s.replanDue q cause = true → s.manual 2 = false →
    ∃ t, exec (.marginReplan q cause p) s = .next t ∧ (∃ m, t.pmc.overrides =
      s.pmc.overrides ++ [(.margin q m false, s.pmc.frame + 1)] ∧ -50 ≤ m ∧ m ≤ 50) ∧
      t.hlt.mlogPtr = (s.hlt.mlogPtr + 1) % 16) ∧
  (∀ s : State, ∃ t, exec .ageingStore s = .next t ∧ ∀ q, q < 96 → (s.getQuad q).ageN ≠ 0 →
    (t.getQuad q).slackMean = (s.getQuad q).slackSum / (s.getQuad q).ageN ∧ (t.getQuad q).ageN = 0) ∧
  (∀ s : State, 2 ≤ s.boot.step → s.pmc.restarting = false → ∃ t, exec .lockstepMismatch s = .next t ∧
    t.pmc.restarting = true ∧ t.pmc.cmds = []) ∧
  (∀ s : State, s.pmc.cmds ≠ [] → s.pmc.restarting = false → ∃ t, exec .commandDeadlineExpiry s = .next t ∧
    t.pmc.restarting = true ∧ t.pmc.cmds = []) ∧
  (∀ s : State, s.pmc.restarting = true → s.pmc.cmds = [] → ∃ t, exec .pmcRestartDone s = .next t ∧
    t.pmc.restarting = false) ∧
  (∀ (w : Nat) (b : Binding) (s : State), w < 96 → (s.getWork w).next = some b → b.frame = s.pmc.frame + 2 →
    (∀ r ∈ (footBanks (s.plate b.slot) b.quads b.variant).map (·.1), (s.getRtr r).arm = true ∧
      (s.getRtr r).validating = false ∧ (s.getRtr r).frame16 = b.frame.setWidth 16) →
    ∃ t, exec (.bindInstallDeadline w) s = .next t ∧ (t.getWork w).next = some { b with stage := .installed }) ∧
  (∀ (w p : Nat) (b : Binding) (s : State), w < 96 → (s.getWork w).bound = some b → b.stage = .setup →
    p < b.place.length → b.fails < 3 → ∃ t, exec (.residentLoadFail w p) s = .next t ∧
      (t.getWork w).bound = some { b with fails := b.fails + 1, left := b.left + 1 }) ∧
  (∀ s : State, s.pmc.detours ≠ [] → s.pmc.restarting = false → ∃ t, exec .detourCompute s = .next t ∧ t.pmc.detours = [] ∧
    ∀ n, (t.getRtr n).active = (s.getRtr n).active) ∧
  (∀ (k l d g : Nat) (s : State), linkFitted k l = true → d < 2 → g < 11 → 4 ≤ s.pmc.point →
    (s.getLink k l d).trained = true → (s.getLink k l d).retraining = false → (s.getLink k l d).passed = none →
    s.retrainDue (s.getLink k l d) g = true → (s.getLink k l d).good.getLsbD g = true → (s.getLink k l d).goodCount ≠ 8 →
    ∃ t, exec (.linkRetrain k l d g) s = .next t ∧ (t.getLink k l d).retraining = true ∧ (t.getLink k l d).group = g) ∧
  (∀ (k l d : Nat) (pass : Bool) (s : State), linkFitted k l = true → d < 2 → (s.getLink k l d).retraining = true →
    ∃ t, exec (.linkRetrainDone k l d pass) s = .next t ∧ (t.getLink k l d).retraining = false ∧
      (pass = true → (t.getLink k l d).passed = some (s.getLink k l d).group) ∧
      (pass = false → (t.getLink k l d).good =
        (s.getLink k l d).good &&& ~~~ BitVec.ofNat 11 (2 ^ (s.getLink k l d).group))) ∧
  (∀ (g m : Nat) (mode : ModMode) (s : State), g < 2 → m < 8 → s.siteFitted g = true → (s.getSite g).railOff = false →
    s.boot.step = 6 → ∃ t, exec (.moduleTrained g m mode) s = .next t ∧
      tget (t.getSite g).modules m .down = mode) ∧
  (∀ (g : Nat) (s : State), g < 2 → (s.getSite g).state = 4 → (s.getSite g).railOff = false →
    ∃ t, exec (.siteRetrain g) s = .next t ∧ ∀ m, m < 8 → tget (t.getSite g).modules m .down =
      (if modTrained (tget (s.getSite g).modules m .down) then tget (s.getSite g).modules m .down else .training)) ∧
  (∀ s : State, s.pwr.mainOk = true ∨ s.pwr.backupOk = true → s.pwr.failed = true ∨ s.boot.step = 0 →
    ∃ t, exec (.coldStart none) s = .next t ∧ match (s.coldKeep.alert.selectBank s.coldKeep.boot.candidates).1 with
      | some k => t.pmc.frame = 1 ∧ t.boot.step = 2 ∧ t.boot.bank = k ∧ ∀ q, q < 96 → (t.getQuad q).rail = 0 ∧ (t.getQuad q).rampDue = true
      | none => t.pmc.frame = 0 ∧ t.boot.step = 7) ∧
  (∀ (l : List StackTest) (bad : List LaneGroup) (s : State), s.boot.step = 3 → s.thm.state < 3 →
    ∃ t, exec (.memoryTestDone ⟨l, bad⟩) s = .next t ∧ (t.boot.step = 4 ∨ t.boot.step = 5) ∧
      ∀ h, h < 48 → (∀ r ∈ l, r.stack ≠ h) → (t.getStack h).state = 2 ∨ (t.getStack h).state = 3) ∧
  (∀ (l : List Nat) (s : State), s.boot.step = 5 → s.thm.state < 3 → ∃ t, exec (.coreTestDone l) s = .next t ∧
    t.boot.step = 6 ∧ t.pins.panelOk = true) ∧
  (∀ (n : Nat) (pass : Bool) (s : State), n < 576 → (s.getCore n).ccb.state = .resetting → (s.getCore n).rejoin = false →
    ∃ t, exec (.warmSelfTestDone n pass) s = .next t ∧ (t.getCore n).rejoin = pass ∧
      (pass = false → (t.getCore n).failed = some 0x0A)) ∧
  ∀ (ms q : Nat) (s : State), 100 ≤ ms → s.boot.step = 6 → s.thm.state < 2 → q < 96 → (s.getQuad q).resetPending = false →
    ∃ t, exec (.resetReq ms) s = .next t ∧ ∀ n, n < 576 → (s.getCore n).ccb.state ≠ .resetting →
      (t.getCore n).ccb.resetPending = true

/-- R416, R445 to R451, R461 to R476: attestation, the management endpoint and the metering cartridge. -/
def Sys2Proof.Claims.ServicesComplete : Prop :=
  (∀ (g : Nat) (s : State), g < 2 → (s.getSite g).open = true →
    let x := s.getSite g
    (∃ t, exec (.getVersion g) s = .next t ∧ t.resp = { data := [0x1300] } ∧ (t.getSite g).spdmVersion = true) ∧
    (x.spdmVersion = true → ∃ t, exec (.getCapabilities g) s = .next t ∧ t.resp = {} ∧ (t.getSite g).spdmCaps = true) ∧
    (∀ a h m, x.spdmCaps = true → ∃ t, exec (.negotiateAlgorithms g a h m) s = .next t ∧
      t.resp = { data := [a &&& 0x80, h &&& 0x2, m &&& 0x4] }) ∧
    (x.spdmAlgs = true → ∃ t, exec (.getDigests g) s = .next t ∧
      t.resp = { data := bytesWords (Config.sha384 s.chain) }) ∧
    (∀ off len, x.spdmAlgs = true → off < s.chain.length → ∃ t, exec (.getCertificate g 0 off len) s = .next t ∧
      t.resp = { data := bytesWords ((s.chain.drop off).take len) }) ∧
    (∀ nonce, x.spdmAlgs = true → ∃ t, exec (.challenge g 0 nonce) s = .next t ∧ t.resp.status = 0 ∧
      ∃ msg, (t.getSite g).signed = some (Config.sha384 (x.transcript ++ msg))) ∧
    (∀ i nonce, x.spdmAlgs = true → 1 ≤ i → i ≤ 8 → ∃ t, exec (.getMeasurements g i false nonce) s = .next t ∧
      t.resp = { data := bytesWords (s.measurement i) }) ∧
    (∀ h, x.signed = some h → ∃ t, exec (.signTranscript g 0x01000000) s = .next t ∧ t.resp.status = 0 ∧
      (t.resp.data = [lmsWord 1 eSecLms] ∨ t.sec.use = s.sec.use + 1 ∧
        t.resp.data.take 2 = [lmsWord 1 0, BitVec.ofNat 32 s.sec.use])) ∧
    (∃ t, exec (.getPublic g 0x02000000) s = .next t ∧ t.resp.data = lmsWord 2 0 :: bytesWords hssPublic) ∧
    ∀ code, ∃ t, exec (.spdmUnsupported g code) s = .next t ∧ t.resp = { status := 7, data := [BitVec.ofNat 32 code] }) ∧
  (∀ s : State, ∃ t, exec (.getSensorReading 4) s = .next t ∧ t.resp = { data := [BitVec.ofNat 32 s.pwr.pLf] }) ∧
  (∀ s : State, ∃ t, exec (.getStateSensorReadings 10) s = .next t ∧
    t.resp = { data := [if s.thm.state = 1 then 1 else 0] }) ∧
  (∀ (r : Nat) (s : State), r ≤ 13 → ∃ t, exec (.getPdr r) s = .next t ∧ t.resp.status = 0 ∧
    t.resp.data.head? = some (BitVec.ofNat 32 (if r = 0 then 1 else r))) ∧
  (∀ (ws : List W32) (s : State), s.mtr.present = true → s.mtr.powered = true → s.mtr.intOpen = true → snapOk ws = true →
    ∃ t, exec (.snapshot ws) s = .next t ∧ t.mtr.snaps = s.mtr.snaps + 1) ∧
  (∀ (sec a b : Nat) (s : State), s.cartRuns = true → s.mtr.start ≤ sec → ∃ t, exec (.intervalClose sec a b) s = .next t ∧
    t.mtr.seq = s.mtr.seq + 1 ∧ t.mtr.records.map (·.1) = s.mtr.records.map (·.1) ++ [s.mtr.seq + 1] ∧ t.mtr.start = sec) ∧
  (∀ (sec a b : Nat) (s : State), s.mtr.metering = true → ∃ t, exec (.leverBypass sec a b) s = .next t ∧
    t.mtr.metering = false) ∧
  (∀ (sec : Nat) (s : State), s.mtr.metering = false → s.mtr.present = true → ∃ t, exec (.leverMeter sec) s = .next t ∧
    t.mtr.metering = true ∧ t.mtr.state = if t.mtr.noLms then 3 else 1) ∧
  (∀ (n : W64) (s : State), s.mtr.metering = false → s.mtr.present = false →
    ∃ t, exec (.cartridgeSwap (some n)) s = .next t ∧ t.mtr.present = true ∧ t.mtr.cartSerial = n ∧
      (t.mtr.flags = 4)) ∧
  (∀ (sec a b : Nat) (s : State), s.cartRuns = true → ∃ t, exec (.cartridgePowerLoss sec a b) s = .next t ∧
    t.mtr.powered = false ∧ t.mtr.intOpen = false ∧ t.mtr.seq = s.mtr.seq + 1) ∧
  (∀ (sec : Nat) (s : State), s.mtr.present = true → s.mtr.powered = false →
    ∃ t, exec (.cartridgePowerUp sec) s = .next t ∧ t.mtr.powered = true ∧ t.mtr.intOpen = true ∧ t.mtr.start = sec) ∧
  (∀ (st : Nat) (x : W32) (e : W64) (s : State), ∃ t, exec (.statusFrame true st x e) s = .next t ∧ t.mtr.linkOk = true ∧
    t.mtr.total = e ∧ t.mtr.state = if s.mtr.noLms && st % 16 ≠ 0 then 3 else st % 16) ∧
  (∀ (ws : List W32) (s : State), (∀ e ∈ s.mtr.copyRecs, e.1 ≠ (ws.getD 2 0).toNat) →
    ∃ t, exec (.legalFrame true ws) s = .next t ∧ tget t.mtr.copyRecs (ws.getD 2 0).toNat [] = ws) ∧
  (∀ (q : W32) (ls : List (List W32)) (s : State), ∃ t, exec (.linesFrame true q ls) s = .next t ∧
    ∀ l ∈ ls, ∃ m ∈ tget t.mtr.copyLines q.toNat [], lineIndex m = lineIndex l) ∧
  (∀ (ch : List Byte) (s : State), ∃ t, exec (.certsFrame true ch) s = .next t ∧ t.mtr.copyCerts = ch) ∧
  ∀ s : State, ∃ t, exec .statusTimeout s = .next t ∧ t.mtr.linkOk = false ∧
    tget t.pmc.cnt.now 0x072C 0 = tget s.pmc.cnt.now 0x072C 0 + 1

/-- R452: FW_UPDATE completes: a package that verifies rolls its target, staged anew or as the set that is staged already, and its SEQ is the
answer; one that does not ends with the status of the first check that fails, which the target keeps. (`fwUpdate`.) -/
def Sys2Proof.Claims.FwUpdateCompletes : Prop :=
  ∀ s c, Accepted .fwUpdate s c → c.w64 1 % 4096 = 0 → c.w64 1 + c.w 3 ≤ s.winSize c.site → s.inTime (c.frame 4) → c.w 3 ≠ 0 →
    let pkg := (s.winTake c.site (c.w64 1) (c.w 3)).1
    let m := pkg.take (plWord pkg 2)
    let seq := BitVec.ofNat 32 (manSeq m)
    let v := s.fwTarget (c.w 0)
    v.phase ≠ 2 → v.phase ≠ 3 → ∃ t, exec .fwUpdate s = .next t ∧
      let rolls := Reply s t c 0 [BitVec.ofNat 32 (manSeq pkg)] ∧ (t.fwTarget (c.w 0)).phase = 2 ∧
        (t.fwTarget (c.w 0)).rollAt = some (c.frame 4) ∧ t.sec.staged = seq
      let ends (st : Nat) := Reply s t c st [] ∧ (t.fwTarget (c.w 0)).status = BitVec.ofNat 16 st
      (∀ st, s.fwRefused m = some st → ends st) ∧
      (s.fwRefused m = none → s.sec.staged ≠ 0 → s.sec.staged ≠ seq → ends 0x1203) ∧
      (s.fwRefused m = none → s.sec.staged = seq → rolls) ∧
      (s.fwRefused m = none → s.sec.staged = 0 → seq ≠ 0 → s.fwImages pkg m = false → ends 0x1204) ∧
      (s.fwRefused m = none → s.sec.staged = 0 → seq ≠ 0 → s.fwImages pkg m = true → rolls ∨ ends 0x1206)

/-- R454, R457, R460: the commands of firmware distribution complete: DATA is kept at its index by a core, and by a member of a hall; END of a
whole image is acknowledged, of another answered with the packets it lacks; a NACK has them repeated; an ACK of a whole image is
taken. (`fwData`, `fwEnd`, `fwNack`, `fwAck`, and `fwFlit` with KIND 0 to 3.) -/
def Sys2Proof.Claims.FwMessagesComplete : Prop :=
  (∀ (n q i : Nat) (ws : List W32) (s : State), n < 576 → s.fwSeqOk q = true → (s.getCore n).noFw = false →
    ∃ t, exec (.fwData n q i ws) s = .next t ∧
      (t.getCore n).fw = { (s.getCore n).fw with packets := tset (s.getCore n).fw.packets i (ws.take 6) [] }) ∧
  (∀ (n q len : Nat) (s : State), n < 576 → s.fwSeqOk q = true → (s.getCore n).noFw = false → (s.getCore n).fw.repairs < 3 →
    ∃ t, exec (.fwEnd n q len) s = .next t ∧
      let miss := (s.getCore n).fw.missing len
      if miss = [] ∧ Config.sha384 ((s.getCore n).fw.image len) = s.sec.stagedHashes.getD 1 [] then
        (t.getCore n).fw.complete = true ∧ t.resp.data = [0xC0000000]
      else (t.getCore n).fw.repairs = (s.getCore n).fw.repairs + 1 ∧
        t.resp.data = miss.map fun i => word [(1, 30, 2), (q, 22, 8), (i, 0, 22)]) ∧
  (∀ (n : Nat) (l : List Nat) (s : State), n < 576 → ∃ t, exec (.fwNack n l) s = .next t ∧
    t.resp.data = l.map (BitVec.ofNat 32) ∧
    tget t.pmc.cnt.now 0x0FA4 0 = tget s.pmc.cnt.now 0x0FA4 0 + BitVec.ofNat 32 l.length) ∧
  (∀ (n : Nat) (s : State), n < 576 → (s.getCore n).fw.complete = true → ∃ t, exec (.fwAck n) s = .next t ∧
    (t.getCore n).fw.acked = true) ∧
  ∀ (port src q i : Nat) (ws : List W32) (x : Flit) (s : State), ForPanel s port x →
    (∃ t, exec (.fwFlit ⟨port, x⟩ src ⟨0, q, i⟩ ws) s = .next t ∧ tget t.sec.hallPackets i [] = ws.take 13) ∧
    (∃ t, exec (.fwFlit ⟨port, x⟩ src ⟨1, q, i⟩ ws) s = .next t ∧
      t.resp.data = [word [(1, 30, 2), (q, 22, 8), (i, 0, 22)]] ∧ ∀ r, s.route src = some r →
        (⟨portOf r.1 r.2, 0x8, src, word [(0, 30, 2), (s.sec.hallSeq, 22, 8), (i, 0, 22)] ::
          bytesWords ((s.sec.hallOut.drop (52 * i)).take 52)⟩ : Express) ∈ t.fab.express) ∧
    (
      let miss := (List.range (cdiv (ws.getD 0 0).toNat 52)).filter fun i => (tget s.sec.hallPackets i []).length ≠ 13
      miss ≠ [] → s.sec.hallRepairs < 3 → ∃ t, exec (.fwFlit ⟨port, x⟩ src ⟨2, q, i⟩ ws) s = .next t ∧
        t.sec.hallRepairs = s.sec.hallRepairs + 1 ∧
        t.resp.data = miss.map fun i => word [(1, 30, 2), (q, 22, 8), (i, 0, 22)]) ∧
    ∃ t, exec (.fwFlit ⟨port, x⟩ src ⟨3, q, i⟩ ws) s = .next t ∧ t.resp.data = [word [(3, 30, 2), (q, 22, 8), (i, 0, 22)]]

/-- R430, R448, R451: the recovery service writes a bank image that verifies, and refuses another; SIGN_TRANSCRIPT, with an index reserved and the
transcript closed, answers the signature under that index, which it gives no more. (`recoveryImage`, `signTranscript`.) -/
def Sys2Proof.Claims.RecoveryAndSigningComplete : Prop :=
  (∀ (b : Nat) (img : List Byte) (r : BootRec) (s : State), b < 2 → s.boot.step = 7 → bits s.boot.err.toNat 16 16 = 0x1102 →
    (parseRec img 0).or (parseRec img 0x8000) = some r → ∃ t, exec (.recoveryImage b img) s = .next t ∧
      if (s.modBoot fun x => (x.setRec (b = 1) r).setImage (b = 1) (img.drop imageBase)).bankOk (b = 1) = true then
        t.resp.status = 0 ∧ t.boot.record (b = 1) = r ∧ t.boot.image (b = 1) = img.drop imageBase
      else t.resp.status = 0x1201 ∧ t.boot = s.boot) ∧
  ∀ (g : Nat) (h : List Byte) (s : State), g < 2 → (s.getSite g).open = true → (s.getSite g).signed = some h →
    s.sec.lmsOff = false → s.sec.use < s.sec.next → s.sec.use < 2 ^ 30 → ∃ t, exec (.signTranscript g 0x01000000) s = .next t ∧
      t.resp = { data := [lmsWord 1 0, BitVec.ofNat 32 s.sec.use] ++ bytesWords (Config.sign 1 s.sec.use h) } ∧
      t.sec = { s.sec with use := s.sec.use + 1 } ∧ (t.getSite g).signed = none

/-- R164, R186, R254: the destination of a mesh transfer completes what arrives: the header of a PUT opens its transfer; a data beat of one
word to memory that refuses nothing is what reads there; the header of a GET readies data beats with the bytes that stand there.
(`putWrite`, `getRequest`.) -/
def Sys2Proof.Claims.MeshAccessesComplete : Prop :=
  (∀ (u : UnitId) (i : Nat) (e : Nat × Nat × Beat) (s : State), (s.meshPort u).turn = some i →
    (s.meshPort u).rx[i]? = some e → e.2.2.head = true → e.2.2.kind = 1 → e.2.2.xfer.hall = false →
    ∃ t, exec (.putWrite u) s = .next t ∧ t.meshPort u = { s.meshPort u with
      rx := (s.meshPort u).rx.eraseIdx i, xfers := (s.meshPort u).xfers ++ [e.2.2.xfer.open u e.2.1] }) ∧
  (∀ (u : UnitId) (i : Nat) (e : Nat × Nat × Beat) (x : Xfer) (s : State), (s.meshPort u).turn = some i →
    (s.meshPort u).rx[i]? = some e → e.2.2.head = false →
    (s.meshPort u).xfers.find? (fun z => z.port = e.2.1 && z.stream = e.2.2.stream) = some x → x.hall = false →
    e.2.2.data.length = 32 → e.2.2.poison = 0 → (∃ h y z, s.unitAt (x.at x.moved) = some (.res h, y, z)) →
    s.writeRefused (x.at x.moved) 32 = none →
    ∃ t, exec (.putWrite u) s = .next t ∧ t.bytes (x.at x.moved) 32 = e.2.2.data) ∧
  ∀ (u : UnitId) (i : Nat) (e : Nat × Nat × Beat) (s : State),
    let p := s.meshPort u
    let x := e.2.2.xfer.open u e.2.1
    p.turn = some i → p.rx[i]? = some e → e.2.2.head = true → e.2.2.kind = 2 → x.hall = false →
    (∀ n, u = .core n → (s.getCore n).ccb.state ≠ .resetting ∧ (s.getCore n).scr.writes = []) →
    ∃ t, exec (.getRequest u) s = .next t ∧ (t.meshPort u).rx = p.rx.eraseIdx i ∧
      (((t.meshPort u).tx.drop p.tx.length).flatMap fun y => y.2.2.data) =
        (List.range x.rows).flatMap fun k => s.bytes (x.addr + k * x.addrStride) x.rowBytes

/-! ### Statements of several parts -/

/-- Tokens at CCB_TOKEN_IN and token messages: RESET_NAK, queued, refused, or overflowing; planned and fatal resets of a core -/
def Obligations.TokensAndResets : Prop :=
  Claims.TokenWriteToCore ∧
    Claims.TokenWriteToComposite ∧
    Claims.TokenMessageToCore ∧
    Claims.PlannedReset ∧
    Claims.FatalReset

/-- CCB_DOORBELL: PENDING and COOKIE are set, the DOORBELL event tells them, PENDING returns to 0, and nothing else changes -/
def Obligations.CellDoorbells : Prop :=
  Claims.DoorbellWrite ∧ Claims.DoorbellAccept

/-- CCB_FAULT: ones written clear its bits; a FAULT message carries it -/
def Obligations.FaultRegister : Prop :=
  Claims.FaultClear ∧ Claims.FaultMessage

/-- Register writes and MGMT messages: alignment, discarded writes, mailbox words, sequencer registers -/
def Obligations.RegisterAccess : Prop :=
  Claims.RegisterWrites ∧ Claims.MgmtMessages

/-- RTR_TBL_DATA, the arming, disarming and validation of a table swap, and a router’s phases and cycles -/
def Obligations.Routers : Prop :=
  Claims.RouterTableWords ∧ Claims.SwapArming ∧ Claims.PhaseSwitching ∧ Claims.RouterCycle

/-- The doorbell page: mailboxes, Admission Ring tails and Completion Ring heads -/
def Obligations.HostDoorbells : Prop :=
  Claims.MailboxDoorbell ∧ Claims.AdmissionTail ∧ Claims.CompletionHead

/-- Vilsal commands that read: GET_INFO, CONTACT_READ, STATS_READ, CLASS_GET, FW_STATUS, METER_READ -/
def Obligations.VilsalReads : Prop :=
  Claims.VilsalQueries ∧ Claims.VilsalMeterRead

/-- Vilsal commands that set: rings, masks, limits, frames, cells, classes, tags, policies and overrides -/
def Obligations.VilsalConfiguration : Prop :=
  Claims.VilsalSettings ∧ Claims.VilsalPendingSettings ∧ Claims.VilsalPolicy ∧ Claims.VilsalOverrides

/-- FAB_REBIND, HALL_FORM, HALL_LEAVE, RES_SPLIT, PUBLISH and HBM_COPY -/
def Obligations.VilsalHallsAndMemory : Prop :=
  Claims.VilsalHallsAndIds ∧ Claims.VilsalMemory

/-- PLATE_LOAD, PLATE_DELETE, PLATE_BIND, PLATE_UNBIND and the deadlines of a bind -/
def Obligations.Plates : Prop :=
  Claims.VilsalPlates ∧ Claims.VilsalPlateBind ∧ Claims.BindDeadlines

/-- KEY_ENROL, KEY_REVOKE and FW_UPDATE -/
def Obligations.VilsalSecurity : Prop :=
  Claims.VilsalKeys ∧ Claims.VilsalFirmware

/-- A descriptor that fails a check is rejected: the first status, FAULT_INFO, FAULT_IDX, and the engines stopped -/
def Obligations.DescriptorFaults : Prop :=
  Claims.DescriptorKindAndPoison ∧ Claims.DescriptorChecks

/-- SEM_WAIT takes COUNT or waits; SEM_SIGNAL adds INC, at once or later; SLOT_PHASE, NOTICE, MARK and END -/
def Obligations.ControlDescriptors : Prop :=
  Claims.SemaphoreWait ∧ Claims.SemaphoreSignal ∧ Claims.PhaseAndNotice ∧ Claims.MarksAndEnd

/-- The vector engine: a descriptor starts, releases its tiles, and leaves the queue when it completes -/
def Obligations.VectorEngine : Prop :=
  Claims.VeRows ∧ Claims.VeCompletes

/-- The control network: arming, heartbeats, twin wires and load notices -/
def Obligations.ControlNodes : Prop :=
  Claims.ShutterArming ∧ Claims.Heartbeats ∧ Claims.TwinWires ∧ Claims.LoadNotices

/-- Panel and hall barriers: arrivals, release and lateness -/
def Obligations.Barriers : Prop :=
  Claims.BarrierArrivals ∧ Claims.BarrierReleases ∧ Claims.HallBarriers

/-- Firmware broadcast to the cores and firmware flits of the hall -/
def Obligations.FirmwareDistribution : Prop :=
  Claims.FirmwareBroadcast ∧ Claims.FirmwareFlits

/-- A PUT writes the rows its header names, and a GET reads them -/
def Obligations.MeshDestinations : Prop :=
  Claims.MeshPuts ∧ Claims.MeshGets

/-- GO, the Develop deadline, the limit of the extension, the Stop Bath and drain close -/
def Obligations.FrameEnds : Prop :=
  Claims.GoTokens ∧ Claims.DevelopDeadline ∧ Claims.ExtensionLimit ∧ Claims.StopBath ∧ Claims.DrainClose

/-- The Shutter: the frame counts on, armed nodes fire, and cores and routers latch -/
def Obligations.Shutter : Prop :=
  Claims.ShutterFires ∧ Claims.ShutterLatches

/-- Heartbeats that are missing, and quadrants and perimeter dies that miss their Shutters -/
def Obligations.MissedHeartbeats : Prop :=
  Claims.HeartbeatCheck ∧ Claims.MissedShutters

/-- A member follows its hall master, elects another, or leaves to run free -/
def Obligations.HallCells : Prop :=
  Claims.HallShutters ∧ Claims.HallElections

/-- Trains at a port: CRC, order, forwarding, credit, acknowledgement and replay -/
def Obligations.Trains : Prop :=
  Claims.TrainArrivals ∧ Claims.TrainFlow

/-- PUTs and GETs of another panel at their home -/
def Obligations.HomeService : Prop :=
  Claims.HomeWrites ∧ Claims.HomeReads

/-- The answers to this panel’s remote transfers: data, refusals and timeouts -/
def Obligations.RemoteTransfers : Prop :=
  Claims.RemoteAnswers ∧ Claims.RemoteRefusals ∧ Claims.FetchTimeouts

/-- Ports train, go down and test themselves; rings form by IDENT, LEAVE and PROBE -/
def Obligations.PortsAndRings : Prop :=
  Claims.PortTraining ∧ Claims.PortsThatTurn ∧ Claims.LoopbackTests ∧ Claims.RingMessages ∧ Claims.BadFlits

/-- The host reads back what it writes to its window; HBM_COPY copies its range; refresh, temperature and maintenance of the HBM stacks -/
def Obligations.Memory : Prop :=
  Claims.HostMemory ∧ Claims.CopyEnd ∧ Claims.RefreshAndTemperature ∧ Claims.Maintenance

/-- MAIN and BACKUP, their loss, and the Host Sites’ rails -/
def Obligations.Supplies : Prop :=
  Claims.Inputs ∧ Claims.PowerFailure ∧ Claims.SitePower

/-- Converters, feeds, phases, overcurrents and eFuses -/
def Obligations.PowerFaults : Prop :=
  Claims.ConvertersAndPhases ∧ Claims.Overcurrents ∧ Claims.Fuses

/-- Stretches of the clock and ramps of the rails -/
def Obligations.PowerControl : Prop :=
  Claims.Stretches ∧ Claims.Ramps

/-- References, loss of lock, and dies that lose their clock and return -/
def Obligations.Clocks : Prop :=
  Claims.References ∧ Claims.ClockLoss ∧ Claims.DieReturn

/-- Samples of the temperature pairs, the thermal clocks, fans, the inlet, and the exit from Safelight hold -/
def Obligations.Temperatures : Prop :=
  Claims.SensorSamples ∧ Claims.ThermalClocks ∧ Claims.FansAndInlet ∧ Claims.HoldExit

/-- Warm recovery, restarts of the PMC, and ageing with its margins -/
def Obligations.HealthEvents : Prop :=
  Claims.WarmRecovery ∧ Claims.PmcRestarts ∧ Claims.AgeingAndMargins

/-- Lane groups that retrain, detours, and the UCIe modules of a site -/
def Obligations.LinksAndModules : Prop :=
  Claims.LaneRetraining ∧ Claims.Detours ∧ Claims.SiteModules

/-- A cold start: what it leaves of each unit, and when it halts; the memory test, the core test and the recovery service -/
def Obligations.BringUp : Prop :=
  Claims.ColdStart ∧ Claims.MemoryTest ∧ Claims.CoreTest ∧ Claims.RecoveryService

/-- SPDM: the order of a connection, its answers, and the LMS companion (codes PRESUMED: log entry 68) -/
def Obligations.Spdm : Prop :=
  Claims.SpdmConnections ∧ Claims.SpdmAnswers ∧ Claims.LmsCompanion

/-- The cartridge: intervals, lever, exchange, supply and the record link -/
def Obligations.Metering : Prop :=
  Claims.MeterIntervals ∧ Claims.LeverAndCartridge ∧ Claims.RecordLink

/-- Commands on cells, registers, routers and the doorbell page complete: exec answers a next state with the effect, under conditions on the state and operands -/
def Obligations.CellAndRegisterCommandsComplete : Prop :=
  Claims.CellsComplete ∧ Claims.RegistersComplete

/-- Vilsal commands complete: exec answers a next state with the effect, under conditions on the state and operands -/
def Obligations.VilsalCommandsComplete : Prop :=
  Claims.VilsalReadsComplete ∧ Claims.VilsalOverridesComplete ∧ Claims.VilsalPlatesComplete

/-- Descriptors and the events of a core’s engines complete: exec answers a next state with the effect, under conditions on the state and operands -/
def Obligations.CoreCommandsComplete : Prop :=
  Claims.DescriptorsComplete ∧ Claims.EnginesComplete

/-- Control messages, the mesh and the points of a frame complete: exec answers a next state with the effect, under conditions on the state and operands -/
def Obligations.MessageAndFrameCommandsComplete : Prop :=
  Claims.MessagesComplete ∧ Claims.FramesComplete

/-- FW_UPDATE, FW_DATA, FW_END, FW_NACK, FW_ACK, firmware flits, PUT_WRITE, GET_REQUEST, RECOVERY_IMAGE and SIGN_TRANSCRIPT complete -/
def Obligations.FirmwareMeshAndSigningCommandsComplete : Prop :=
  Claims.FwUpdateCompletes ∧ Claims.FwMessagesComplete ∧ Claims.RecoveryAndSigningComplete ∧ Claims.MeshAccessesComplete

/-- Halls, ports, rings and trains complete: exec answers a next state with the effect, under conditions on the state and operands -/
def Obligations.FabricCommandsComplete : Prop :=
  Claims.FabricComplete

/-- Memory, supplies, clocks, temperatures, health and bring-up complete: exec answers a next state with the effect, under conditions on the state and operands -/
def Obligations.PowerAndHealthCommandsComplete : Prop :=
  Claims.PowerComplete ∧ Claims.HealthComplete

/-- Attestation, the management endpoint and the metering cartridge complete: exec answers a next state with the effect, under conditions on the state and operands -/
def Obligations.ServiceCommandsComplete : Prop :=
  Claims.ServicesComplete
end

