-- ==== Sys2Proof/Laws/Tables.lean ====
section
/-! SUPPORT. The laws of tables and of memory: reading after writing, and the canonical forms that every operation on
them keeps. -/

namespace Sys2Proof.Machine

/-! ### Tables -/

section tables

variable {α : Type}

theorem tget_tdel (t : Tab α) (k j : Nat) (d : α) : tget (tdel t k) j d = if j = k then d else tget t j d := by
  induction t with
  | nil => simp [tdel, tget]
  | cons e r ih =>
    obtain ⟨a, v⟩ := e
    by_cases h : a = k
    · subst h
      have hd : tdel ((a, v) :: r) a = tdel r a := by simp [tdel]
      rw [hd, ih]
      by_cases hj : j = a
      · simp [hj]
      · have hn : ¬ a = j := fun e => hj e.symm
        simp [hj, hn, tget]
    · have hd : tdel ((a, v) :: r) k = (a, v) :: tdel r k := by simp [tdel, h]
      rw [hd]
      simp only [tget]
      by_cases hj : a = j
      · subst hj
        simp [h]
      · simp [hj, ih]

theorem tget_tput (t : Tab α) (k j : Nat) (v d : α) : tget (tput t k v) j d = if j = k then v else tget t j d := by
  induction t with
  | nil =>
    simp only [tput, tget]
    by_cases h : k = j
    · simp [h]
    · have hn : ¬ j = k := fun e => h e.symm
      simp [h, hn]
  | cons e r ih =>
    obtain ⟨a, w⟩ := e
    simp only [tput]
    by_cases h1 : k < a
    · simp only [h1, if_true, tget]
      by_cases hj : k = j
      · simp [hj]
      · have hn : ¬ j = k := fun e => hj e.symm
        simp [hj, hn]
    · by_cases h2 : k = a
      · subst h2
        simp only [Nat.lt_irrefl, if_false, if_true, tget]
        by_cases hj : k = j
        · simp [hj]
        · have hn : ¬ j = k := fun e => hj e.symm
          simp [hj, hn]
      · simp only [h1, h2, if_false, tget]
        by_cases hj : a = j
        · subst hj
          have hn : ¬ a = k := fun e => h2 e.symm
          simp [hn]
        · simp [hj, ih]

/-- Reading a table after writing it. -/
theorem tget_tset [DecidableEq α] (t : Tab α) (k j : Nat) (v d : α) :
    tget (tset t k v d) j d = if j = k then v else tget t j d := by
  by_cases h : v = d
  · subst h
    simp [tset, tget_tdel]
  · simp only [tset, if_neg h, tget_tput]

@[simp] theorem tget_tset_same [DecidableEq α] (t : Tab α) (k : Nat) (v d : α) : tget (tset t k v d) k d = v := by
  simp [tget_tset]

@[simp] theorem tget_tset_ne [DecidableEq α] (t : Tab α) {k j : Nat} (v d : α) (h : j ≠ k) :
    tget (tset t k v d) j d = tget t j d := by
  simp [tget_tset, h]

end tables

/-! ### Memory (R493) -/

theorem memOk_mono {m : List Host.Cell} {a b : Nat} (h : a ≤ b) (hm : memOk b m = true) : memOk a m = true := by
  cases m with
  | nil => rfl
  | cons e r =>
    obtain ⟨k, v⟩ := e
    simp only [memOk, Bool.and_eq_true, decide_eq_true_eq] at hm ⊢
    exact ⟨⟨Nat.le_trans h hm.1.1, hm.1.2⟩, hm.2⟩

theorem memOk_filter {m : List Host.Cell} (p : Host.Cell → Bool) {a : Nat} (hm : memOk a m = true) :
    memOk a (m.filter p) = true := by
  induction m generalizing a with
  | nil => rfl
  | cons e r ih =>
    obtain ⟨k, v⟩ := e
    simp only [memOk, Bool.and_eq_true, decide_eq_true_eq] at hm
    by_cases h : p (k, v) = true
    · simp only [List.filter_cons_of_pos h, memOk, Bool.and_eq_true, decide_eq_true_eq]
      exact ⟨hm.1, ih hm.2⟩
    · simp only [List.filter_cons_of_neg h]
      exact ih (memOk_mono (Nat.le_succ_of_le hm.1.1) hm.2)

theorem memOk_tput {m : List Host.Cell} {a k : Nat} {b : Byte} (hm : memOk a m = true) (hk : a ≤ k)
    (hb : b ≠ memDefault) : memOk a (tput m k b) = true := by
  induction m generalizing a with
  | nil => simp [tput, memOk, hk, hb]
  | cons e r ih =>
    obtain ⟨j, v⟩ := e
    simp only [memOk, Bool.and_eq_true, decide_eq_true_eq] at hm
    simp only [tput]
    split
    · next h =>
      simp only [memOk, Bool.and_eq_true, decide_eq_true_eq]
      exact ⟨⟨hk, hb⟩, ⟨h, hm.1.2⟩, hm.2⟩
    · split
      · next h =>
        subst h
        simp only [memOk, Bool.and_eq_true, decide_eq_true_eq]
        exact ⟨⟨hk, hb⟩, hm.2⟩
      · next h1 h2 =>
        simp only [memOk, Bool.and_eq_true, decide_eq_true_eq]
        exact ⟨hm.1, ih hm.2 (by omega)⟩

theorem memOk_memSet {m : List Host.Cell} {a k : Nat} (b : Byte) (hm : memOk a m = true) (hk : a ≤ k) :
    memOk a (memSet m k b) = true := by
  by_cases h : b = memDefault
  · simp only [memSet, tset, if_pos h]
    exact memOk_filter _ hm
  · simp only [memSet, tset, if_neg h]
    exact memOk_tput hm hk h

/-- Writing one byte keeps the canonical form. -/
theorem Memory.wf_memSet {m : List Host.Cell} (k : Nat) (b : Byte) (hm : Memory.wf m = true) :
    Memory.wf (memSet m k b) = true := memOk_memSet b hm (Nat.zero_le k)

/-- Writing bytes keeps the canonical form. -/
theorem Memory.wf_memWrite {m : List Host.Cell} (k : Nat) (bs : List Byte) (hm : Memory.wf m = true) :
    Memory.wf (memWrite m k bs) = true := by
  induction bs generalizing m k with
  | nil => exact hm
  | cons b r ih => exact ih (k + 1) (Memory.wf_memSet k b hm)

/-- Taking bytes out keeps the canonical form. -/
theorem Memory.wf_filter {m : List Host.Cell} (p : Host.Cell → Bool) (hm : Memory.wf m = true) :
    Memory.wf (m.filter p) = true := memOk_filter p hm

/-- One byte after a write of one byte. -/
theorem memGet_memSet (m : List Host.Cell) (k a : Nat) (b : Byte) :
    memGet (memSet m k b) a = if a = k then b else memGet m a := tget_tset m k a b memDefault

/-- One byte after a write of bytes: the byte written, or what was there. -/
theorem memGet_memWrite (m : List Host.Cell) (k a : Nat) (bs : List Byte) :
    memGet (memWrite m k bs) a = if k ≤ a ∧ a < k + bs.length then bs.getD (a - k) memDefault else memGet m a := by
  induction bs generalizing m k with
  | nil =>
    have h : ¬ (k ≤ a ∧ a < k + ([] : List Byte).length) := by simp only [List.length_nil]; omega
    rw [if_neg h]
    rfl
  | cons b r ih =>
    simp only [memWrite, ih, memGet_memSet, List.length_cons]
    by_cases h1 : k + 1 ≤ a ∧ a < k + 1 + r.length
    · have h2 : k ≤ a ∧ a < k + (r.length + 1) := by omega
      have h3 : a - k = (a - (k + 1)) + 1 := by omega
      rw [if_pos h1, if_pos h2, h3, List.getD_cons_succ]
    · by_cases h2 : a = k
      · subst h2
        have h3 : a ≤ a ∧ a < a + (r.length + 1) := by omega
        rw [if_neg h1, if_pos rfl, if_pos h3, Nat.sub_self, List.getD_cons_zero]
      · have h3 : ¬ (k ≤ a ∧ a < k + (r.length + 1)) := by omega
        rw [if_neg h1, if_neg h2, if_neg h3]

end Sys2Proof.Machine
end

