-- ==== Sys2Proof/Laws/State.lean ====
section
/-! SUPPORT. The updates of State: what each leaves, field by field, and what a unit reads as after it. -/

namespace Sys2Proof.Machine

variable (s : State)

/-! ### setCore -/

theorem State.modCore_eq (n : Nat) (f : Core → Core) : s.modCore n f = s.setCore n (f (s.getCore n)) := rfl
@[simp] theorem State.setCore_pmc (n : Nat) (v : Core) : (s.setCore n v).pmc = s.pmc := rfl
@[simp] theorem State.modCore_pmc (n : Nat) (f : Core → Core) : (s.modCore n f).pmc = s.pmc := rfl
@[simp] theorem State.setCore_rtr (n : Nat) (v : Core) : (s.setCore n v).rtr = s.rtr := rfl
@[simp] theorem State.modCore_rtr (n : Nat) (f : Core → Core) : (s.modCore n f).rtr = s.rtr := rfl
@[simp] theorem State.setCore_quad (n : Nat) (v : Core) : (s.setCore n v).quad = s.quad := rfl
@[simp] theorem State.modCore_quad (n : Nat) (f : Core → Core) : (s.modCore n f).quad = s.quad := rfl
@[simp] theorem State.setCore_tile (n : Nat) (v : Core) : (s.setCore n v).tile = s.tile := rfl
@[simp] theorem State.modCore_tile (n : Nat) (f : Core → Core) : (s.modCore n f).tile = s.tile := rfl
@[simp] theorem State.setCore_stack (n : Nat) (v : Core) : (s.setCore n v).stack = s.stack := rfl
@[simp] theorem State.modCore_stack (n : Nat) (f : Core → Core) : (s.modCore n f).stack = s.stack := rfl
@[simp] theorem State.setCore_port (n : Nat) (v : Core) : (s.setCore n v).port = s.port := rfl
@[simp] theorem State.modCore_port (n : Nat) (f : Core → Core) : (s.modCore n f).port = s.port := rfl
@[simp] theorem State.setCore_ring (n : Nat) (v : Core) : (s.setCore n v).ring = s.ring := rfl
@[simp] theorem State.modCore_ring (n : Nat) (f : Core → Core) : (s.modCore n f).ring = s.ring := rfl
@[simp] theorem State.setCore_fab (n : Nat) (v : Core) : (s.setCore n v).fab = s.fab := rfl
@[simp] theorem State.modCore_fab (n : Nat) (f : Core → Core) : (s.modCore n f).fab = s.fab := rfl
@[simp] theorem State.setCore_site (n : Nat) (v : Core) : (s.setCore n v).site = s.site := rfl
@[simp] theorem State.modCore_site (n : Nat) (f : Core → Core) : (s.modCore n f).site = s.site := rfl
@[simp] theorem State.setCore_mesh (n : Nat) (v : Core) : (s.setCore n v).mesh = s.mesh := rfl
@[simp] theorem State.modCore_mesh (n : Nat) (f : Core → Core) : (s.modCore n f).mesh = s.mesh := rfl
@[simp] theorem State.setCore_pwr (n : Nat) (v : Core) : (s.setCore n v).pwr = s.pwr := rfl
@[simp] theorem State.modCore_pwr (n : Nat) (f : Core → Core) : (s.modCore n f).pwr = s.pwr := rfl
@[simp] theorem State.setCore_clk (n : Nat) (v : Core) : (s.setCore n v).clk = s.clk := rfl
@[simp] theorem State.modCore_clk (n : Nat) (f : Core → Core) : (s.modCore n f).clk = s.clk := rfl
@[simp] theorem State.setCore_thm (n : Nat) (v : Core) : (s.setCore n v).thm = s.thm := rfl
@[simp] theorem State.modCore_thm (n : Nat) (f : Core → Core) : (s.modCore n f).thm = s.thm := rfl
@[simp] theorem State.setCore_hlt (n : Nat) (v : Core) : (s.setCore n v).hlt = s.hlt := rfl
@[simp] theorem State.modCore_hlt (n : Nat) (f : Core → Core) : (s.modCore n f).hlt = s.hlt := rfl
@[simp] theorem State.setCore_boot (n : Nat) (v : Core) : (s.setCore n v).boot = s.boot := rfl
@[simp] theorem State.modCore_boot (n : Nat) (f : Core → Core) : (s.modCore n f).boot = s.boot := rfl
@[simp] theorem State.setCore_sec (n : Nat) (v : Core) : (s.setCore n v).sec = s.sec := rfl
@[simp] theorem State.modCore_sec (n : Nat) (f : Core → Core) : (s.modCore n f).sec = s.sec := rfl
@[simp] theorem State.setCore_mtr (n : Nat) (v : Core) : (s.setCore n v).mtr = s.mtr := rfl
@[simp] theorem State.modCore_mtr (n : Nat) (f : Core → Core) : (s.modCore n f).mtr = s.mtr := rfl
@[simp] theorem State.setCore_pins (n : Nat) (v : Core) : (s.setCore n v).pins = s.pins := rfl
@[simp] theorem State.modCore_pins (n : Nat) (f : Core → Core) : (s.modCore n f).pins = s.pins := rfl
@[simp] theorem State.setCore_mem (n : Nat) (v : Core) : (s.setCore n v).mem = s.mem := rfl
@[simp] theorem State.modCore_mem (n : Nat) (f : Core → Core) : (s.modCore n f).mem = s.mem := rfl
@[simp] theorem State.setCore_poison (n : Nat) (v : Core) : (s.setCore n v).poison = s.poison := rfl
@[simp] theorem State.modCore_poison (n : Nat) (f : Core → Core) : (s.modCore n f).poison = s.poison := rfl
@[simp] theorem State.setCore_flips (n : Nat) (v : Core) : (s.setCore n v).flips = s.flips := rfl
@[simp] theorem State.modCore_flips (n : Nat) (f : Core → Core) : (s.modCore n f).flips = s.flips := rfl
@[simp] theorem State.setCore_undef (n : Nat) (v : Core) : (s.setCore n v).undef = s.undef := rfl
@[simp] theorem State.modCore_undef (n : Nat) (f : Core → Core) : (s.modCore n f).undef = s.undef := rfl
@[simp] theorem State.setCore_resp (n : Nat) (v : Core) : (s.setCore n v).resp = s.resp := rfl
@[simp] theorem State.modCore_resp (n : Nat) (f : Core → Core) : (s.modCore n f).resp = s.resp := rfl
@[simp] theorem State.setCore_fresh (n : Nat) (v : Core) : (s.setCore n v).fresh = s.fresh := rfl
@[simp] theorem State.modCore_fresh (n : Nat) (f : Core → Core) : (s.modCore n f).fresh = s.fresh := rfl
@[simp] theorem State.setCore_pending (n : Nat) (v : Core) : (s.setCore n v).pending = s.pending := rfl
@[simp] theorem State.modCore_pending (n : Nat) (f : Core → Core) : (s.modCore n f).pending = s.pending := rfl
theorem State.getCore_setCore (n m : Nat) (v : Core) : (s.setCore n v).getCore m = if m = n then v else s.getCore m :=
  tget_tset ..
@[simp] theorem State.getCore_setCore_same (n : Nat) (v : Core) : (s.setCore n v).getCore n = v := tget_tset_same ..
@[simp] theorem State.getCore_modCore_same (n : Nat) (f : Core → Core) : (s.modCore n f).getCore n = f (s.getCore n) :=
  tget_tset_same ..
theorem State.getCore_setCore_ne {n m : Nat} (v : Core) (h : m ≠ n) : (s.setCore n v).getCore m = s.getCore m := tget_tset_ne _ _ _ h
theorem State.getCore_modCore (n m : Nat) (f : Core → Core) :
    (s.modCore n f).getCore m = if m = n then f (s.getCore n) else s.getCore m := tget_tset ..

@[simp] theorem State.getRtr_setCore (n m : Nat) (v : Core) : (s.setCore n v).getRtr m = s.getRtr m := rfl
@[simp] theorem State.getRtr_modCore (n m : Nat) (f : Core → Core) : (s.modCore n f).getRtr m = s.getRtr m := rfl
@[simp] theorem State.getQuad_setCore (n m : Nat) (v : Core) : (s.setCore n v).getQuad m = s.getQuad m := rfl
@[simp] theorem State.getQuad_modCore (n m : Nat) (f : Core → Core) : (s.modCore n f).getQuad m = s.getQuad m := rfl
@[simp] theorem State.getTile_setCore (n m : Nat) (v : Core) : (s.setCore n v).getTile m = s.getTile m := rfl
@[simp] theorem State.getTile_modCore (n m : Nat) (f : Core → Core) : (s.modCore n f).getTile m = s.getTile m := rfl
@[simp] theorem State.getStack_setCore (n m : Nat) (v : Core) : (s.setCore n v).getStack m = s.getStack m := rfl
@[simp] theorem State.getStack_modCore (n m : Nat) (f : Core → Core) : (s.modCore n f).getStack m = s.getStack m := rfl
@[simp] theorem State.getPort_setCore (n m : Nat) (v : Core) : (s.setCore n v).getPort m = s.getPort m := rfl
@[simp] theorem State.getPort_modCore (n m : Nat) (f : Core → Core) : (s.modCore n f).getPort m = s.getPort m := rfl
@[simp] theorem State.getRing_setCore (n m : Nat) (v : Core) : (s.setCore n v).getRing m = s.getRing m := rfl
@[simp] theorem State.getRing_modCore (n m : Nat) (f : Core → Core) : (s.modCore n f).getRing m = s.getRing m := rfl
@[simp] theorem State.getSite_setCore (n m : Nat) (v : Core) : (s.setCore n v).getSite m = s.getSite m := rfl
@[simp] theorem State.getSite_modCore (n m : Nat) (f : Core → Core) : (s.modCore n f).getSite m = s.getSite m := rfl

/-! ### setRtr -/

theorem State.modRtr_eq (n : Nat) (f : Router → Router) : s.modRtr n f = s.setRtr n (f (s.getRtr n)) := rfl
@[simp] theorem State.setRtr_pmc (n : Nat) (v : Router) : (s.setRtr n v).pmc = s.pmc := rfl
@[simp] theorem State.modRtr_pmc (n : Nat) (f : Router → Router) : (s.modRtr n f).pmc = s.pmc := rfl
@[simp] theorem State.setRtr_core (n : Nat) (v : Router) : (s.setRtr n v).core = s.core := rfl
@[simp] theorem State.modRtr_core (n : Nat) (f : Router → Router) : (s.modRtr n f).core = s.core := rfl
@[simp] theorem State.setRtr_quad (n : Nat) (v : Router) : (s.setRtr n v).quad = s.quad := rfl
@[simp] theorem State.modRtr_quad (n : Nat) (f : Router → Router) : (s.modRtr n f).quad = s.quad := rfl
@[simp] theorem State.setRtr_tile (n : Nat) (v : Router) : (s.setRtr n v).tile = s.tile := rfl
@[simp] theorem State.modRtr_tile (n : Nat) (f : Router → Router) : (s.modRtr n f).tile = s.tile := rfl
@[simp] theorem State.setRtr_stack (n : Nat) (v : Router) : (s.setRtr n v).stack = s.stack := rfl
@[simp] theorem State.modRtr_stack (n : Nat) (f : Router → Router) : (s.modRtr n f).stack = s.stack := rfl
@[simp] theorem State.setRtr_port (n : Nat) (v : Router) : (s.setRtr n v).port = s.port := rfl
@[simp] theorem State.modRtr_port (n : Nat) (f : Router → Router) : (s.modRtr n f).port = s.port := rfl
@[simp] theorem State.setRtr_ring (n : Nat) (v : Router) : (s.setRtr n v).ring = s.ring := rfl
@[simp] theorem State.modRtr_ring (n : Nat) (f : Router → Router) : (s.modRtr n f).ring = s.ring := rfl
@[simp] theorem State.setRtr_fab (n : Nat) (v : Router) : (s.setRtr n v).fab = s.fab := rfl
@[simp] theorem State.modRtr_fab (n : Nat) (f : Router → Router) : (s.modRtr n f).fab = s.fab := rfl
@[simp] theorem State.setRtr_site (n : Nat) (v : Router) : (s.setRtr n v).site = s.site := rfl
@[simp] theorem State.modRtr_site (n : Nat) (f : Router → Router) : (s.modRtr n f).site = s.site := rfl
@[simp] theorem State.setRtr_mesh (n : Nat) (v : Router) : (s.setRtr n v).mesh = s.mesh := rfl
@[simp] theorem State.modRtr_mesh (n : Nat) (f : Router → Router) : (s.modRtr n f).mesh = s.mesh := rfl
@[simp] theorem State.setRtr_pwr (n : Nat) (v : Router) : (s.setRtr n v).pwr = s.pwr := rfl
@[simp] theorem State.modRtr_pwr (n : Nat) (f : Router → Router) : (s.modRtr n f).pwr = s.pwr := rfl
@[simp] theorem State.setRtr_clk (n : Nat) (v : Router) : (s.setRtr n v).clk = s.clk := rfl
@[simp] theorem State.modRtr_clk (n : Nat) (f : Router → Router) : (s.modRtr n f).clk = s.clk := rfl
@[simp] theorem State.setRtr_thm (n : Nat) (v : Router) : (s.setRtr n v).thm = s.thm := rfl
@[simp] theorem State.modRtr_thm (n : Nat) (f : Router → Router) : (s.modRtr n f).thm = s.thm := rfl
@[simp] theorem State.setRtr_hlt (n : Nat) (v : Router) : (s.setRtr n v).hlt = s.hlt := rfl
@[simp] theorem State.modRtr_hlt (n : Nat) (f : Router → Router) : (s.modRtr n f).hlt = s.hlt := rfl
@[simp] theorem State.setRtr_boot (n : Nat) (v : Router) : (s.setRtr n v).boot = s.boot := rfl
@[simp] theorem State.modRtr_boot (n : Nat) (f : Router → Router) : (s.modRtr n f).boot = s.boot := rfl
@[simp] theorem State.setRtr_sec (n : Nat) (v : Router) : (s.setRtr n v).sec = s.sec := rfl
@[simp] theorem State.modRtr_sec (n : Nat) (f : Router → Router) : (s.modRtr n f).sec = s.sec := rfl
@[simp] theorem State.setRtr_mtr (n : Nat) (v : Router) : (s.setRtr n v).mtr = s.mtr := rfl
@[simp] theorem State.modRtr_mtr (n : Nat) (f : Router → Router) : (s.modRtr n f).mtr = s.mtr := rfl
@[simp] theorem State.setRtr_pins (n : Nat) (v : Router) : (s.setRtr n v).pins = s.pins := rfl
@[simp] theorem State.modRtr_pins (n : Nat) (f : Router → Router) : (s.modRtr n f).pins = s.pins := rfl
@[simp] theorem State.setRtr_mem (n : Nat) (v : Router) : (s.setRtr n v).mem = s.mem := rfl
@[simp] theorem State.modRtr_mem (n : Nat) (f : Router → Router) : (s.modRtr n f).mem = s.mem := rfl
@[simp] theorem State.setRtr_poison (n : Nat) (v : Router) : (s.setRtr n v).poison = s.poison := rfl
@[simp] theorem State.modRtr_poison (n : Nat) (f : Router → Router) : (s.modRtr n f).poison = s.poison := rfl
@[simp] theorem State.setRtr_flips (n : Nat) (v : Router) : (s.setRtr n v).flips = s.flips := rfl
@[simp] theorem State.modRtr_flips (n : Nat) (f : Router → Router) : (s.modRtr n f).flips = s.flips := rfl
@[simp] theorem State.setRtr_undef (n : Nat) (v : Router) : (s.setRtr n v).undef = s.undef := rfl
@[simp] theorem State.modRtr_undef (n : Nat) (f : Router → Router) : (s.modRtr n f).undef = s.undef := rfl
@[simp] theorem State.setRtr_resp (n : Nat) (v : Router) : (s.setRtr n v).resp = s.resp := rfl
@[simp] theorem State.modRtr_resp (n : Nat) (f : Router → Router) : (s.modRtr n f).resp = s.resp := rfl
@[simp] theorem State.setRtr_fresh (n : Nat) (v : Router) : (s.setRtr n v).fresh = s.fresh := rfl
@[simp] theorem State.modRtr_fresh (n : Nat) (f : Router → Router) : (s.modRtr n f).fresh = s.fresh := rfl
@[simp] theorem State.setRtr_pending (n : Nat) (v : Router) : (s.setRtr n v).pending = s.pending := rfl
@[simp] theorem State.modRtr_pending (n : Nat) (f : Router → Router) : (s.modRtr n f).pending = s.pending := rfl
theorem State.getRtr_setRtr (n m : Nat) (v : Router) : (s.setRtr n v).getRtr m = if m = n then v else s.getRtr m :=
  tget_tset ..
@[simp] theorem State.getRtr_setRtr_same (n : Nat) (v : Router) : (s.setRtr n v).getRtr n = v := tget_tset_same ..
@[simp] theorem State.getRtr_modRtr_same (n : Nat) (f : Router → Router) : (s.modRtr n f).getRtr n = f (s.getRtr n) :=
  tget_tset_same ..
theorem State.getRtr_setRtr_ne {n m : Nat} (v : Router) (h : m ≠ n) : (s.setRtr n v).getRtr m = s.getRtr m := tget_tset_ne _ _ _ h
theorem State.getRtr_modRtr (n m : Nat) (f : Router → Router) :
    (s.modRtr n f).getRtr m = if m = n then f (s.getRtr n) else s.getRtr m := tget_tset ..

@[simp] theorem State.getCore_setRtr (n m : Nat) (v : Router) : (s.setRtr n v).getCore m = s.getCore m := rfl
@[simp] theorem State.getCore_modRtr (n m : Nat) (f : Router → Router) : (s.modRtr n f).getCore m = s.getCore m := rfl
@[simp] theorem State.getQuad_setRtr (n m : Nat) (v : Router) : (s.setRtr n v).getQuad m = s.getQuad m := rfl
@[simp] theorem State.getQuad_modRtr (n m : Nat) (f : Router → Router) : (s.modRtr n f).getQuad m = s.getQuad m := rfl
@[simp] theorem State.getTile_setRtr (n m : Nat) (v : Router) : (s.setRtr n v).getTile m = s.getTile m := rfl
@[simp] theorem State.getTile_modRtr (n m : Nat) (f : Router → Router) : (s.modRtr n f).getTile m = s.getTile m := rfl
@[simp] theorem State.getStack_setRtr (n m : Nat) (v : Router) : (s.setRtr n v).getStack m = s.getStack m := rfl
@[simp] theorem State.getStack_modRtr (n m : Nat) (f : Router → Router) : (s.modRtr n f).getStack m = s.getStack m := rfl
@[simp] theorem State.getPort_setRtr (n m : Nat) (v : Router) : (s.setRtr n v).getPort m = s.getPort m := rfl
@[simp] theorem State.getPort_modRtr (n m : Nat) (f : Router → Router) : (s.modRtr n f).getPort m = s.getPort m := rfl
@[simp] theorem State.getRing_setRtr (n m : Nat) (v : Router) : (s.setRtr n v).getRing m = s.getRing m := rfl
@[simp] theorem State.getRing_modRtr (n m : Nat) (f : Router → Router) : (s.modRtr n f).getRing m = s.getRing m := rfl
@[simp] theorem State.getSite_setRtr (n m : Nat) (v : Router) : (s.setRtr n v).getSite m = s.getSite m := rfl
@[simp] theorem State.getSite_modRtr (n m : Nat) (f : Router → Router) : (s.modRtr n f).getSite m = s.getSite m := rfl

/-! ### setQuad -/

theorem State.modQuad_eq (n : Nat) (f : Quad → Quad) : s.modQuad n f = s.setQuad n (f (s.getQuad n)) := rfl
@[simp] theorem State.setQuad_pmc (n : Nat) (v : Quad) : (s.setQuad n v).pmc = s.pmc := rfl
@[simp] theorem State.modQuad_pmc (n : Nat) (f : Quad → Quad) : (s.modQuad n f).pmc = s.pmc := rfl
@[simp] theorem State.setQuad_core (n : Nat) (v : Quad) : (s.setQuad n v).core = s.core := rfl
@[simp] theorem State.modQuad_core (n : Nat) (f : Quad → Quad) : (s.modQuad n f).core = s.core := rfl
@[simp] theorem State.setQuad_rtr (n : Nat) (v : Quad) : (s.setQuad n v).rtr = s.rtr := rfl
@[simp] theorem State.modQuad_rtr (n : Nat) (f : Quad → Quad) : (s.modQuad n f).rtr = s.rtr := rfl
@[simp] theorem State.setQuad_tile (n : Nat) (v : Quad) : (s.setQuad n v).tile = s.tile := rfl
@[simp] theorem State.modQuad_tile (n : Nat) (f : Quad → Quad) : (s.modQuad n f).tile = s.tile := rfl
@[simp] theorem State.setQuad_stack (n : Nat) (v : Quad) : (s.setQuad n v).stack = s.stack := rfl
@[simp] theorem State.modQuad_stack (n : Nat) (f : Quad → Quad) : (s.modQuad n f).stack = s.stack := rfl
@[simp] theorem State.setQuad_port (n : Nat) (v : Quad) : (s.setQuad n v).port = s.port := rfl
@[simp] theorem State.modQuad_port (n : Nat) (f : Quad → Quad) : (s.modQuad n f).port = s.port := rfl
@[simp] theorem State.setQuad_ring (n : Nat) (v : Quad) : (s.setQuad n v).ring = s.ring := rfl
@[simp] theorem State.modQuad_ring (n : Nat) (f : Quad → Quad) : (s.modQuad n f).ring = s.ring := rfl
@[simp] theorem State.setQuad_fab (n : Nat) (v : Quad) : (s.setQuad n v).fab = s.fab := rfl
@[simp] theorem State.modQuad_fab (n : Nat) (f : Quad → Quad) : (s.modQuad n f).fab = s.fab := rfl
@[simp] theorem State.setQuad_site (n : Nat) (v : Quad) : (s.setQuad n v).site = s.site := rfl
@[simp] theorem State.modQuad_site (n : Nat) (f : Quad → Quad) : (s.modQuad n f).site = s.site := rfl
@[simp] theorem State.setQuad_mesh (n : Nat) (v : Quad) : (s.setQuad n v).mesh = s.mesh := rfl
@[simp] theorem State.modQuad_mesh (n : Nat) (f : Quad → Quad) : (s.modQuad n f).mesh = s.mesh := rfl
@[simp] theorem State.setQuad_pwr (n : Nat) (v : Quad) : (s.setQuad n v).pwr = s.pwr := rfl
@[simp] theorem State.modQuad_pwr (n : Nat) (f : Quad → Quad) : (s.modQuad n f).pwr = s.pwr := rfl
@[simp] theorem State.setQuad_clk (n : Nat) (v : Quad) : (s.setQuad n v).clk = s.clk := rfl
@[simp] theorem State.modQuad_clk (n : Nat) (f : Quad → Quad) : (s.modQuad n f).clk = s.clk := rfl
@[simp] theorem State.setQuad_thm (n : Nat) (v : Quad) : (s.setQuad n v).thm = s.thm := rfl
@[simp] theorem State.modQuad_thm (n : Nat) (f : Quad → Quad) : (s.modQuad n f).thm = s.thm := rfl
@[simp] theorem State.setQuad_hlt (n : Nat) (v : Quad) : (s.setQuad n v).hlt = s.hlt := rfl
@[simp] theorem State.modQuad_hlt (n : Nat) (f : Quad → Quad) : (s.modQuad n f).hlt = s.hlt := rfl
@[simp] theorem State.setQuad_boot (n : Nat) (v : Quad) : (s.setQuad n v).boot = s.boot := rfl
@[simp] theorem State.modQuad_boot (n : Nat) (f : Quad → Quad) : (s.modQuad n f).boot = s.boot := rfl
@[simp] theorem State.setQuad_sec (n : Nat) (v : Quad) : (s.setQuad n v).sec = s.sec := rfl
@[simp] theorem State.modQuad_sec (n : Nat) (f : Quad → Quad) : (s.modQuad n f).sec = s.sec := rfl
@[simp] theorem State.setQuad_mtr (n : Nat) (v : Quad) : (s.setQuad n v).mtr = s.mtr := rfl
@[simp] theorem State.modQuad_mtr (n : Nat) (f : Quad → Quad) : (s.modQuad n f).mtr = s.mtr := rfl
@[simp] theorem State.setQuad_pins (n : Nat) (v : Quad) : (s.setQuad n v).pins = s.pins := rfl
@[simp] theorem State.modQuad_pins (n : Nat) (f : Quad → Quad) : (s.modQuad n f).pins = s.pins := rfl
@[simp] theorem State.setQuad_mem (n : Nat) (v : Quad) : (s.setQuad n v).mem = s.mem := rfl
@[simp] theorem State.modQuad_mem (n : Nat) (f : Quad → Quad) : (s.modQuad n f).mem = s.mem := rfl
@[simp] theorem State.setQuad_poison (n : Nat) (v : Quad) : (s.setQuad n v).poison = s.poison := rfl
@[simp] theorem State.modQuad_poison (n : Nat) (f : Quad → Quad) : (s.modQuad n f).poison = s.poison := rfl
@[simp] theorem State.setQuad_flips (n : Nat) (v : Quad) : (s.setQuad n v).flips = s.flips := rfl
@[simp] theorem State.modQuad_flips (n : Nat) (f : Quad → Quad) : (s.modQuad n f).flips = s.flips := rfl
@[simp] theorem State.setQuad_undef (n : Nat) (v : Quad) : (s.setQuad n v).undef = s.undef := rfl
@[simp] theorem State.modQuad_undef (n : Nat) (f : Quad → Quad) : (s.modQuad n f).undef = s.undef := rfl
@[simp] theorem State.setQuad_resp (n : Nat) (v : Quad) : (s.setQuad n v).resp = s.resp := rfl
@[simp] theorem State.modQuad_resp (n : Nat) (f : Quad → Quad) : (s.modQuad n f).resp = s.resp := rfl
@[simp] theorem State.setQuad_fresh (n : Nat) (v : Quad) : (s.setQuad n v).fresh = s.fresh := rfl
@[simp] theorem State.modQuad_fresh (n : Nat) (f : Quad → Quad) : (s.modQuad n f).fresh = s.fresh := rfl
@[simp] theorem State.setQuad_pending (n : Nat) (v : Quad) : (s.setQuad n v).pending = s.pending := rfl
@[simp] theorem State.modQuad_pending (n : Nat) (f : Quad → Quad) : (s.modQuad n f).pending = s.pending := rfl
theorem State.getQuad_setQuad (n m : Nat) (v : Quad) : (s.setQuad n v).getQuad m = if m = n then v else s.getQuad m :=
  tget_tset ..
@[simp] theorem State.getQuad_setQuad_same (n : Nat) (v : Quad) : (s.setQuad n v).getQuad n = v := tget_tset_same ..
@[simp] theorem State.getQuad_modQuad_same (n : Nat) (f : Quad → Quad) : (s.modQuad n f).getQuad n = f (s.getQuad n) :=
  tget_tset_same ..
theorem State.getQuad_setQuad_ne {n m : Nat} (v : Quad) (h : m ≠ n) : (s.setQuad n v).getQuad m = s.getQuad m := tget_tset_ne _ _ _ h
theorem State.getQuad_modQuad (n m : Nat) (f : Quad → Quad) :
    (s.modQuad n f).getQuad m = if m = n then f (s.getQuad n) else s.getQuad m := tget_tset ..

@[simp] theorem State.getCore_setQuad (n m : Nat) (v : Quad) : (s.setQuad n v).getCore m = s.getCore m := rfl
@[simp] theorem State.getCore_modQuad (n m : Nat) (f : Quad → Quad) : (s.modQuad n f).getCore m = s.getCore m := rfl
@[simp] theorem State.getRtr_setQuad (n m : Nat) (v : Quad) : (s.setQuad n v).getRtr m = s.getRtr m := rfl
@[simp] theorem State.getRtr_modQuad (n m : Nat) (f : Quad → Quad) : (s.modQuad n f).getRtr m = s.getRtr m := rfl
@[simp] theorem State.getTile_setQuad (n m : Nat) (v : Quad) : (s.setQuad n v).getTile m = s.getTile m := rfl
@[simp] theorem State.getTile_modQuad (n m : Nat) (f : Quad → Quad) : (s.modQuad n f).getTile m = s.getTile m := rfl
@[simp] theorem State.getStack_setQuad (n m : Nat) (v : Quad) : (s.setQuad n v).getStack m = s.getStack m := rfl
@[simp] theorem State.getStack_modQuad (n m : Nat) (f : Quad → Quad) : (s.modQuad n f).getStack m = s.getStack m := rfl
@[simp] theorem State.getPort_setQuad (n m : Nat) (v : Quad) : (s.setQuad n v).getPort m = s.getPort m := rfl
@[simp] theorem State.getPort_modQuad (n m : Nat) (f : Quad → Quad) : (s.modQuad n f).getPort m = s.getPort m := rfl
@[simp] theorem State.getRing_setQuad (n m : Nat) (v : Quad) : (s.setQuad n v).getRing m = s.getRing m := rfl
@[simp] theorem State.getRing_modQuad (n m : Nat) (f : Quad → Quad) : (s.modQuad n f).getRing m = s.getRing m := rfl
@[simp] theorem State.getSite_setQuad (n m : Nat) (v : Quad) : (s.setQuad n v).getSite m = s.getSite m := rfl
@[simp] theorem State.getSite_modQuad (n m : Nat) (f : Quad → Quad) : (s.modQuad n f).getSite m = s.getSite m := rfl

/-! ### setTile -/

theorem State.modTile_eq (n : Nat) (f : Tile → Tile) : s.modTile n f = s.setTile n (f (s.getTile n)) := rfl
@[simp] theorem State.setTile_pmc (n : Nat) (v : Tile) : (s.setTile n v).pmc = s.pmc := rfl
@[simp] theorem State.modTile_pmc (n : Nat) (f : Tile → Tile) : (s.modTile n f).pmc = s.pmc := rfl
@[simp] theorem State.setTile_core (n : Nat) (v : Tile) : (s.setTile n v).core = s.core := rfl
@[simp] theorem State.modTile_core (n : Nat) (f : Tile → Tile) : (s.modTile n f).core = s.core := rfl
@[simp] theorem State.setTile_rtr (n : Nat) (v : Tile) : (s.setTile n v).rtr = s.rtr := rfl
@[simp] theorem State.modTile_rtr (n : Nat) (f : Tile → Tile) : (s.modTile n f).rtr = s.rtr := rfl
@[simp] theorem State.setTile_quad (n : Nat) (v : Tile) : (s.setTile n v).quad = s.quad := rfl
@[simp] theorem State.modTile_quad (n : Nat) (f : Tile → Tile) : (s.modTile n f).quad = s.quad := rfl
@[simp] theorem State.setTile_stack (n : Nat) (v : Tile) : (s.setTile n v).stack = s.stack := rfl
@[simp] theorem State.modTile_stack (n : Nat) (f : Tile → Tile) : (s.modTile n f).stack = s.stack := rfl
@[simp] theorem State.setTile_port (n : Nat) (v : Tile) : (s.setTile n v).port = s.port := rfl
@[simp] theorem State.modTile_port (n : Nat) (f : Tile → Tile) : (s.modTile n f).port = s.port := rfl
@[simp] theorem State.setTile_ring (n : Nat) (v : Tile) : (s.setTile n v).ring = s.ring := rfl
@[simp] theorem State.modTile_ring (n : Nat) (f : Tile → Tile) : (s.modTile n f).ring = s.ring := rfl
@[simp] theorem State.setTile_fab (n : Nat) (v : Tile) : (s.setTile n v).fab = s.fab := rfl
@[simp] theorem State.modTile_fab (n : Nat) (f : Tile → Tile) : (s.modTile n f).fab = s.fab := rfl
@[simp] theorem State.setTile_site (n : Nat) (v : Tile) : (s.setTile n v).site = s.site := rfl
@[simp] theorem State.modTile_site (n : Nat) (f : Tile → Tile) : (s.modTile n f).site = s.site := rfl
@[simp] theorem State.setTile_mesh (n : Nat) (v : Tile) : (s.setTile n v).mesh = s.mesh := rfl
@[simp] theorem State.modTile_mesh (n : Nat) (f : Tile → Tile) : (s.modTile n f).mesh = s.mesh := rfl
@[simp] theorem State.setTile_pwr (n : Nat) (v : Tile) : (s.setTile n v).pwr = s.pwr := rfl
@[simp] theorem State.modTile_pwr (n : Nat) (f : Tile → Tile) : (s.modTile n f).pwr = s.pwr := rfl
@[simp] theorem State.setTile_clk (n : Nat) (v : Tile) : (s.setTile n v).clk = s.clk := rfl
@[simp] theorem State.modTile_clk (n : Nat) (f : Tile → Tile) : (s.modTile n f).clk = s.clk := rfl
@[simp] theorem State.setTile_thm (n : Nat) (v : Tile) : (s.setTile n v).thm = s.thm := rfl
@[simp] theorem State.modTile_thm (n : Nat) (f : Tile → Tile) : (s.modTile n f).thm = s.thm := rfl
@[simp] theorem State.setTile_hlt (n : Nat) (v : Tile) : (s.setTile n v).hlt = s.hlt := rfl
@[simp] theorem State.modTile_hlt (n : Nat) (f : Tile → Tile) : (s.modTile n f).hlt = s.hlt := rfl
@[simp] theorem State.setTile_boot (n : Nat) (v : Tile) : (s.setTile n v).boot = s.boot := rfl
@[simp] theorem State.modTile_boot (n : Nat) (f : Tile → Tile) : (s.modTile n f).boot = s.boot := rfl
@[simp] theorem State.setTile_sec (n : Nat) (v : Tile) : (s.setTile n v).sec = s.sec := rfl
@[simp] theorem State.modTile_sec (n : Nat) (f : Tile → Tile) : (s.modTile n f).sec = s.sec := rfl
@[simp] theorem State.setTile_mtr (n : Nat) (v : Tile) : (s.setTile n v).mtr = s.mtr := rfl
@[simp] theorem State.modTile_mtr (n : Nat) (f : Tile → Tile) : (s.modTile n f).mtr = s.mtr := rfl
@[simp] theorem State.setTile_pins (n : Nat) (v : Tile) : (s.setTile n v).pins = s.pins := rfl
@[simp] theorem State.modTile_pins (n : Nat) (f : Tile → Tile) : (s.modTile n f).pins = s.pins := rfl
@[simp] theorem State.setTile_mem (n : Nat) (v : Tile) : (s.setTile n v).mem = s.mem := rfl
@[simp] theorem State.modTile_mem (n : Nat) (f : Tile → Tile) : (s.modTile n f).mem = s.mem := rfl
@[simp] theorem State.setTile_poison (n : Nat) (v : Tile) : (s.setTile n v).poison = s.poison := rfl
@[simp] theorem State.modTile_poison (n : Nat) (f : Tile → Tile) : (s.modTile n f).poison = s.poison := rfl
@[simp] theorem State.setTile_flips (n : Nat) (v : Tile) : (s.setTile n v).flips = s.flips := rfl
@[simp] theorem State.modTile_flips (n : Nat) (f : Tile → Tile) : (s.modTile n f).flips = s.flips := rfl
@[simp] theorem State.setTile_undef (n : Nat) (v : Tile) : (s.setTile n v).undef = s.undef := rfl
@[simp] theorem State.modTile_undef (n : Nat) (f : Tile → Tile) : (s.modTile n f).undef = s.undef := rfl
@[simp] theorem State.setTile_resp (n : Nat) (v : Tile) : (s.setTile n v).resp = s.resp := rfl
@[simp] theorem State.modTile_resp (n : Nat) (f : Tile → Tile) : (s.modTile n f).resp = s.resp := rfl
@[simp] theorem State.setTile_fresh (n : Nat) (v : Tile) : (s.setTile n v).fresh = s.fresh := rfl
@[simp] theorem State.modTile_fresh (n : Nat) (f : Tile → Tile) : (s.modTile n f).fresh = s.fresh := rfl
@[simp] theorem State.setTile_pending (n : Nat) (v : Tile) : (s.setTile n v).pending = s.pending := rfl
@[simp] theorem State.modTile_pending (n : Nat) (f : Tile → Tile) : (s.modTile n f).pending = s.pending := rfl
theorem State.getTile_setTile (n m : Nat) (v : Tile) : (s.setTile n v).getTile m = if m = n then v else s.getTile m :=
  tget_tset ..
@[simp] theorem State.getTile_setTile_same (n : Nat) (v : Tile) : (s.setTile n v).getTile n = v := tget_tset_same ..
@[simp] theorem State.getTile_modTile_same (n : Nat) (f : Tile → Tile) : (s.modTile n f).getTile n = f (s.getTile n) :=
  tget_tset_same ..
theorem State.getTile_setTile_ne {n m : Nat} (v : Tile) (h : m ≠ n) : (s.setTile n v).getTile m = s.getTile m := tget_tset_ne _ _ _ h
theorem State.getTile_modTile (n m : Nat) (f : Tile → Tile) :
    (s.modTile n f).getTile m = if m = n then f (s.getTile n) else s.getTile m := tget_tset ..

@[simp] theorem State.getCore_setTile (n m : Nat) (v : Tile) : (s.setTile n v).getCore m = s.getCore m := rfl
@[simp] theorem State.getCore_modTile (n m : Nat) (f : Tile → Tile) : (s.modTile n f).getCore m = s.getCore m := rfl
@[simp] theorem State.getRtr_setTile (n m : Nat) (v : Tile) : (s.setTile n v).getRtr m = s.getRtr m := rfl
@[simp] theorem State.getRtr_modTile (n m : Nat) (f : Tile → Tile) : (s.modTile n f).getRtr m = s.getRtr m := rfl
@[simp] theorem State.getQuad_setTile (n m : Nat) (v : Tile) : (s.setTile n v).getQuad m = s.getQuad m := rfl
@[simp] theorem State.getQuad_modTile (n m : Nat) (f : Tile → Tile) : (s.modTile n f).getQuad m = s.getQuad m := rfl
@[simp] theorem State.getStack_setTile (n m : Nat) (v : Tile) : (s.setTile n v).getStack m = s.getStack m := rfl
@[simp] theorem State.getStack_modTile (n m : Nat) (f : Tile → Tile) : (s.modTile n f).getStack m = s.getStack m := rfl
@[simp] theorem State.getPort_setTile (n m : Nat) (v : Tile) : (s.setTile n v).getPort m = s.getPort m := rfl
@[simp] theorem State.getPort_modTile (n m : Nat) (f : Tile → Tile) : (s.modTile n f).getPort m = s.getPort m := rfl
@[simp] theorem State.getRing_setTile (n m : Nat) (v : Tile) : (s.setTile n v).getRing m = s.getRing m := rfl
@[simp] theorem State.getRing_modTile (n m : Nat) (f : Tile → Tile) : (s.modTile n f).getRing m = s.getRing m := rfl
@[simp] theorem State.getSite_setTile (n m : Nat) (v : Tile) : (s.setTile n v).getSite m = s.getSite m := rfl
@[simp] theorem State.getSite_modTile (n m : Nat) (f : Tile → Tile) : (s.modTile n f).getSite m = s.getSite m := rfl

/-! ### setStack -/

theorem State.modStack_eq (n : Nat) (f : Stack → Stack) : s.modStack n f = s.setStack n (f (s.getStack n)) := rfl
@[simp] theorem State.setStack_pmc (n : Nat) (v : Stack) : (s.setStack n v).pmc = s.pmc := rfl
@[simp] theorem State.modStack_pmc (n : Nat) (f : Stack → Stack) : (s.modStack n f).pmc = s.pmc := rfl
@[simp] theorem State.setStack_core (n : Nat) (v : Stack) : (s.setStack n v).core = s.core := rfl
@[simp] theorem State.modStack_core (n : Nat) (f : Stack → Stack) : (s.modStack n f).core = s.core := rfl
@[simp] theorem State.setStack_rtr (n : Nat) (v : Stack) : (s.setStack n v).rtr = s.rtr := rfl
@[simp] theorem State.modStack_rtr (n : Nat) (f : Stack → Stack) : (s.modStack n f).rtr = s.rtr := rfl
@[simp] theorem State.setStack_quad (n : Nat) (v : Stack) : (s.setStack n v).quad = s.quad := rfl
@[simp] theorem State.modStack_quad (n : Nat) (f : Stack → Stack) : (s.modStack n f).quad = s.quad := rfl
@[simp] theorem State.setStack_tile (n : Nat) (v : Stack) : (s.setStack n v).tile = s.tile := rfl
@[simp] theorem State.modStack_tile (n : Nat) (f : Stack → Stack) : (s.modStack n f).tile = s.tile := rfl
@[simp] theorem State.setStack_port (n : Nat) (v : Stack) : (s.setStack n v).port = s.port := rfl
@[simp] theorem State.modStack_port (n : Nat) (f : Stack → Stack) : (s.modStack n f).port = s.port := rfl
@[simp] theorem State.setStack_ring (n : Nat) (v : Stack) : (s.setStack n v).ring = s.ring := rfl
@[simp] theorem State.modStack_ring (n : Nat) (f : Stack → Stack) : (s.modStack n f).ring = s.ring := rfl
@[simp] theorem State.setStack_fab (n : Nat) (v : Stack) : (s.setStack n v).fab = s.fab := rfl
@[simp] theorem State.modStack_fab (n : Nat) (f : Stack → Stack) : (s.modStack n f).fab = s.fab := rfl
@[simp] theorem State.setStack_site (n : Nat) (v : Stack) : (s.setStack n v).site = s.site := rfl
@[simp] theorem State.modStack_site (n : Nat) (f : Stack → Stack) : (s.modStack n f).site = s.site := rfl
@[simp] theorem State.setStack_mesh (n : Nat) (v : Stack) : (s.setStack n v).mesh = s.mesh := rfl
@[simp] theorem State.modStack_mesh (n : Nat) (f : Stack → Stack) : (s.modStack n f).mesh = s.mesh := rfl
@[simp] theorem State.setStack_pwr (n : Nat) (v : Stack) : (s.setStack n v).pwr = s.pwr := rfl
@[simp] theorem State.modStack_pwr (n : Nat) (f : Stack → Stack) : (s.modStack n f).pwr = s.pwr := rfl
@[simp] theorem State.setStack_clk (n : Nat) (v : Stack) : (s.setStack n v).clk = s.clk := rfl
@[simp] theorem State.modStack_clk (n : Nat) (f : Stack → Stack) : (s.modStack n f).clk = s.clk := rfl
@[simp] theorem State.setStack_thm (n : Nat) (v : Stack) : (s.setStack n v).thm = s.thm := rfl
@[simp] theorem State.modStack_thm (n : Nat) (f : Stack → Stack) : (s.modStack n f).thm = s.thm := rfl
@[simp] theorem State.setStack_hlt (n : Nat) (v : Stack) : (s.setStack n v).hlt = s.hlt := rfl
@[simp] theorem State.modStack_hlt (n : Nat) (f : Stack → Stack) : (s.modStack n f).hlt = s.hlt := rfl
@[simp] theorem State.setStack_boot (n : Nat) (v : Stack) : (s.setStack n v).boot = s.boot := rfl
@[simp] theorem State.modStack_boot (n : Nat) (f : Stack → Stack) : (s.modStack n f).boot = s.boot := rfl
@[simp] theorem State.setStack_sec (n : Nat) (v : Stack) : (s.setStack n v).sec = s.sec := rfl
@[simp] theorem State.modStack_sec (n : Nat) (f : Stack → Stack) : (s.modStack n f).sec = s.sec := rfl
@[simp] theorem State.setStack_mtr (n : Nat) (v : Stack) : (s.setStack n v).mtr = s.mtr := rfl
@[simp] theorem State.modStack_mtr (n : Nat) (f : Stack → Stack) : (s.modStack n f).mtr = s.mtr := rfl
@[simp] theorem State.setStack_pins (n : Nat) (v : Stack) : (s.setStack n v).pins = s.pins := rfl
@[simp] theorem State.modStack_pins (n : Nat) (f : Stack → Stack) : (s.modStack n f).pins = s.pins := rfl
@[simp] theorem State.setStack_mem (n : Nat) (v : Stack) : (s.setStack n v).mem = s.mem := rfl
@[simp] theorem State.modStack_mem (n : Nat) (f : Stack → Stack) : (s.modStack n f).mem = s.mem := rfl
@[simp] theorem State.setStack_poison (n : Nat) (v : Stack) : (s.setStack n v).poison = s.poison := rfl
@[simp] theorem State.modStack_poison (n : Nat) (f : Stack → Stack) : (s.modStack n f).poison = s.poison := rfl
@[simp] theorem State.setStack_flips (n : Nat) (v : Stack) : (s.setStack n v).flips = s.flips := rfl
@[simp] theorem State.modStack_flips (n : Nat) (f : Stack → Stack) : (s.modStack n f).flips = s.flips := rfl
@[simp] theorem State.setStack_undef (n : Nat) (v : Stack) : (s.setStack n v).undef = s.undef := rfl
@[simp] theorem State.modStack_undef (n : Nat) (f : Stack → Stack) : (s.modStack n f).undef = s.undef := rfl
@[simp] theorem State.setStack_resp (n : Nat) (v : Stack) : (s.setStack n v).resp = s.resp := rfl
@[simp] theorem State.modStack_resp (n : Nat) (f : Stack → Stack) : (s.modStack n f).resp = s.resp := rfl
@[simp] theorem State.setStack_fresh (n : Nat) (v : Stack) : (s.setStack n v).fresh = s.fresh := rfl
@[simp] theorem State.modStack_fresh (n : Nat) (f : Stack → Stack) : (s.modStack n f).fresh = s.fresh := rfl
@[simp] theorem State.setStack_pending (n : Nat) (v : Stack) : (s.setStack n v).pending = s.pending := rfl
@[simp] theorem State.modStack_pending (n : Nat) (f : Stack → Stack) : (s.modStack n f).pending = s.pending := rfl
theorem State.getStack_setStack (n m : Nat) (v : Stack) : (s.setStack n v).getStack m = if m = n then v else s.getStack m :=
  tget_tset ..
@[simp] theorem State.getStack_setStack_same (n : Nat) (v : Stack) : (s.setStack n v).getStack n = v := tget_tset_same ..
@[simp] theorem State.getStack_modStack_same (n : Nat) (f : Stack → Stack) : (s.modStack n f).getStack n = f (s.getStack n) :=
  tget_tset_same ..
theorem State.getStack_setStack_ne {n m : Nat} (v : Stack) (h : m ≠ n) : (s.setStack n v).getStack m = s.getStack m := tget_tset_ne _ _ _ h
theorem State.getStack_modStack (n m : Nat) (f : Stack → Stack) :
    (s.modStack n f).getStack m = if m = n then f (s.getStack n) else s.getStack m := tget_tset ..

@[simp] theorem State.getCore_setStack (n m : Nat) (v : Stack) : (s.setStack n v).getCore m = s.getCore m := rfl
@[simp] theorem State.getCore_modStack (n m : Nat) (f : Stack → Stack) : (s.modStack n f).getCore m = s.getCore m := rfl
@[simp] theorem State.getRtr_setStack (n m : Nat) (v : Stack) : (s.setStack n v).getRtr m = s.getRtr m := rfl
@[simp] theorem State.getRtr_modStack (n m : Nat) (f : Stack → Stack) : (s.modStack n f).getRtr m = s.getRtr m := rfl
@[simp] theorem State.getQuad_setStack (n m : Nat) (v : Stack) : (s.setStack n v).getQuad m = s.getQuad m := rfl
@[simp] theorem State.getQuad_modStack (n m : Nat) (f : Stack → Stack) : (s.modStack n f).getQuad m = s.getQuad m := rfl
@[simp] theorem State.getTile_setStack (n m : Nat) (v : Stack) : (s.setStack n v).getTile m = s.getTile m := rfl
@[simp] theorem State.getTile_modStack (n m : Nat) (f : Stack → Stack) : (s.modStack n f).getTile m = s.getTile m := rfl
@[simp] theorem State.getPort_setStack (n m : Nat) (v : Stack) : (s.setStack n v).getPort m = s.getPort m := rfl
@[simp] theorem State.getPort_modStack (n m : Nat) (f : Stack → Stack) : (s.modStack n f).getPort m = s.getPort m := rfl
@[simp] theorem State.getRing_setStack (n m : Nat) (v : Stack) : (s.setStack n v).getRing m = s.getRing m := rfl
@[simp] theorem State.getRing_modStack (n m : Nat) (f : Stack → Stack) : (s.modStack n f).getRing m = s.getRing m := rfl
@[simp] theorem State.getSite_setStack (n m : Nat) (v : Stack) : (s.setStack n v).getSite m = s.getSite m := rfl
@[simp] theorem State.getSite_modStack (n m : Nat) (f : Stack → Stack) : (s.modStack n f).getSite m = s.getSite m := rfl

/-! ### setPort -/

theorem State.modPort_eq (n : Nat) (f : Port → Port) : s.modPort n f = s.setPort n (f (s.getPort n)) := rfl
@[simp] theorem State.setPort_pmc (n : Nat) (v : Port) : (s.setPort n v).pmc = s.pmc := rfl
@[simp] theorem State.modPort_pmc (n : Nat) (f : Port → Port) : (s.modPort n f).pmc = s.pmc := rfl
@[simp] theorem State.setPort_core (n : Nat) (v : Port) : (s.setPort n v).core = s.core := rfl
@[simp] theorem State.modPort_core (n : Nat) (f : Port → Port) : (s.modPort n f).core = s.core := rfl
@[simp] theorem State.setPort_rtr (n : Nat) (v : Port) : (s.setPort n v).rtr = s.rtr := rfl
@[simp] theorem State.modPort_rtr (n : Nat) (f : Port → Port) : (s.modPort n f).rtr = s.rtr := rfl
@[simp] theorem State.setPort_quad (n : Nat) (v : Port) : (s.setPort n v).quad = s.quad := rfl
@[simp] theorem State.modPort_quad (n : Nat) (f : Port → Port) : (s.modPort n f).quad = s.quad := rfl
@[simp] theorem State.setPort_tile (n : Nat) (v : Port) : (s.setPort n v).tile = s.tile := rfl
@[simp] theorem State.modPort_tile (n : Nat) (f : Port → Port) : (s.modPort n f).tile = s.tile := rfl
@[simp] theorem State.setPort_stack (n : Nat) (v : Port) : (s.setPort n v).stack = s.stack := rfl
@[simp] theorem State.modPort_stack (n : Nat) (f : Port → Port) : (s.modPort n f).stack = s.stack := rfl
@[simp] theorem State.setPort_ring (n : Nat) (v : Port) : (s.setPort n v).ring = s.ring := rfl
@[simp] theorem State.modPort_ring (n : Nat) (f : Port → Port) : (s.modPort n f).ring = s.ring := rfl
@[simp] theorem State.setPort_fab (n : Nat) (v : Port) : (s.setPort n v).fab = s.fab := rfl
@[simp] theorem State.modPort_fab (n : Nat) (f : Port → Port) : (s.modPort n f).fab = s.fab := rfl
@[simp] theorem State.setPort_site (n : Nat) (v : Port) : (s.setPort n v).site = s.site := rfl
@[simp] theorem State.modPort_site (n : Nat) (f : Port → Port) : (s.modPort n f).site = s.site := rfl
@[simp] theorem State.setPort_mesh (n : Nat) (v : Port) : (s.setPort n v).mesh = s.mesh := rfl
@[simp] theorem State.modPort_mesh (n : Nat) (f : Port → Port) : (s.modPort n f).mesh = s.mesh := rfl
@[simp] theorem State.setPort_pwr (n : Nat) (v : Port) : (s.setPort n v).pwr = s.pwr := rfl
@[simp] theorem State.modPort_pwr (n : Nat) (f : Port → Port) : (s.modPort n f).pwr = s.pwr := rfl
@[simp] theorem State.setPort_clk (n : Nat) (v : Port) : (s.setPort n v).clk = s.clk := rfl
@[simp] theorem State.modPort_clk (n : Nat) (f : Port → Port) : (s.modPort n f).clk = s.clk := rfl
@[simp] theorem State.setPort_thm (n : Nat) (v : Port) : (s.setPort n v).thm = s.thm := rfl
@[simp] theorem State.modPort_thm (n : Nat) (f : Port → Port) : (s.modPort n f).thm = s.thm := rfl
@[simp] theorem State.setPort_hlt (n : Nat) (v : Port) : (s.setPort n v).hlt = s.hlt := rfl
@[simp] theorem State.modPort_hlt (n : Nat) (f : Port → Port) : (s.modPort n f).hlt = s.hlt := rfl
@[simp] theorem State.setPort_boot (n : Nat) (v : Port) : (s.setPort n v).boot = s.boot := rfl
@[simp] theorem State.modPort_boot (n : Nat) (f : Port → Port) : (s.modPort n f).boot = s.boot := rfl
@[simp] theorem State.setPort_sec (n : Nat) (v : Port) : (s.setPort n v).sec = s.sec := rfl
@[simp] theorem State.modPort_sec (n : Nat) (f : Port → Port) : (s.modPort n f).sec = s.sec := rfl
@[simp] theorem State.setPort_mtr (n : Nat) (v : Port) : (s.setPort n v).mtr = s.mtr := rfl
@[simp] theorem State.modPort_mtr (n : Nat) (f : Port → Port) : (s.modPort n f).mtr = s.mtr := rfl
@[simp] theorem State.setPort_pins (n : Nat) (v : Port) : (s.setPort n v).pins = s.pins := rfl
@[simp] theorem State.modPort_pins (n : Nat) (f : Port → Port) : (s.modPort n f).pins = s.pins := rfl
@[simp] theorem State.setPort_mem (n : Nat) (v : Port) : (s.setPort n v).mem = s.mem := rfl
@[simp] theorem State.modPort_mem (n : Nat) (f : Port → Port) : (s.modPort n f).mem = s.mem := rfl
@[simp] theorem State.setPort_poison (n : Nat) (v : Port) : (s.setPort n v).poison = s.poison := rfl
@[simp] theorem State.modPort_poison (n : Nat) (f : Port → Port) : (s.modPort n f).poison = s.poison := rfl
@[simp] theorem State.setPort_flips (n : Nat) (v : Port) : (s.setPort n v).flips = s.flips := rfl
@[simp] theorem State.modPort_flips (n : Nat) (f : Port → Port) : (s.modPort n f).flips = s.flips := rfl
@[simp] theorem State.setPort_undef (n : Nat) (v : Port) : (s.setPort n v).undef = s.undef := rfl
@[simp] theorem State.modPort_undef (n : Nat) (f : Port → Port) : (s.modPort n f).undef = s.undef := rfl
@[simp] theorem State.setPort_resp (n : Nat) (v : Port) : (s.setPort n v).resp = s.resp := rfl
@[simp] theorem State.modPort_resp (n : Nat) (f : Port → Port) : (s.modPort n f).resp = s.resp := rfl
@[simp] theorem State.setPort_fresh (n : Nat) (v : Port) : (s.setPort n v).fresh = s.fresh := rfl
@[simp] theorem State.modPort_fresh (n : Nat) (f : Port → Port) : (s.modPort n f).fresh = s.fresh := rfl
@[simp] theorem State.setPort_pending (n : Nat) (v : Port) : (s.setPort n v).pending = s.pending := rfl
@[simp] theorem State.modPort_pending (n : Nat) (f : Port → Port) : (s.modPort n f).pending = s.pending := rfl
theorem State.getPort_setPort (n m : Nat) (v : Port) : (s.setPort n v).getPort m = if m = n then v else s.getPort m :=
  tget_tset ..
@[simp] theorem State.getPort_setPort_same (n : Nat) (v : Port) : (s.setPort n v).getPort n = v := tget_tset_same ..
@[simp] theorem State.getPort_modPort_same (n : Nat) (f : Port → Port) : (s.modPort n f).getPort n = f (s.getPort n) :=
  tget_tset_same ..
theorem State.getPort_setPort_ne {n m : Nat} (v : Port) (h : m ≠ n) : (s.setPort n v).getPort m = s.getPort m := tget_tset_ne _ _ _ h
theorem State.getPort_modPort (n m : Nat) (f : Port → Port) :
    (s.modPort n f).getPort m = if m = n then f (s.getPort n) else s.getPort m := tget_tset ..

@[simp] theorem State.getCore_setPort (n m : Nat) (v : Port) : (s.setPort n v).getCore m = s.getCore m := rfl
@[simp] theorem State.getCore_modPort (n m : Nat) (f : Port → Port) : (s.modPort n f).getCore m = s.getCore m := rfl
@[simp] theorem State.getRtr_setPort (n m : Nat) (v : Port) : (s.setPort n v).getRtr m = s.getRtr m := rfl
@[simp] theorem State.getRtr_modPort (n m : Nat) (f : Port → Port) : (s.modPort n f).getRtr m = s.getRtr m := rfl
@[simp] theorem State.getQuad_setPort (n m : Nat) (v : Port) : (s.setPort n v).getQuad m = s.getQuad m := rfl
@[simp] theorem State.getQuad_modPort (n m : Nat) (f : Port → Port) : (s.modPort n f).getQuad m = s.getQuad m := rfl
@[simp] theorem State.getTile_setPort (n m : Nat) (v : Port) : (s.setPort n v).getTile m = s.getTile m := rfl
@[simp] theorem State.getTile_modPort (n m : Nat) (f : Port → Port) : (s.modPort n f).getTile m = s.getTile m := rfl
@[simp] theorem State.getStack_setPort (n m : Nat) (v : Port) : (s.setPort n v).getStack m = s.getStack m := rfl
@[simp] theorem State.getStack_modPort (n m : Nat) (f : Port → Port) : (s.modPort n f).getStack m = s.getStack m := rfl
@[simp] theorem State.getRing_setPort (n m : Nat) (v : Port) : (s.setPort n v).getRing m = s.getRing m := rfl
@[simp] theorem State.getRing_modPort (n m : Nat) (f : Port → Port) : (s.modPort n f).getRing m = s.getRing m := rfl
@[simp] theorem State.getSite_setPort (n m : Nat) (v : Port) : (s.setPort n v).getSite m = s.getSite m := rfl
@[simp] theorem State.getSite_modPort (n m : Nat) (f : Port → Port) : (s.modPort n f).getSite m = s.getSite m := rfl

/-! ### setRing -/

theorem State.modRing_eq (n : Nat) (f : Ring → Ring) : s.modRing n f = s.setRing n (f (s.getRing n)) := rfl
@[simp] theorem State.setRing_pmc (n : Nat) (v : Ring) : (s.setRing n v).pmc = s.pmc := rfl
@[simp] theorem State.modRing_pmc (n : Nat) (f : Ring → Ring) : (s.modRing n f).pmc = s.pmc := rfl
@[simp] theorem State.setRing_core (n : Nat) (v : Ring) : (s.setRing n v).core = s.core := rfl
@[simp] theorem State.modRing_core (n : Nat) (f : Ring → Ring) : (s.modRing n f).core = s.core := rfl
@[simp] theorem State.setRing_rtr (n : Nat) (v : Ring) : (s.setRing n v).rtr = s.rtr := rfl
@[simp] theorem State.modRing_rtr (n : Nat) (f : Ring → Ring) : (s.modRing n f).rtr = s.rtr := rfl
@[simp] theorem State.setRing_quad (n : Nat) (v : Ring) : (s.setRing n v).quad = s.quad := rfl
@[simp] theorem State.modRing_quad (n : Nat) (f : Ring → Ring) : (s.modRing n f).quad = s.quad := rfl
@[simp] theorem State.setRing_tile (n : Nat) (v : Ring) : (s.setRing n v).tile = s.tile := rfl
@[simp] theorem State.modRing_tile (n : Nat) (f : Ring → Ring) : (s.modRing n f).tile = s.tile := rfl
@[simp] theorem State.setRing_stack (n : Nat) (v : Ring) : (s.setRing n v).stack = s.stack := rfl
@[simp] theorem State.modRing_stack (n : Nat) (f : Ring → Ring) : (s.modRing n f).stack = s.stack := rfl
@[simp] theorem State.setRing_port (n : Nat) (v : Ring) : (s.setRing n v).port = s.port := rfl
@[simp] theorem State.modRing_port (n : Nat) (f : Ring → Ring) : (s.modRing n f).port = s.port := rfl
@[simp] theorem State.setRing_fab (n : Nat) (v : Ring) : (s.setRing n v).fab = s.fab := rfl
@[simp] theorem State.modRing_fab (n : Nat) (f : Ring → Ring) : (s.modRing n f).fab = s.fab := rfl
@[simp] theorem State.setRing_site (n : Nat) (v : Ring) : (s.setRing n v).site = s.site := rfl
@[simp] theorem State.modRing_site (n : Nat) (f : Ring → Ring) : (s.modRing n f).site = s.site := rfl
@[simp] theorem State.setRing_mesh (n : Nat) (v : Ring) : (s.setRing n v).mesh = s.mesh := rfl
@[simp] theorem State.modRing_mesh (n : Nat) (f : Ring → Ring) : (s.modRing n f).mesh = s.mesh := rfl
@[simp] theorem State.setRing_pwr (n : Nat) (v : Ring) : (s.setRing n v).pwr = s.pwr := rfl
@[simp] theorem State.modRing_pwr (n : Nat) (f : Ring → Ring) : (s.modRing n f).pwr = s.pwr := rfl
@[simp] theorem State.setRing_clk (n : Nat) (v : Ring) : (s.setRing n v).clk = s.clk := rfl
@[simp] theorem State.modRing_clk (n : Nat) (f : Ring → Ring) : (s.modRing n f).clk = s.clk := rfl
@[simp] theorem State.setRing_thm (n : Nat) (v : Ring) : (s.setRing n v).thm = s.thm := rfl
@[simp] theorem State.modRing_thm (n : Nat) (f : Ring → Ring) : (s.modRing n f).thm = s.thm := rfl
@[simp] theorem State.setRing_hlt (n : Nat) (v : Ring) : (s.setRing n v).hlt = s.hlt := rfl
@[simp] theorem State.modRing_hlt (n : Nat) (f : Ring → Ring) : (s.modRing n f).hlt = s.hlt := rfl
@[simp] theorem State.setRing_boot (n : Nat) (v : Ring) : (s.setRing n v).boot = s.boot := rfl
@[simp] theorem State.modRing_boot (n : Nat) (f : Ring → Ring) : (s.modRing n f).boot = s.boot := rfl
@[simp] theorem State.setRing_sec (n : Nat) (v : Ring) : (s.setRing n v).sec = s.sec := rfl
@[simp] theorem State.modRing_sec (n : Nat) (f : Ring → Ring) : (s.modRing n f).sec = s.sec := rfl
@[simp] theorem State.setRing_mtr (n : Nat) (v : Ring) : (s.setRing n v).mtr = s.mtr := rfl
@[simp] theorem State.modRing_mtr (n : Nat) (f : Ring → Ring) : (s.modRing n f).mtr = s.mtr := rfl
@[simp] theorem State.setRing_pins (n : Nat) (v : Ring) : (s.setRing n v).pins = s.pins := rfl
@[simp] theorem State.modRing_pins (n : Nat) (f : Ring → Ring) : (s.modRing n f).pins = s.pins := rfl
@[simp] theorem State.setRing_mem (n : Nat) (v : Ring) : (s.setRing n v).mem = s.mem := rfl
@[simp] theorem State.modRing_mem (n : Nat) (f : Ring → Ring) : (s.modRing n f).mem = s.mem := rfl
@[simp] theorem State.setRing_poison (n : Nat) (v : Ring) : (s.setRing n v).poison = s.poison := rfl
@[simp] theorem State.modRing_poison (n : Nat) (f : Ring → Ring) : (s.modRing n f).poison = s.poison := rfl
@[simp] theorem State.setRing_flips (n : Nat) (v : Ring) : (s.setRing n v).flips = s.flips := rfl
@[simp] theorem State.modRing_flips (n : Nat) (f : Ring → Ring) : (s.modRing n f).flips = s.flips := rfl
@[simp] theorem State.setRing_undef (n : Nat) (v : Ring) : (s.setRing n v).undef = s.undef := rfl
@[simp] theorem State.modRing_undef (n : Nat) (f : Ring → Ring) : (s.modRing n f).undef = s.undef := rfl
@[simp] theorem State.setRing_resp (n : Nat) (v : Ring) : (s.setRing n v).resp = s.resp := rfl
@[simp] theorem State.modRing_resp (n : Nat) (f : Ring → Ring) : (s.modRing n f).resp = s.resp := rfl
@[simp] theorem State.setRing_fresh (n : Nat) (v : Ring) : (s.setRing n v).fresh = s.fresh := rfl
@[simp] theorem State.modRing_fresh (n : Nat) (f : Ring → Ring) : (s.modRing n f).fresh = s.fresh := rfl
@[simp] theorem State.setRing_pending (n : Nat) (v : Ring) : (s.setRing n v).pending = s.pending := rfl
@[simp] theorem State.modRing_pending (n : Nat) (f : Ring → Ring) : (s.modRing n f).pending = s.pending := rfl
theorem State.getRing_setRing (n m : Nat) (v : Ring) : (s.setRing n v).getRing m = if m = n then v else s.getRing m :=
  tget_tset ..
@[simp] theorem State.getRing_setRing_same (n : Nat) (v : Ring) : (s.setRing n v).getRing n = v := tget_tset_same ..
@[simp] theorem State.getRing_modRing_same (n : Nat) (f : Ring → Ring) : (s.modRing n f).getRing n = f (s.getRing n) :=
  tget_tset_same ..
theorem State.getRing_setRing_ne {n m : Nat} (v : Ring) (h : m ≠ n) : (s.setRing n v).getRing m = s.getRing m := tget_tset_ne _ _ _ h
theorem State.getRing_modRing (n m : Nat) (f : Ring → Ring) :
    (s.modRing n f).getRing m = if m = n then f (s.getRing n) else s.getRing m := tget_tset ..

@[simp] theorem State.getCore_setRing (n m : Nat) (v : Ring) : (s.setRing n v).getCore m = s.getCore m := rfl
@[simp] theorem State.getCore_modRing (n m : Nat) (f : Ring → Ring) : (s.modRing n f).getCore m = s.getCore m := rfl
@[simp] theorem State.getRtr_setRing (n m : Nat) (v : Ring) : (s.setRing n v).getRtr m = s.getRtr m := rfl
@[simp] theorem State.getRtr_modRing (n m : Nat) (f : Ring → Ring) : (s.modRing n f).getRtr m = s.getRtr m := rfl
@[simp] theorem State.getQuad_setRing (n m : Nat) (v : Ring) : (s.setRing n v).getQuad m = s.getQuad m := rfl
@[simp] theorem State.getQuad_modRing (n m : Nat) (f : Ring → Ring) : (s.modRing n f).getQuad m = s.getQuad m := rfl
@[simp] theorem State.getTile_setRing (n m : Nat) (v : Ring) : (s.setRing n v).getTile m = s.getTile m := rfl
@[simp] theorem State.getTile_modRing (n m : Nat) (f : Ring → Ring) : (s.modRing n f).getTile m = s.getTile m := rfl
@[simp] theorem State.getStack_setRing (n m : Nat) (v : Ring) : (s.setRing n v).getStack m = s.getStack m := rfl
@[simp] theorem State.getStack_modRing (n m : Nat) (f : Ring → Ring) : (s.modRing n f).getStack m = s.getStack m := rfl
@[simp] theorem State.getPort_setRing (n m : Nat) (v : Ring) : (s.setRing n v).getPort m = s.getPort m := rfl
@[simp] theorem State.getPort_modRing (n m : Nat) (f : Ring → Ring) : (s.modRing n f).getPort m = s.getPort m := rfl
@[simp] theorem State.getSite_setRing (n m : Nat) (v : Ring) : (s.setRing n v).getSite m = s.getSite m := rfl
@[simp] theorem State.getSite_modRing (n m : Nat) (f : Ring → Ring) : (s.modRing n f).getSite m = s.getSite m := rfl

/-! ### setSite -/

theorem State.modSite_eq (n : Nat) (f : Site → Site) : s.modSite n f = s.setSite n (f (s.getSite n)) := rfl
@[simp] theorem State.setSite_pmc (n : Nat) (v : Site) : (s.setSite n v).pmc = s.pmc := rfl
@[simp] theorem State.modSite_pmc (n : Nat) (f : Site → Site) : (s.modSite n f).pmc = s.pmc := rfl
@[simp] theorem State.setSite_core (n : Nat) (v : Site) : (s.setSite n v).core = s.core := rfl
@[simp] theorem State.modSite_core (n : Nat) (f : Site → Site) : (s.modSite n f).core = s.core := rfl
@[simp] theorem State.setSite_rtr (n : Nat) (v : Site) : (s.setSite n v).rtr = s.rtr := rfl
@[simp] theorem State.modSite_rtr (n : Nat) (f : Site → Site) : (s.modSite n f).rtr = s.rtr := rfl
@[simp] theorem State.setSite_quad (n : Nat) (v : Site) : (s.setSite n v).quad = s.quad := rfl
@[simp] theorem State.modSite_quad (n : Nat) (f : Site → Site) : (s.modSite n f).quad = s.quad := rfl
@[simp] theorem State.setSite_tile (n : Nat) (v : Site) : (s.setSite n v).tile = s.tile := rfl
@[simp] theorem State.modSite_tile (n : Nat) (f : Site → Site) : (s.modSite n f).tile = s.tile := rfl
@[simp] theorem State.setSite_stack (n : Nat) (v : Site) : (s.setSite n v).stack = s.stack := rfl
@[simp] theorem State.modSite_stack (n : Nat) (f : Site → Site) : (s.modSite n f).stack = s.stack := rfl
@[simp] theorem State.setSite_port (n : Nat) (v : Site) : (s.setSite n v).port = s.port := rfl
@[simp] theorem State.modSite_port (n : Nat) (f : Site → Site) : (s.modSite n f).port = s.port := rfl
@[simp] theorem State.setSite_ring (n : Nat) (v : Site) : (s.setSite n v).ring = s.ring := rfl
@[simp] theorem State.modSite_ring (n : Nat) (f : Site → Site) : (s.modSite n f).ring = s.ring := rfl
@[simp] theorem State.setSite_fab (n : Nat) (v : Site) : (s.setSite n v).fab = s.fab := rfl
@[simp] theorem State.modSite_fab (n : Nat) (f : Site → Site) : (s.modSite n f).fab = s.fab := rfl
@[simp] theorem State.setSite_mesh (n : Nat) (v : Site) : (s.setSite n v).mesh = s.mesh := rfl
@[simp] theorem State.modSite_mesh (n : Nat) (f : Site → Site) : (s.modSite n f).mesh = s.mesh := rfl
@[simp] theorem State.setSite_pwr (n : Nat) (v : Site) : (s.setSite n v).pwr = s.pwr := rfl
@[simp] theorem State.modSite_pwr (n : Nat) (f : Site → Site) : (s.modSite n f).pwr = s.pwr := rfl
@[simp] theorem State.setSite_clk (n : Nat) (v : Site) : (s.setSite n v).clk = s.clk := rfl
@[simp] theorem State.modSite_clk (n : Nat) (f : Site → Site) : (s.modSite n f).clk = s.clk := rfl
@[simp] theorem State.setSite_thm (n : Nat) (v : Site) : (s.setSite n v).thm = s.thm := rfl
@[simp] theorem State.modSite_thm (n : Nat) (f : Site → Site) : (s.modSite n f).thm = s.thm := rfl
@[simp] theorem State.setSite_hlt (n : Nat) (v : Site) : (s.setSite n v).hlt = s.hlt := rfl
@[simp] theorem State.modSite_hlt (n : Nat) (f : Site → Site) : (s.modSite n f).hlt = s.hlt := rfl
@[simp] theorem State.setSite_boot (n : Nat) (v : Site) : (s.setSite n v).boot = s.boot := rfl
@[simp] theorem State.modSite_boot (n : Nat) (f : Site → Site) : (s.modSite n f).boot = s.boot := rfl
@[simp] theorem State.setSite_sec (n : Nat) (v : Site) : (s.setSite n v).sec = s.sec := rfl
@[simp] theorem State.modSite_sec (n : Nat) (f : Site → Site) : (s.modSite n f).sec = s.sec := rfl
@[simp] theorem State.setSite_mtr (n : Nat) (v : Site) : (s.setSite n v).mtr = s.mtr := rfl
@[simp] theorem State.modSite_mtr (n : Nat) (f : Site → Site) : (s.modSite n f).mtr = s.mtr := rfl
@[simp] theorem State.setSite_pins (n : Nat) (v : Site) : (s.setSite n v).pins = s.pins := rfl
@[simp] theorem State.modSite_pins (n : Nat) (f : Site → Site) : (s.modSite n f).pins = s.pins := rfl
@[simp] theorem State.setSite_mem (n : Nat) (v : Site) : (s.setSite n v).mem = s.mem := rfl
@[simp] theorem State.modSite_mem (n : Nat) (f : Site → Site) : (s.modSite n f).mem = s.mem := rfl
@[simp] theorem State.setSite_poison (n : Nat) (v : Site) : (s.setSite n v).poison = s.poison := rfl
@[simp] theorem State.modSite_poison (n : Nat) (f : Site → Site) : (s.modSite n f).poison = s.poison := rfl
@[simp] theorem State.setSite_flips (n : Nat) (v : Site) : (s.setSite n v).flips = s.flips := rfl
@[simp] theorem State.modSite_flips (n : Nat) (f : Site → Site) : (s.modSite n f).flips = s.flips := rfl
@[simp] theorem State.setSite_undef (n : Nat) (v : Site) : (s.setSite n v).undef = s.undef := rfl
@[simp] theorem State.modSite_undef (n : Nat) (f : Site → Site) : (s.modSite n f).undef = s.undef := rfl
@[simp] theorem State.setSite_resp (n : Nat) (v : Site) : (s.setSite n v).resp = s.resp := rfl
@[simp] theorem State.modSite_resp (n : Nat) (f : Site → Site) : (s.modSite n f).resp = s.resp := rfl
@[simp] theorem State.setSite_fresh (n : Nat) (v : Site) : (s.setSite n v).fresh = s.fresh := rfl
@[simp] theorem State.modSite_fresh (n : Nat) (f : Site → Site) : (s.modSite n f).fresh = s.fresh := rfl
@[simp] theorem State.setSite_pending (n : Nat) (v : Site) : (s.setSite n v).pending = s.pending := rfl
@[simp] theorem State.modSite_pending (n : Nat) (f : Site → Site) : (s.modSite n f).pending = s.pending := rfl
theorem State.getSite_setSite (n m : Nat) (v : Site) : (s.setSite n v).getSite m = if m = n then v else s.getSite m :=
  tget_tset ..
@[simp] theorem State.getSite_setSite_same (n : Nat) (v : Site) : (s.setSite n v).getSite n = v := tget_tset_same ..
@[simp] theorem State.getSite_modSite_same (n : Nat) (f : Site → Site) : (s.modSite n f).getSite n = f (s.getSite n) :=
  tget_tset_same ..
theorem State.getSite_setSite_ne {n m : Nat} (v : Site) (h : m ≠ n) : (s.setSite n v).getSite m = s.getSite m := tget_tset_ne _ _ _ h
theorem State.getSite_modSite (n m : Nat) (f : Site → Site) :
    (s.modSite n f).getSite m = if m = n then f (s.getSite n) else s.getSite m := tget_tset ..

@[simp] theorem State.getCore_setSite (n m : Nat) (v : Site) : (s.setSite n v).getCore m = s.getCore m := rfl
@[simp] theorem State.getCore_modSite (n m : Nat) (f : Site → Site) : (s.modSite n f).getCore m = s.getCore m := rfl
@[simp] theorem State.getRtr_setSite (n m : Nat) (v : Site) : (s.setSite n v).getRtr m = s.getRtr m := rfl
@[simp] theorem State.getRtr_modSite (n m : Nat) (f : Site → Site) : (s.modSite n f).getRtr m = s.getRtr m := rfl
@[simp] theorem State.getQuad_setSite (n m : Nat) (v : Site) : (s.setSite n v).getQuad m = s.getQuad m := rfl
@[simp] theorem State.getQuad_modSite (n m : Nat) (f : Site → Site) : (s.modSite n f).getQuad m = s.getQuad m := rfl
@[simp] theorem State.getTile_setSite (n m : Nat) (v : Site) : (s.setSite n v).getTile m = s.getTile m := rfl
@[simp] theorem State.getTile_modSite (n m : Nat) (f : Site → Site) : (s.modSite n f).getTile m = s.getTile m := rfl
@[simp] theorem State.getStack_setSite (n m : Nat) (v : Site) : (s.setSite n v).getStack m = s.getStack m := rfl
@[simp] theorem State.getStack_modSite (n m : Nat) (f : Site → Site) : (s.modSite n f).getStack m = s.getStack m := rfl
@[simp] theorem State.getPort_setSite (n m : Nat) (v : Site) : (s.setSite n v).getPort m = s.getPort m := rfl
@[simp] theorem State.getPort_modSite (n m : Nat) (f : Site → Site) : (s.modSite n f).getPort m = s.getPort m := rfl
@[simp] theorem State.getRing_setSite (n m : Nat) (v : Site) : (s.setSite n v).getRing m = s.getRing m := rfl
@[simp] theorem State.getRing_modSite (n m : Nat) (f : Site → Site) : (s.modSite n f).getRing m = s.getRing m := rfl

/-! ### modPmc -/

@[simp] theorem State.modPmc_pmc (f : Pmc → Pmc) : (s.modPmc f).pmc = f s.pmc := rfl
@[simp] theorem State.modPmc_core (f : Pmc → Pmc) : (s.modPmc f).core = s.core := rfl
@[simp] theorem State.modPmc_rtr (f : Pmc → Pmc) : (s.modPmc f).rtr = s.rtr := rfl
@[simp] theorem State.modPmc_quad (f : Pmc → Pmc) : (s.modPmc f).quad = s.quad := rfl
@[simp] theorem State.modPmc_tile (f : Pmc → Pmc) : (s.modPmc f).tile = s.tile := rfl
@[simp] theorem State.modPmc_stack (f : Pmc → Pmc) : (s.modPmc f).stack = s.stack := rfl
@[simp] theorem State.modPmc_port (f : Pmc → Pmc) : (s.modPmc f).port = s.port := rfl
@[simp] theorem State.modPmc_ring (f : Pmc → Pmc) : (s.modPmc f).ring = s.ring := rfl
@[simp] theorem State.modPmc_fab (f : Pmc → Pmc) : (s.modPmc f).fab = s.fab := rfl
@[simp] theorem State.modPmc_site (f : Pmc → Pmc) : (s.modPmc f).site = s.site := rfl
@[simp] theorem State.modPmc_mesh (f : Pmc → Pmc) : (s.modPmc f).mesh = s.mesh := rfl
@[simp] theorem State.modPmc_pwr (f : Pmc → Pmc) : (s.modPmc f).pwr = s.pwr := rfl
@[simp] theorem State.modPmc_clk (f : Pmc → Pmc) : (s.modPmc f).clk = s.clk := rfl
@[simp] theorem State.modPmc_thm (f : Pmc → Pmc) : (s.modPmc f).thm = s.thm := rfl
@[simp] theorem State.modPmc_hlt (f : Pmc → Pmc) : (s.modPmc f).hlt = s.hlt := rfl
@[simp] theorem State.modPmc_boot (f : Pmc → Pmc) : (s.modPmc f).boot = s.boot := rfl
@[simp] theorem State.modPmc_sec (f : Pmc → Pmc) : (s.modPmc f).sec = s.sec := rfl
@[simp] theorem State.modPmc_mtr (f : Pmc → Pmc) : (s.modPmc f).mtr = s.mtr := rfl
@[simp] theorem State.modPmc_pins (f : Pmc → Pmc) : (s.modPmc f).pins = s.pins := rfl
@[simp] theorem State.modPmc_mem (f : Pmc → Pmc) : (s.modPmc f).mem = s.mem := rfl
@[simp] theorem State.modPmc_poison (f : Pmc → Pmc) : (s.modPmc f).poison = s.poison := rfl
@[simp] theorem State.modPmc_flips (f : Pmc → Pmc) : (s.modPmc f).flips = s.flips := rfl
@[simp] theorem State.modPmc_undef (f : Pmc → Pmc) : (s.modPmc f).undef = s.undef := rfl
@[simp] theorem State.modPmc_resp (f : Pmc → Pmc) : (s.modPmc f).resp = s.resp := rfl
@[simp] theorem State.modPmc_fresh (f : Pmc → Pmc) : (s.modPmc f).fresh = s.fresh := rfl
@[simp] theorem State.modPmc_pending (f : Pmc → Pmc) : (s.modPmc f).pending = s.pending := rfl
@[simp] theorem State.getCore_modPmc (f : Pmc → Pmc) (m : Nat) : (s.modPmc f).getCore m = s.getCore m := rfl
@[simp] theorem State.getRtr_modPmc (f : Pmc → Pmc) (m : Nat) : (s.modPmc f).getRtr m = s.getRtr m := rfl
@[simp] theorem State.getQuad_modPmc (f : Pmc → Pmc) (m : Nat) : (s.modPmc f).getQuad m = s.getQuad m := rfl
@[simp] theorem State.getTile_modPmc (f : Pmc → Pmc) (m : Nat) : (s.modPmc f).getTile m = s.getTile m := rfl
@[simp] theorem State.getStack_modPmc (f : Pmc → Pmc) (m : Nat) : (s.modPmc f).getStack m = s.getStack m := rfl
@[simp] theorem State.getPort_modPmc (f : Pmc → Pmc) (m : Nat) : (s.modPmc f).getPort m = s.getPort m := rfl
@[simp] theorem State.getRing_modPmc (f : Pmc → Pmc) (m : Nat) : (s.modPmc f).getRing m = s.getRing m := rfl
@[simp] theorem State.getSite_modPmc (f : Pmc → Pmc) (m : Nat) : (s.modPmc f).getSite m = s.getSite m := rfl

/-! ### modFab -/

@[simp] theorem State.modFab_fab (f : Fabric → Fabric) : (s.modFab f).fab = f s.fab := rfl
@[simp] theorem State.modFab_pmc (f : Fabric → Fabric) : (s.modFab f).pmc = s.pmc := rfl
@[simp] theorem State.modFab_core (f : Fabric → Fabric) : (s.modFab f).core = s.core := rfl
@[simp] theorem State.modFab_rtr (f : Fabric → Fabric) : (s.modFab f).rtr = s.rtr := rfl
@[simp] theorem State.modFab_quad (f : Fabric → Fabric) : (s.modFab f).quad = s.quad := rfl
@[simp] theorem State.modFab_tile (f : Fabric → Fabric) : (s.modFab f).tile = s.tile := rfl
@[simp] theorem State.modFab_stack (f : Fabric → Fabric) : (s.modFab f).stack = s.stack := rfl
@[simp] theorem State.modFab_port (f : Fabric → Fabric) : (s.modFab f).port = s.port := rfl
@[simp] theorem State.modFab_ring (f : Fabric → Fabric) : (s.modFab f).ring = s.ring := rfl
@[simp] theorem State.modFab_site (f : Fabric → Fabric) : (s.modFab f).site = s.site := rfl
@[simp] theorem State.modFab_mesh (f : Fabric → Fabric) : (s.modFab f).mesh = s.mesh := rfl
@[simp] theorem State.modFab_pwr (f : Fabric → Fabric) : (s.modFab f).pwr = s.pwr := rfl
@[simp] theorem State.modFab_clk (f : Fabric → Fabric) : (s.modFab f).clk = s.clk := rfl
@[simp] theorem State.modFab_thm (f : Fabric → Fabric) : (s.modFab f).thm = s.thm := rfl
@[simp] theorem State.modFab_hlt (f : Fabric → Fabric) : (s.modFab f).hlt = s.hlt := rfl
@[simp] theorem State.modFab_boot (f : Fabric → Fabric) : (s.modFab f).boot = s.boot := rfl
@[simp] theorem State.modFab_sec (f : Fabric → Fabric) : (s.modFab f).sec = s.sec := rfl
@[simp] theorem State.modFab_mtr (f : Fabric → Fabric) : (s.modFab f).mtr = s.mtr := rfl
@[simp] theorem State.modFab_pins (f : Fabric → Fabric) : (s.modFab f).pins = s.pins := rfl
@[simp] theorem State.modFab_mem (f : Fabric → Fabric) : (s.modFab f).mem = s.mem := rfl
@[simp] theorem State.modFab_poison (f : Fabric → Fabric) : (s.modFab f).poison = s.poison := rfl
@[simp] theorem State.modFab_flips (f : Fabric → Fabric) : (s.modFab f).flips = s.flips := rfl
@[simp] theorem State.modFab_undef (f : Fabric → Fabric) : (s.modFab f).undef = s.undef := rfl
@[simp] theorem State.modFab_resp (f : Fabric → Fabric) : (s.modFab f).resp = s.resp := rfl
@[simp] theorem State.modFab_fresh (f : Fabric → Fabric) : (s.modFab f).fresh = s.fresh := rfl
@[simp] theorem State.modFab_pending (f : Fabric → Fabric) : (s.modFab f).pending = s.pending := rfl
@[simp] theorem State.getCore_modFab (f : Fabric → Fabric) (m : Nat) : (s.modFab f).getCore m = s.getCore m := rfl
@[simp] theorem State.getRtr_modFab (f : Fabric → Fabric) (m : Nat) : (s.modFab f).getRtr m = s.getRtr m := rfl
@[simp] theorem State.getQuad_modFab (f : Fabric → Fabric) (m : Nat) : (s.modFab f).getQuad m = s.getQuad m := rfl
@[simp] theorem State.getTile_modFab (f : Fabric → Fabric) (m : Nat) : (s.modFab f).getTile m = s.getTile m := rfl
@[simp] theorem State.getStack_modFab (f : Fabric → Fabric) (m : Nat) : (s.modFab f).getStack m = s.getStack m := rfl
@[simp] theorem State.getPort_modFab (f : Fabric → Fabric) (m : Nat) : (s.modFab f).getPort m = s.getPort m := rfl
@[simp] theorem State.getRing_modFab (f : Fabric → Fabric) (m : Nat) : (s.modFab f).getRing m = s.getRing m := rfl
@[simp] theorem State.getSite_modFab (f : Fabric → Fabric) (m : Nat) : (s.modFab f).getSite m = s.getSite m := rfl

/-! ### modMesh -/

@[simp] theorem State.modMesh_mesh (f : Mesh → Mesh) : (s.modMesh f).mesh = f s.mesh := rfl
@[simp] theorem State.modMesh_pmc (f : Mesh → Mesh) : (s.modMesh f).pmc = s.pmc := rfl
@[simp] theorem State.modMesh_core (f : Mesh → Mesh) : (s.modMesh f).core = s.core := rfl
@[simp] theorem State.modMesh_rtr (f : Mesh → Mesh) : (s.modMesh f).rtr = s.rtr := rfl
@[simp] theorem State.modMesh_quad (f : Mesh → Mesh) : (s.modMesh f).quad = s.quad := rfl
@[simp] theorem State.modMesh_tile (f : Mesh → Mesh) : (s.modMesh f).tile = s.tile := rfl
@[simp] theorem State.modMesh_stack (f : Mesh → Mesh) : (s.modMesh f).stack = s.stack := rfl
@[simp] theorem State.modMesh_port (f : Mesh → Mesh) : (s.modMesh f).port = s.port := rfl
@[simp] theorem State.modMesh_ring (f : Mesh → Mesh) : (s.modMesh f).ring = s.ring := rfl
@[simp] theorem State.modMesh_fab (f : Mesh → Mesh) : (s.modMesh f).fab = s.fab := rfl
@[simp] theorem State.modMesh_site (f : Mesh → Mesh) : (s.modMesh f).site = s.site := rfl
@[simp] theorem State.modMesh_pwr (f : Mesh → Mesh) : (s.modMesh f).pwr = s.pwr := rfl
@[simp] theorem State.modMesh_clk (f : Mesh → Mesh) : (s.modMesh f).clk = s.clk := rfl
@[simp] theorem State.modMesh_thm (f : Mesh → Mesh) : (s.modMesh f).thm = s.thm := rfl
@[simp] theorem State.modMesh_hlt (f : Mesh → Mesh) : (s.modMesh f).hlt = s.hlt := rfl
@[simp] theorem State.modMesh_boot (f : Mesh → Mesh) : (s.modMesh f).boot = s.boot := rfl
@[simp] theorem State.modMesh_sec (f : Mesh → Mesh) : (s.modMesh f).sec = s.sec := rfl
@[simp] theorem State.modMesh_mtr (f : Mesh → Mesh) : (s.modMesh f).mtr = s.mtr := rfl
@[simp] theorem State.modMesh_pins (f : Mesh → Mesh) : (s.modMesh f).pins = s.pins := rfl
@[simp] theorem State.modMesh_mem (f : Mesh → Mesh) : (s.modMesh f).mem = s.mem := rfl
@[simp] theorem State.modMesh_poison (f : Mesh → Mesh) : (s.modMesh f).poison = s.poison := rfl
@[simp] theorem State.modMesh_flips (f : Mesh → Mesh) : (s.modMesh f).flips = s.flips := rfl
@[simp] theorem State.modMesh_undef (f : Mesh → Mesh) : (s.modMesh f).undef = s.undef := rfl
@[simp] theorem State.modMesh_resp (f : Mesh → Mesh) : (s.modMesh f).resp = s.resp := rfl
@[simp] theorem State.modMesh_fresh (f : Mesh → Mesh) : (s.modMesh f).fresh = s.fresh := rfl
@[simp] theorem State.modMesh_pending (f : Mesh → Mesh) : (s.modMesh f).pending = s.pending := rfl
@[simp] theorem State.getCore_modMesh (f : Mesh → Mesh) (m : Nat) : (s.modMesh f).getCore m = s.getCore m := rfl
@[simp] theorem State.getRtr_modMesh (f : Mesh → Mesh) (m : Nat) : (s.modMesh f).getRtr m = s.getRtr m := rfl
@[simp] theorem State.getQuad_modMesh (f : Mesh → Mesh) (m : Nat) : (s.modMesh f).getQuad m = s.getQuad m := rfl
@[simp] theorem State.getTile_modMesh (f : Mesh → Mesh) (m : Nat) : (s.modMesh f).getTile m = s.getTile m := rfl
@[simp] theorem State.getStack_modMesh (f : Mesh → Mesh) (m : Nat) : (s.modMesh f).getStack m = s.getStack m := rfl
@[simp] theorem State.getPort_modMesh (f : Mesh → Mesh) (m : Nat) : (s.modMesh f).getPort m = s.getPort m := rfl
@[simp] theorem State.getRing_modMesh (f : Mesh → Mesh) (m : Nat) : (s.modMesh f).getRing m = s.getRing m := rfl
@[simp] theorem State.getSite_modMesh (f : Mesh → Mesh) (m : Nat) : (s.modMesh f).getSite m = s.getSite m := rfl

/-! ### modPwr -/

@[simp] theorem State.modPwr_pwr (f : Power → Power) : (s.modPwr f).pwr = f s.pwr := rfl
@[simp] theorem State.modPwr_pmc (f : Power → Power) : (s.modPwr f).pmc = s.pmc := rfl
@[simp] theorem State.modPwr_core (f : Power → Power) : (s.modPwr f).core = s.core := rfl
@[simp] theorem State.modPwr_rtr (f : Power → Power) : (s.modPwr f).rtr = s.rtr := rfl
@[simp] theorem State.modPwr_quad (f : Power → Power) : (s.modPwr f).quad = s.quad := rfl
@[simp] theorem State.modPwr_tile (f : Power → Power) : (s.modPwr f).tile = s.tile := rfl
@[simp] theorem State.modPwr_stack (f : Power → Power) : (s.modPwr f).stack = s.stack := rfl
@[simp] theorem State.modPwr_port (f : Power → Power) : (s.modPwr f).port = s.port := rfl
@[simp] theorem State.modPwr_ring (f : Power → Power) : (s.modPwr f).ring = s.ring := rfl
@[simp] theorem State.modPwr_fab (f : Power → Power) : (s.modPwr f).fab = s.fab := rfl
@[simp] theorem State.modPwr_site (f : Power → Power) : (s.modPwr f).site = s.site := rfl
@[simp] theorem State.modPwr_mesh (f : Power → Power) : (s.modPwr f).mesh = s.mesh := rfl
@[simp] theorem State.modPwr_clk (f : Power → Power) : (s.modPwr f).clk = s.clk := rfl
@[simp] theorem State.modPwr_thm (f : Power → Power) : (s.modPwr f).thm = s.thm := rfl
@[simp] theorem State.modPwr_hlt (f : Power → Power) : (s.modPwr f).hlt = s.hlt := rfl
@[simp] theorem State.modPwr_boot (f : Power → Power) : (s.modPwr f).boot = s.boot := rfl
@[simp] theorem State.modPwr_sec (f : Power → Power) : (s.modPwr f).sec = s.sec := rfl
@[simp] theorem State.modPwr_mtr (f : Power → Power) : (s.modPwr f).mtr = s.mtr := rfl
@[simp] theorem State.modPwr_pins (f : Power → Power) : (s.modPwr f).pins = s.pins := rfl
@[simp] theorem State.modPwr_mem (f : Power → Power) : (s.modPwr f).mem = s.mem := rfl
@[simp] theorem State.modPwr_poison (f : Power → Power) : (s.modPwr f).poison = s.poison := rfl
@[simp] theorem State.modPwr_flips (f : Power → Power) : (s.modPwr f).flips = s.flips := rfl
@[simp] theorem State.modPwr_undef (f : Power → Power) : (s.modPwr f).undef = s.undef := rfl
@[simp] theorem State.modPwr_resp (f : Power → Power) : (s.modPwr f).resp = s.resp := rfl
@[simp] theorem State.modPwr_fresh (f : Power → Power) : (s.modPwr f).fresh = s.fresh := rfl
@[simp] theorem State.modPwr_pending (f : Power → Power) : (s.modPwr f).pending = s.pending := rfl
@[simp] theorem State.getCore_modPwr (f : Power → Power) (m : Nat) : (s.modPwr f).getCore m = s.getCore m := rfl
@[simp] theorem State.getRtr_modPwr (f : Power → Power) (m : Nat) : (s.modPwr f).getRtr m = s.getRtr m := rfl
@[simp] theorem State.getQuad_modPwr (f : Power → Power) (m : Nat) : (s.modPwr f).getQuad m = s.getQuad m := rfl
@[simp] theorem State.getTile_modPwr (f : Power → Power) (m : Nat) : (s.modPwr f).getTile m = s.getTile m := rfl
@[simp] theorem State.getStack_modPwr (f : Power → Power) (m : Nat) : (s.modPwr f).getStack m = s.getStack m := rfl
@[simp] theorem State.getPort_modPwr (f : Power → Power) (m : Nat) : (s.modPwr f).getPort m = s.getPort m := rfl
@[simp] theorem State.getRing_modPwr (f : Power → Power) (m : Nat) : (s.modPwr f).getRing m = s.getRing m := rfl
@[simp] theorem State.getSite_modPwr (f : Power → Power) (m : Nat) : (s.modPwr f).getSite m = s.getSite m := rfl

/-! ### modClk -/

@[simp] theorem State.modClk_clk (f : Clock → Clock) : (s.modClk f).clk = f s.clk := rfl
@[simp] theorem State.modClk_pmc (f : Clock → Clock) : (s.modClk f).pmc = s.pmc := rfl
@[simp] theorem State.modClk_core (f : Clock → Clock) : (s.modClk f).core = s.core := rfl
@[simp] theorem State.modClk_rtr (f : Clock → Clock) : (s.modClk f).rtr = s.rtr := rfl
@[simp] theorem State.modClk_quad (f : Clock → Clock) : (s.modClk f).quad = s.quad := rfl
@[simp] theorem State.modClk_tile (f : Clock → Clock) : (s.modClk f).tile = s.tile := rfl
@[simp] theorem State.modClk_stack (f : Clock → Clock) : (s.modClk f).stack = s.stack := rfl
@[simp] theorem State.modClk_port (f : Clock → Clock) : (s.modClk f).port = s.port := rfl
@[simp] theorem State.modClk_ring (f : Clock → Clock) : (s.modClk f).ring = s.ring := rfl
@[simp] theorem State.modClk_fab (f : Clock → Clock) : (s.modClk f).fab = s.fab := rfl
@[simp] theorem State.modClk_site (f : Clock → Clock) : (s.modClk f).site = s.site := rfl
@[simp] theorem State.modClk_mesh (f : Clock → Clock) : (s.modClk f).mesh = s.mesh := rfl
@[simp] theorem State.modClk_pwr (f : Clock → Clock) : (s.modClk f).pwr = s.pwr := rfl
@[simp] theorem State.modClk_thm (f : Clock → Clock) : (s.modClk f).thm = s.thm := rfl
@[simp] theorem State.modClk_hlt (f : Clock → Clock) : (s.modClk f).hlt = s.hlt := rfl
@[simp] theorem State.modClk_boot (f : Clock → Clock) : (s.modClk f).boot = s.boot := rfl
@[simp] theorem State.modClk_sec (f : Clock → Clock) : (s.modClk f).sec = s.sec := rfl
@[simp] theorem State.modClk_mtr (f : Clock → Clock) : (s.modClk f).mtr = s.mtr := rfl
@[simp] theorem State.modClk_pins (f : Clock → Clock) : (s.modClk f).pins = s.pins := rfl
@[simp] theorem State.modClk_mem (f : Clock → Clock) : (s.modClk f).mem = s.mem := rfl
@[simp] theorem State.modClk_poison (f : Clock → Clock) : (s.modClk f).poison = s.poison := rfl
@[simp] theorem State.modClk_flips (f : Clock → Clock) : (s.modClk f).flips = s.flips := rfl
@[simp] theorem State.modClk_undef (f : Clock → Clock) : (s.modClk f).undef = s.undef := rfl
@[simp] theorem State.modClk_resp (f : Clock → Clock) : (s.modClk f).resp = s.resp := rfl
@[simp] theorem State.modClk_fresh (f : Clock → Clock) : (s.modClk f).fresh = s.fresh := rfl
@[simp] theorem State.modClk_pending (f : Clock → Clock) : (s.modClk f).pending = s.pending := rfl
@[simp] theorem State.getCore_modClk (f : Clock → Clock) (m : Nat) : (s.modClk f).getCore m = s.getCore m := rfl
@[simp] theorem State.getRtr_modClk (f : Clock → Clock) (m : Nat) : (s.modClk f).getRtr m = s.getRtr m := rfl
@[simp] theorem State.getQuad_modClk (f : Clock → Clock) (m : Nat) : (s.modClk f).getQuad m = s.getQuad m := rfl
@[simp] theorem State.getTile_modClk (f : Clock → Clock) (m : Nat) : (s.modClk f).getTile m = s.getTile m := rfl
@[simp] theorem State.getStack_modClk (f : Clock → Clock) (m : Nat) : (s.modClk f).getStack m = s.getStack m := rfl
@[simp] theorem State.getPort_modClk (f : Clock → Clock) (m : Nat) : (s.modClk f).getPort m = s.getPort m := rfl
@[simp] theorem State.getRing_modClk (f : Clock → Clock) (m : Nat) : (s.modClk f).getRing m = s.getRing m := rfl
@[simp] theorem State.getSite_modClk (f : Clock → Clock) (m : Nat) : (s.modClk f).getSite m = s.getSite m := rfl

/-! ### modThm -/

@[simp] theorem State.modThm_thm (f : Thermal → Thermal) : (s.modThm f).thm = f s.thm := rfl
@[simp] theorem State.modThm_pmc (f : Thermal → Thermal) : (s.modThm f).pmc = s.pmc := rfl
@[simp] theorem State.modThm_core (f : Thermal → Thermal) : (s.modThm f).core = s.core := rfl
@[simp] theorem State.modThm_rtr (f : Thermal → Thermal) : (s.modThm f).rtr = s.rtr := rfl
@[simp] theorem State.modThm_quad (f : Thermal → Thermal) : (s.modThm f).quad = s.quad := rfl
@[simp] theorem State.modThm_tile (f : Thermal → Thermal) : (s.modThm f).tile = s.tile := rfl
@[simp] theorem State.modThm_stack (f : Thermal → Thermal) : (s.modThm f).stack = s.stack := rfl
@[simp] theorem State.modThm_port (f : Thermal → Thermal) : (s.modThm f).port = s.port := rfl
@[simp] theorem State.modThm_ring (f : Thermal → Thermal) : (s.modThm f).ring = s.ring := rfl
@[simp] theorem State.modThm_fab (f : Thermal → Thermal) : (s.modThm f).fab = s.fab := rfl
@[simp] theorem State.modThm_site (f : Thermal → Thermal) : (s.modThm f).site = s.site := rfl
@[simp] theorem State.modThm_mesh (f : Thermal → Thermal) : (s.modThm f).mesh = s.mesh := rfl
@[simp] theorem State.modThm_pwr (f : Thermal → Thermal) : (s.modThm f).pwr = s.pwr := rfl
@[simp] theorem State.modThm_clk (f : Thermal → Thermal) : (s.modThm f).clk = s.clk := rfl
@[simp] theorem State.modThm_hlt (f : Thermal → Thermal) : (s.modThm f).hlt = s.hlt := rfl
@[simp] theorem State.modThm_boot (f : Thermal → Thermal) : (s.modThm f).boot = s.boot := rfl
@[simp] theorem State.modThm_sec (f : Thermal → Thermal) : (s.modThm f).sec = s.sec := rfl
@[simp] theorem State.modThm_mtr (f : Thermal → Thermal) : (s.modThm f).mtr = s.mtr := rfl
@[simp] theorem State.modThm_pins (f : Thermal → Thermal) : (s.modThm f).pins = s.pins := rfl
@[simp] theorem State.modThm_mem (f : Thermal → Thermal) : (s.modThm f).mem = s.mem := rfl
@[simp] theorem State.modThm_poison (f : Thermal → Thermal) : (s.modThm f).poison = s.poison := rfl
@[simp] theorem State.modThm_flips (f : Thermal → Thermal) : (s.modThm f).flips = s.flips := rfl
@[simp] theorem State.modThm_undef (f : Thermal → Thermal) : (s.modThm f).undef = s.undef := rfl
@[simp] theorem State.modThm_resp (f : Thermal → Thermal) : (s.modThm f).resp = s.resp := rfl
@[simp] theorem State.modThm_fresh (f : Thermal → Thermal) : (s.modThm f).fresh = s.fresh := rfl
@[simp] theorem State.modThm_pending (f : Thermal → Thermal) : (s.modThm f).pending = s.pending := rfl
@[simp] theorem State.getCore_modThm (f : Thermal → Thermal) (m : Nat) : (s.modThm f).getCore m = s.getCore m := rfl
@[simp] theorem State.getRtr_modThm (f : Thermal → Thermal) (m : Nat) : (s.modThm f).getRtr m = s.getRtr m := rfl
@[simp] theorem State.getQuad_modThm (f : Thermal → Thermal) (m : Nat) : (s.modThm f).getQuad m = s.getQuad m := rfl
@[simp] theorem State.getTile_modThm (f : Thermal → Thermal) (m : Nat) : (s.modThm f).getTile m = s.getTile m := rfl
@[simp] theorem State.getStack_modThm (f : Thermal → Thermal) (m : Nat) : (s.modThm f).getStack m = s.getStack m := rfl
@[simp] theorem State.getPort_modThm (f : Thermal → Thermal) (m : Nat) : (s.modThm f).getPort m = s.getPort m := rfl
@[simp] theorem State.getRing_modThm (f : Thermal → Thermal) (m : Nat) : (s.modThm f).getRing m = s.getRing m := rfl
@[simp] theorem State.getSite_modThm (f : Thermal → Thermal) (m : Nat) : (s.modThm f).getSite m = s.getSite m := rfl

/-! ### modHlt -/

@[simp] theorem State.modHlt_hlt (f : Health → Health) : (s.modHlt f).hlt = f s.hlt := rfl
@[simp] theorem State.modHlt_pmc (f : Health → Health) : (s.modHlt f).pmc = s.pmc := rfl
@[simp] theorem State.modHlt_core (f : Health → Health) : (s.modHlt f).core = s.core := rfl
@[simp] theorem State.modHlt_rtr (f : Health → Health) : (s.modHlt f).rtr = s.rtr := rfl
@[simp] theorem State.modHlt_quad (f : Health → Health) : (s.modHlt f).quad = s.quad := rfl
@[simp] theorem State.modHlt_tile (f : Health → Health) : (s.modHlt f).tile = s.tile := rfl
@[simp] theorem State.modHlt_stack (f : Health → Health) : (s.modHlt f).stack = s.stack := rfl
@[simp] theorem State.modHlt_port (f : Health → Health) : (s.modHlt f).port = s.port := rfl
@[simp] theorem State.modHlt_ring (f : Health → Health) : (s.modHlt f).ring = s.ring := rfl
@[simp] theorem State.modHlt_fab (f : Health → Health) : (s.modHlt f).fab = s.fab := rfl
@[simp] theorem State.modHlt_site (f : Health → Health) : (s.modHlt f).site = s.site := rfl
@[simp] theorem State.modHlt_mesh (f : Health → Health) : (s.modHlt f).mesh = s.mesh := rfl
@[simp] theorem State.modHlt_pwr (f : Health → Health) : (s.modHlt f).pwr = s.pwr := rfl
@[simp] theorem State.modHlt_clk (f : Health → Health) : (s.modHlt f).clk = s.clk := rfl
@[simp] theorem State.modHlt_thm (f : Health → Health) : (s.modHlt f).thm = s.thm := rfl
@[simp] theorem State.modHlt_boot (f : Health → Health) : (s.modHlt f).boot = s.boot := rfl
@[simp] theorem State.modHlt_sec (f : Health → Health) : (s.modHlt f).sec = s.sec := rfl
@[simp] theorem State.modHlt_mtr (f : Health → Health) : (s.modHlt f).mtr = s.mtr := rfl
@[simp] theorem State.modHlt_pins (f : Health → Health) : (s.modHlt f).pins = s.pins := rfl
@[simp] theorem State.modHlt_mem (f : Health → Health) : (s.modHlt f).mem = s.mem := rfl
@[simp] theorem State.modHlt_poison (f : Health → Health) : (s.modHlt f).poison = s.poison := rfl
@[simp] theorem State.modHlt_flips (f : Health → Health) : (s.modHlt f).flips = s.flips := rfl
@[simp] theorem State.modHlt_undef (f : Health → Health) : (s.modHlt f).undef = s.undef := rfl
@[simp] theorem State.modHlt_resp (f : Health → Health) : (s.modHlt f).resp = s.resp := rfl
@[simp] theorem State.modHlt_fresh (f : Health → Health) : (s.modHlt f).fresh = s.fresh := rfl
@[simp] theorem State.modHlt_pending (f : Health → Health) : (s.modHlt f).pending = s.pending := rfl
@[simp] theorem State.getCore_modHlt (f : Health → Health) (m : Nat) : (s.modHlt f).getCore m = s.getCore m := rfl
@[simp] theorem State.getRtr_modHlt (f : Health → Health) (m : Nat) : (s.modHlt f).getRtr m = s.getRtr m := rfl
@[simp] theorem State.getQuad_modHlt (f : Health → Health) (m : Nat) : (s.modHlt f).getQuad m = s.getQuad m := rfl
@[simp] theorem State.getTile_modHlt (f : Health → Health) (m : Nat) : (s.modHlt f).getTile m = s.getTile m := rfl
@[simp] theorem State.getStack_modHlt (f : Health → Health) (m : Nat) : (s.modHlt f).getStack m = s.getStack m := rfl
@[simp] theorem State.getPort_modHlt (f : Health → Health) (m : Nat) : (s.modHlt f).getPort m = s.getPort m := rfl
@[simp] theorem State.getRing_modHlt (f : Health → Health) (m : Nat) : (s.modHlt f).getRing m = s.getRing m := rfl
@[simp] theorem State.getSite_modHlt (f : Health → Health) (m : Nat) : (s.modHlt f).getSite m = s.getSite m := rfl

/-! ### modBoot -/

@[simp] theorem State.modBoot_boot (f : Boot → Boot) : (s.modBoot f).boot = f s.boot := rfl
@[simp] theorem State.modBoot_pmc (f : Boot → Boot) : (s.modBoot f).pmc = s.pmc := rfl
@[simp] theorem State.modBoot_core (f : Boot → Boot) : (s.modBoot f).core = s.core := rfl
@[simp] theorem State.modBoot_rtr (f : Boot → Boot) : (s.modBoot f).rtr = s.rtr := rfl
@[simp] theorem State.modBoot_quad (f : Boot → Boot) : (s.modBoot f).quad = s.quad := rfl
@[simp] theorem State.modBoot_tile (f : Boot → Boot) : (s.modBoot f).tile = s.tile := rfl
@[simp] theorem State.modBoot_stack (f : Boot → Boot) : (s.modBoot f).stack = s.stack := rfl
@[simp] theorem State.modBoot_port (f : Boot → Boot) : (s.modBoot f).port = s.port := rfl
@[simp] theorem State.modBoot_ring (f : Boot → Boot) : (s.modBoot f).ring = s.ring := rfl
@[simp] theorem State.modBoot_fab (f : Boot → Boot) : (s.modBoot f).fab = s.fab := rfl
@[simp] theorem State.modBoot_site (f : Boot → Boot) : (s.modBoot f).site = s.site := rfl
@[simp] theorem State.modBoot_mesh (f : Boot → Boot) : (s.modBoot f).mesh = s.mesh := rfl
@[simp] theorem State.modBoot_pwr (f : Boot → Boot) : (s.modBoot f).pwr = s.pwr := rfl
@[simp] theorem State.modBoot_clk (f : Boot → Boot) : (s.modBoot f).clk = s.clk := rfl
@[simp] theorem State.modBoot_thm (f : Boot → Boot) : (s.modBoot f).thm = s.thm := rfl
@[simp] theorem State.modBoot_hlt (f : Boot → Boot) : (s.modBoot f).hlt = s.hlt := rfl
@[simp] theorem State.modBoot_sec (f : Boot → Boot) : (s.modBoot f).sec = s.sec := rfl
@[simp] theorem State.modBoot_mtr (f : Boot → Boot) : (s.modBoot f).mtr = s.mtr := rfl
@[simp] theorem State.modBoot_pins (f : Boot → Boot) : (s.modBoot f).pins = s.pins := rfl
@[simp] theorem State.modBoot_mem (f : Boot → Boot) : (s.modBoot f).mem = s.mem := rfl
@[simp] theorem State.modBoot_poison (f : Boot → Boot) : (s.modBoot f).poison = s.poison := rfl
@[simp] theorem State.modBoot_flips (f : Boot → Boot) : (s.modBoot f).flips = s.flips := rfl
@[simp] theorem State.modBoot_undef (f : Boot → Boot) : (s.modBoot f).undef = s.undef := rfl
@[simp] theorem State.modBoot_resp (f : Boot → Boot) : (s.modBoot f).resp = s.resp := rfl
@[simp] theorem State.modBoot_fresh (f : Boot → Boot) : (s.modBoot f).fresh = s.fresh := rfl
@[simp] theorem State.modBoot_pending (f : Boot → Boot) : (s.modBoot f).pending = s.pending := rfl
@[simp] theorem State.getCore_modBoot (f : Boot → Boot) (m : Nat) : (s.modBoot f).getCore m = s.getCore m := rfl
@[simp] theorem State.getRtr_modBoot (f : Boot → Boot) (m : Nat) : (s.modBoot f).getRtr m = s.getRtr m := rfl
@[simp] theorem State.getQuad_modBoot (f : Boot → Boot) (m : Nat) : (s.modBoot f).getQuad m = s.getQuad m := rfl
@[simp] theorem State.getTile_modBoot (f : Boot → Boot) (m : Nat) : (s.modBoot f).getTile m = s.getTile m := rfl
@[simp] theorem State.getStack_modBoot (f : Boot → Boot) (m : Nat) : (s.modBoot f).getStack m = s.getStack m := rfl
@[simp] theorem State.getPort_modBoot (f : Boot → Boot) (m : Nat) : (s.modBoot f).getPort m = s.getPort m := rfl
@[simp] theorem State.getRing_modBoot (f : Boot → Boot) (m : Nat) : (s.modBoot f).getRing m = s.getRing m := rfl
@[simp] theorem State.getSite_modBoot (f : Boot → Boot) (m : Nat) : (s.modBoot f).getSite m = s.getSite m := rfl

/-! ### modSec -/

@[simp] theorem State.modSec_sec (f : Security → Security) : (s.modSec f).sec = f s.sec := rfl
@[simp] theorem State.modSec_pmc (f : Security → Security) : (s.modSec f).pmc = s.pmc := rfl
@[simp] theorem State.modSec_core (f : Security → Security) : (s.modSec f).core = s.core := rfl
@[simp] theorem State.modSec_rtr (f : Security → Security) : (s.modSec f).rtr = s.rtr := rfl
@[simp] theorem State.modSec_quad (f : Security → Security) : (s.modSec f).quad = s.quad := rfl
@[simp] theorem State.modSec_tile (f : Security → Security) : (s.modSec f).tile = s.tile := rfl
@[simp] theorem State.modSec_stack (f : Security → Security) : (s.modSec f).stack = s.stack := rfl
@[simp] theorem State.modSec_port (f : Security → Security) : (s.modSec f).port = s.port := rfl
@[simp] theorem State.modSec_ring (f : Security → Security) : (s.modSec f).ring = s.ring := rfl
@[simp] theorem State.modSec_fab (f : Security → Security) : (s.modSec f).fab = s.fab := rfl
@[simp] theorem State.modSec_site (f : Security → Security) : (s.modSec f).site = s.site := rfl
@[simp] theorem State.modSec_mesh (f : Security → Security) : (s.modSec f).mesh = s.mesh := rfl
@[simp] theorem State.modSec_pwr (f : Security → Security) : (s.modSec f).pwr = s.pwr := rfl
@[simp] theorem State.modSec_clk (f : Security → Security) : (s.modSec f).clk = s.clk := rfl
@[simp] theorem State.modSec_thm (f : Security → Security) : (s.modSec f).thm = s.thm := rfl
@[simp] theorem State.modSec_hlt (f : Security → Security) : (s.modSec f).hlt = s.hlt := rfl
@[simp] theorem State.modSec_boot (f : Security → Security) : (s.modSec f).boot = s.boot := rfl
@[simp] theorem State.modSec_mtr (f : Security → Security) : (s.modSec f).mtr = s.mtr := rfl
@[simp] theorem State.modSec_pins (f : Security → Security) : (s.modSec f).pins = s.pins := rfl
@[simp] theorem State.modSec_mem (f : Security → Security) : (s.modSec f).mem = s.mem := rfl
@[simp] theorem State.modSec_poison (f : Security → Security) : (s.modSec f).poison = s.poison := rfl
@[simp] theorem State.modSec_flips (f : Security → Security) : (s.modSec f).flips = s.flips := rfl
@[simp] theorem State.modSec_undef (f : Security → Security) : (s.modSec f).undef = s.undef := rfl
@[simp] theorem State.modSec_resp (f : Security → Security) : (s.modSec f).resp = s.resp := rfl
@[simp] theorem State.modSec_fresh (f : Security → Security) : (s.modSec f).fresh = s.fresh := rfl
@[simp] theorem State.modSec_pending (f : Security → Security) : (s.modSec f).pending = s.pending := rfl
@[simp] theorem State.getCore_modSec (f : Security → Security) (m : Nat) : (s.modSec f).getCore m = s.getCore m := rfl
@[simp] theorem State.getRtr_modSec (f : Security → Security) (m : Nat) : (s.modSec f).getRtr m = s.getRtr m := rfl
@[simp] theorem State.getQuad_modSec (f : Security → Security) (m : Nat) : (s.modSec f).getQuad m = s.getQuad m := rfl
@[simp] theorem State.getTile_modSec (f : Security → Security) (m : Nat) : (s.modSec f).getTile m = s.getTile m := rfl
@[simp] theorem State.getStack_modSec (f : Security → Security) (m : Nat) : (s.modSec f).getStack m = s.getStack m := rfl
@[simp] theorem State.getPort_modSec (f : Security → Security) (m : Nat) : (s.modSec f).getPort m = s.getPort m := rfl
@[simp] theorem State.getRing_modSec (f : Security → Security) (m : Nat) : (s.modSec f).getRing m = s.getRing m := rfl
@[simp] theorem State.getSite_modSec (f : Security → Security) (m : Nat) : (s.modSec f).getSite m = s.getSite m := rfl

/-! ### modMtr -/

@[simp] theorem State.modMtr_mtr (f : Meter → Meter) : (s.modMtr f).mtr = f s.mtr := rfl
@[simp] theorem State.modMtr_pmc (f : Meter → Meter) : (s.modMtr f).pmc = s.pmc := rfl
@[simp] theorem State.modMtr_core (f : Meter → Meter) : (s.modMtr f).core = s.core := rfl
@[simp] theorem State.modMtr_rtr (f : Meter → Meter) : (s.modMtr f).rtr = s.rtr := rfl
@[simp] theorem State.modMtr_quad (f : Meter → Meter) : (s.modMtr f).quad = s.quad := rfl
@[simp] theorem State.modMtr_tile (f : Meter → Meter) : (s.modMtr f).tile = s.tile := rfl
@[simp] theorem State.modMtr_stack (f : Meter → Meter) : (s.modMtr f).stack = s.stack := rfl
@[simp] theorem State.modMtr_port (f : Meter → Meter) : (s.modMtr f).port = s.port := rfl
@[simp] theorem State.modMtr_ring (f : Meter → Meter) : (s.modMtr f).ring = s.ring := rfl
@[simp] theorem State.modMtr_fab (f : Meter → Meter) : (s.modMtr f).fab = s.fab := rfl
@[simp] theorem State.modMtr_site (f : Meter → Meter) : (s.modMtr f).site = s.site := rfl
@[simp] theorem State.modMtr_mesh (f : Meter → Meter) : (s.modMtr f).mesh = s.mesh := rfl
@[simp] theorem State.modMtr_pwr (f : Meter → Meter) : (s.modMtr f).pwr = s.pwr := rfl
@[simp] theorem State.modMtr_clk (f : Meter → Meter) : (s.modMtr f).clk = s.clk := rfl
@[simp] theorem State.modMtr_thm (f : Meter → Meter) : (s.modMtr f).thm = s.thm := rfl
@[simp] theorem State.modMtr_hlt (f : Meter → Meter) : (s.modMtr f).hlt = s.hlt := rfl
@[simp] theorem State.modMtr_boot (f : Meter → Meter) : (s.modMtr f).boot = s.boot := rfl
@[simp] theorem State.modMtr_sec (f : Meter → Meter) : (s.modMtr f).sec = s.sec := rfl
@[simp] theorem State.modMtr_pins (f : Meter → Meter) : (s.modMtr f).pins = s.pins := rfl
@[simp] theorem State.modMtr_mem (f : Meter → Meter) : (s.modMtr f).mem = s.mem := rfl
@[simp] theorem State.modMtr_poison (f : Meter → Meter) : (s.modMtr f).poison = s.poison := rfl
@[simp] theorem State.modMtr_flips (f : Meter → Meter) : (s.modMtr f).flips = s.flips := rfl
@[simp] theorem State.modMtr_undef (f : Meter → Meter) : (s.modMtr f).undef = s.undef := rfl
@[simp] theorem State.modMtr_resp (f : Meter → Meter) : (s.modMtr f).resp = s.resp := rfl
@[simp] theorem State.modMtr_fresh (f : Meter → Meter) : (s.modMtr f).fresh = s.fresh := rfl
@[simp] theorem State.modMtr_pending (f : Meter → Meter) : (s.modMtr f).pending = s.pending := rfl
@[simp] theorem State.getCore_modMtr (f : Meter → Meter) (m : Nat) : (s.modMtr f).getCore m = s.getCore m := rfl
@[simp] theorem State.getRtr_modMtr (f : Meter → Meter) (m : Nat) : (s.modMtr f).getRtr m = s.getRtr m := rfl
@[simp] theorem State.getQuad_modMtr (f : Meter → Meter) (m : Nat) : (s.modMtr f).getQuad m = s.getQuad m := rfl
@[simp] theorem State.getTile_modMtr (f : Meter → Meter) (m : Nat) : (s.modMtr f).getTile m = s.getTile m := rfl
@[simp] theorem State.getStack_modMtr (f : Meter → Meter) (m : Nat) : (s.modMtr f).getStack m = s.getStack m := rfl
@[simp] theorem State.getPort_modMtr (f : Meter → Meter) (m : Nat) : (s.modMtr f).getPort m = s.getPort m := rfl
@[simp] theorem State.getRing_modMtr (f : Meter → Meter) (m : Nat) : (s.modMtr f).getRing m = s.getRing m := rfl
@[simp] theorem State.getSite_modMtr (f : Meter → Meter) (m : Nat) : (s.modMtr f).getSite m = s.getSite m := rfl

/-! ### answer -/

@[simp] theorem State.answer_pmc (st : Status) (d : List W32) : (s.answer st d).pmc = s.pmc := rfl
@[simp] theorem State.answer_core (st : Status) (d : List W32) : (s.answer st d).core = s.core := rfl
@[simp] theorem State.answer_rtr (st : Status) (d : List W32) : (s.answer st d).rtr = s.rtr := rfl
@[simp] theorem State.answer_quad (st : Status) (d : List W32) : (s.answer st d).quad = s.quad := rfl
@[simp] theorem State.answer_tile (st : Status) (d : List W32) : (s.answer st d).tile = s.tile := rfl
@[simp] theorem State.answer_stack (st : Status) (d : List W32) : (s.answer st d).stack = s.stack := rfl
@[simp] theorem State.answer_port (st : Status) (d : List W32) : (s.answer st d).port = s.port := rfl
@[simp] theorem State.answer_ring (st : Status) (d : List W32) : (s.answer st d).ring = s.ring := rfl
@[simp] theorem State.answer_fab (st : Status) (d : List W32) : (s.answer st d).fab = s.fab := rfl
@[simp] theorem State.answer_site (st : Status) (d : List W32) : (s.answer st d).site = s.site := rfl
@[simp] theorem State.answer_mesh (st : Status) (d : List W32) : (s.answer st d).mesh = s.mesh := rfl
@[simp] theorem State.answer_pwr (st : Status) (d : List W32) : (s.answer st d).pwr = s.pwr := rfl
@[simp] theorem State.answer_clk (st : Status) (d : List W32) : (s.answer st d).clk = s.clk := rfl
@[simp] theorem State.answer_thm (st : Status) (d : List W32) : (s.answer st d).thm = s.thm := rfl
@[simp] theorem State.answer_hlt (st : Status) (d : List W32) : (s.answer st d).hlt = s.hlt := rfl
@[simp] theorem State.answer_boot (st : Status) (d : List W32) : (s.answer st d).boot = s.boot := rfl
@[simp] theorem State.answer_sec (st : Status) (d : List W32) : (s.answer st d).sec = s.sec := rfl
@[simp] theorem State.answer_mtr (st : Status) (d : List W32) : (s.answer st d).mtr = s.mtr := rfl
@[simp] theorem State.answer_pins (st : Status) (d : List W32) : (s.answer st d).pins = s.pins := rfl
@[simp] theorem State.answer_mem (st : Status) (d : List W32) : (s.answer st d).mem = s.mem := rfl
@[simp] theorem State.answer_poison (st : Status) (d : List W32) : (s.answer st d).poison = s.poison := rfl
@[simp] theorem State.answer_flips (st : Status) (d : List W32) : (s.answer st d).flips = s.flips := rfl
@[simp] theorem State.answer_undef (st : Status) (d : List W32) : (s.answer st d).undef = s.undef := rfl
@[simp] theorem State.answer_fresh (st : Status) (d : List W32) : (s.answer st d).fresh = s.fresh := rfl
@[simp] theorem State.answer_pending (st : Status) (d : List W32) : (s.answer st d).pending = s.pending := rfl
@[simp] theorem State.getCore_answer (st : Status) (d : List W32) (m : Nat) : (s.answer st d).getCore m = s.getCore m := rfl
@[simp] theorem State.getRtr_answer (st : Status) (d : List W32) (m : Nat) : (s.answer st d).getRtr m = s.getRtr m := rfl
@[simp] theorem State.getQuad_answer (st : Status) (d : List W32) (m : Nat) : (s.answer st d).getQuad m = s.getQuad m := rfl
@[simp] theorem State.getTile_answer (st : Status) (d : List W32) (m : Nat) : (s.answer st d).getTile m = s.getTile m := rfl
@[simp] theorem State.getStack_answer (st : Status) (d : List W32) (m : Nat) : (s.answer st d).getStack m = s.getStack m := rfl
@[simp] theorem State.getPort_answer (st : Status) (d : List W32) (m : Nat) : (s.answer st d).getPort m = s.getPort m := rfl
@[simp] theorem State.getRing_answer (st : Status) (d : List W32) (m : Nat) : (s.answer st d).getRing m = s.getRing m := rfl
@[simp] theorem State.getSite_answer (st : Status) (d : List W32) (m : Nat) : (s.answer st d).getSite m = s.getSite m := rfl

/-! ### done -/

@[simp] theorem State.done_pmc (st : Nat) : (s.done st).pmc = s.pmc := rfl
@[simp] theorem State.done_core (st : Nat) : (s.done st).core = s.core := rfl
@[simp] theorem State.done_rtr (st : Nat) : (s.done st).rtr = s.rtr := rfl
@[simp] theorem State.done_quad (st : Nat) : (s.done st).quad = s.quad := rfl
@[simp] theorem State.done_tile (st : Nat) : (s.done st).tile = s.tile := rfl
@[simp] theorem State.done_stack (st : Nat) : (s.done st).stack = s.stack := rfl
@[simp] theorem State.done_port (st : Nat) : (s.done st).port = s.port := rfl
@[simp] theorem State.done_ring (st : Nat) : (s.done st).ring = s.ring := rfl
@[simp] theorem State.done_fab (st : Nat) : (s.done st).fab = s.fab := rfl
@[simp] theorem State.done_site (st : Nat) : (s.done st).site = s.site := rfl
@[simp] theorem State.done_mesh (st : Nat) : (s.done st).mesh = s.mesh := rfl
@[simp] theorem State.done_pwr (st : Nat) : (s.done st).pwr = s.pwr := rfl
@[simp] theorem State.done_clk (st : Nat) : (s.done st).clk = s.clk := rfl
@[simp] theorem State.done_thm (st : Nat) : (s.done st).thm = s.thm := rfl
@[simp] theorem State.done_hlt (st : Nat) : (s.done st).hlt = s.hlt := rfl
@[simp] theorem State.done_boot (st : Nat) : (s.done st).boot = s.boot := rfl
@[simp] theorem State.done_sec (st : Nat) : (s.done st).sec = s.sec := rfl
@[simp] theorem State.done_mtr (st : Nat) : (s.done st).mtr = s.mtr := rfl
@[simp] theorem State.done_pins (st : Nat) : (s.done st).pins = s.pins := rfl
@[simp] theorem State.done_mem (st : Nat) : (s.done st).mem = s.mem := rfl
@[simp] theorem State.done_poison (st : Nat) : (s.done st).poison = s.poison := rfl
@[simp] theorem State.done_flips (st : Nat) : (s.done st).flips = s.flips := rfl
@[simp] theorem State.done_undef (st : Nat) : (s.done st).undef = s.undef := rfl
@[simp] theorem State.done_fresh (st : Nat) : (s.done st).fresh = s.fresh := rfl
@[simp] theorem State.done_pending (st : Nat) : (s.done st).pending = s.pending := rfl
@[simp] theorem State.getCore_done (st : Nat) (m : Nat) : (s.done st).getCore m = s.getCore m := rfl
@[simp] theorem State.getRtr_done (st : Nat) (m : Nat) : (s.done st).getRtr m = s.getRtr m := rfl
@[simp] theorem State.getQuad_done (st : Nat) (m : Nat) : (s.done st).getQuad m = s.getQuad m := rfl
@[simp] theorem State.getTile_done (st : Nat) (m : Nat) : (s.done st).getTile m = s.getTile m := rfl
@[simp] theorem State.getStack_done (st : Nat) (m : Nat) : (s.done st).getStack m = s.getStack m := rfl
@[simp] theorem State.getPort_done (st : Nat) (m : Nat) : (s.done st).getPort m = s.getPort m := rfl
@[simp] theorem State.getRing_done (st : Nat) (m : Nat) : (s.done st).getRing m = s.getRing m := rfl
@[simp] theorem State.getSite_done (st : Nat) (m : Nat) : (s.done st).getSite m = s.getSite m := rfl

/-! ### write -/

@[simp] theorem State.write_pmc (a : Nat) (bs : List Byte) : (s.write a bs).pmc = s.pmc := rfl
@[simp] theorem State.write_core (a : Nat) (bs : List Byte) : (s.write a bs).core = s.core := rfl
@[simp] theorem State.write_rtr (a : Nat) (bs : List Byte) : (s.write a bs).rtr = s.rtr := rfl
@[simp] theorem State.write_quad (a : Nat) (bs : List Byte) : (s.write a bs).quad = s.quad := rfl
@[simp] theorem State.write_tile (a : Nat) (bs : List Byte) : (s.write a bs).tile = s.tile := rfl
@[simp] theorem State.write_stack (a : Nat) (bs : List Byte) : (s.write a bs).stack = s.stack := rfl
@[simp] theorem State.write_port (a : Nat) (bs : List Byte) : (s.write a bs).port = s.port := rfl
@[simp] theorem State.write_ring (a : Nat) (bs : List Byte) : (s.write a bs).ring = s.ring := rfl
@[simp] theorem State.write_fab (a : Nat) (bs : List Byte) : (s.write a bs).fab = s.fab := rfl
@[simp] theorem State.write_site (a : Nat) (bs : List Byte) : (s.write a bs).site = s.site := rfl
@[simp] theorem State.write_mesh (a : Nat) (bs : List Byte) : (s.write a bs).mesh = s.mesh := rfl
@[simp] theorem State.write_pwr (a : Nat) (bs : List Byte) : (s.write a bs).pwr = s.pwr := rfl
@[simp] theorem State.write_clk (a : Nat) (bs : List Byte) : (s.write a bs).clk = s.clk := rfl
@[simp] theorem State.write_thm (a : Nat) (bs : List Byte) : (s.write a bs).thm = s.thm := rfl
@[simp] theorem State.write_hlt (a : Nat) (bs : List Byte) : (s.write a bs).hlt = s.hlt := rfl
@[simp] theorem State.write_boot (a : Nat) (bs : List Byte) : (s.write a bs).boot = s.boot := rfl
@[simp] theorem State.write_sec (a : Nat) (bs : List Byte) : (s.write a bs).sec = s.sec := rfl
@[simp] theorem State.write_mtr (a : Nat) (bs : List Byte) : (s.write a bs).mtr = s.mtr := rfl
@[simp] theorem State.write_pins (a : Nat) (bs : List Byte) : (s.write a bs).pins = s.pins := rfl
@[simp] theorem State.write_resp (a : Nat) (bs : List Byte) : (s.write a bs).resp = s.resp := rfl
@[simp] theorem State.write_fresh (a : Nat) (bs : List Byte) : (s.write a bs).fresh = s.fresh := rfl
@[simp] theorem State.write_pending (a : Nat) (bs : List Byte) : (s.write a bs).pending = s.pending := rfl
@[simp] theorem State.getCore_write (a : Nat) (bs : List Byte) (m : Nat) : (s.write a bs).getCore m = s.getCore m := rfl
@[simp] theorem State.getRtr_write (a : Nat) (bs : List Byte) (m : Nat) : (s.write a bs).getRtr m = s.getRtr m := rfl
@[simp] theorem State.getQuad_write (a : Nat) (bs : List Byte) (m : Nat) : (s.write a bs).getQuad m = s.getQuad m := rfl
@[simp] theorem State.getTile_write (a : Nat) (bs : List Byte) (m : Nat) : (s.write a bs).getTile m = s.getTile m := rfl
@[simp] theorem State.getStack_write (a : Nat) (bs : List Byte) (m : Nat) : (s.write a bs).getStack m = s.getStack m := rfl
@[simp] theorem State.getPort_write (a : Nat) (bs : List Byte) (m : Nat) : (s.write a bs).getPort m = s.getPort m := rfl
@[simp] theorem State.getRing_write (a : Nat) (bs : List Byte) (m : Nat) : (s.write a bs).getRing m = s.getRing m := rfl
@[simp] theorem State.getSite_write (a : Nat) (bs : List Byte) (m : Nat) : (s.write a bs).getSite m = s.getSite m := rfl

/-! ### mark -/

@[simp] theorem State.mark_pmc (a n : Nat) : (s.mark a n).pmc = s.pmc := rfl
@[simp] theorem State.mark_core (a n : Nat) : (s.mark a n).core = s.core := rfl
@[simp] theorem State.mark_rtr (a n : Nat) : (s.mark a n).rtr = s.rtr := rfl
@[simp] theorem State.mark_quad (a n : Nat) : (s.mark a n).quad = s.quad := rfl
@[simp] theorem State.mark_tile (a n : Nat) : (s.mark a n).tile = s.tile := rfl
@[simp] theorem State.mark_stack (a n : Nat) : (s.mark a n).stack = s.stack := rfl
@[simp] theorem State.mark_port (a n : Nat) : (s.mark a n).port = s.port := rfl
@[simp] theorem State.mark_ring (a n : Nat) : (s.mark a n).ring = s.ring := rfl
@[simp] theorem State.mark_fab (a n : Nat) : (s.mark a n).fab = s.fab := rfl
@[simp] theorem State.mark_site (a n : Nat) : (s.mark a n).site = s.site := rfl
@[simp] theorem State.mark_mesh (a n : Nat) : (s.mark a n).mesh = s.mesh := rfl
@[simp] theorem State.mark_pwr (a n : Nat) : (s.mark a n).pwr = s.pwr := rfl
@[simp] theorem State.mark_clk (a n : Nat) : (s.mark a n).clk = s.clk := rfl
@[simp] theorem State.mark_thm (a n : Nat) : (s.mark a n).thm = s.thm := rfl
@[simp] theorem State.mark_hlt (a n : Nat) : (s.mark a n).hlt = s.hlt := rfl
@[simp] theorem State.mark_boot (a n : Nat) : (s.mark a n).boot = s.boot := rfl
@[simp] theorem State.mark_sec (a n : Nat) : (s.mark a n).sec = s.sec := rfl
@[simp] theorem State.mark_mtr (a n : Nat) : (s.mark a n).mtr = s.mtr := rfl
@[simp] theorem State.mark_pins (a n : Nat) : (s.mark a n).pins = s.pins := rfl
@[simp] theorem State.mark_mem (a n : Nat) : (s.mark a n).mem = s.mem := rfl
@[simp] theorem State.mark_flips (a n : Nat) : (s.mark a n).flips = s.flips := rfl
@[simp] theorem State.mark_undef (a n : Nat) : (s.mark a n).undef = s.undef := rfl
@[simp] theorem State.mark_resp (a n : Nat) : (s.mark a n).resp = s.resp := rfl
@[simp] theorem State.mark_fresh (a n : Nat) : (s.mark a n).fresh = s.fresh := rfl
@[simp] theorem State.mark_pending (a n : Nat) : (s.mark a n).pending = s.pending := rfl
@[simp] theorem State.getCore_mark (a n : Nat) (m : Nat) : (s.mark a n).getCore m = s.getCore m := rfl
@[simp] theorem State.getRtr_mark (a n : Nat) (m : Nat) : (s.mark a n).getRtr m = s.getRtr m := rfl
@[simp] theorem State.getQuad_mark (a n : Nat) (m : Nat) : (s.mark a n).getQuad m = s.getQuad m := rfl
@[simp] theorem State.getTile_mark (a n : Nat) (m : Nat) : (s.mark a n).getTile m = s.getTile m := rfl
@[simp] theorem State.getStack_mark (a n : Nat) (m : Nat) : (s.mark a n).getStack m = s.getStack m := rfl
@[simp] theorem State.getPort_mark (a n : Nat) (m : Nat) : (s.mark a n).getPort m = s.getPort m := rfl
@[simp] theorem State.getRing_mark (a n : Nat) (m : Nat) : (s.mark a n).getRing m = s.getRing m := rfl
@[simp] theorem State.getSite_mark (a n : Nat) (m : Nat) : (s.mark a n).getSite m = s.getSite m := rfl

/-! ### unmark -/

@[simp] theorem State.unmark_pmc (a n : Nat) : (s.unmark a n).pmc = s.pmc := rfl
@[simp] theorem State.unmark_core (a n : Nat) : (s.unmark a n).core = s.core := rfl
@[simp] theorem State.unmark_rtr (a n : Nat) : (s.unmark a n).rtr = s.rtr := rfl
@[simp] theorem State.unmark_quad (a n : Nat) : (s.unmark a n).quad = s.quad := rfl
@[simp] theorem State.unmark_tile (a n : Nat) : (s.unmark a n).tile = s.tile := rfl
@[simp] theorem State.unmark_stack (a n : Nat) : (s.unmark a n).stack = s.stack := rfl
@[simp] theorem State.unmark_port (a n : Nat) : (s.unmark a n).port = s.port := rfl
@[simp] theorem State.unmark_ring (a n : Nat) : (s.unmark a n).ring = s.ring := rfl
@[simp] theorem State.unmark_fab (a n : Nat) : (s.unmark a n).fab = s.fab := rfl
@[simp] theorem State.unmark_site (a n : Nat) : (s.unmark a n).site = s.site := rfl
@[simp] theorem State.unmark_mesh (a n : Nat) : (s.unmark a n).mesh = s.mesh := rfl
@[simp] theorem State.unmark_pwr (a n : Nat) : (s.unmark a n).pwr = s.pwr := rfl
@[simp] theorem State.unmark_clk (a n : Nat) : (s.unmark a n).clk = s.clk := rfl
@[simp] theorem State.unmark_thm (a n : Nat) : (s.unmark a n).thm = s.thm := rfl
@[simp] theorem State.unmark_hlt (a n : Nat) : (s.unmark a n).hlt = s.hlt := rfl
@[simp] theorem State.unmark_boot (a n : Nat) : (s.unmark a n).boot = s.boot := rfl
@[simp] theorem State.unmark_sec (a n : Nat) : (s.unmark a n).sec = s.sec := rfl
@[simp] theorem State.unmark_mtr (a n : Nat) : (s.unmark a n).mtr = s.mtr := rfl
@[simp] theorem State.unmark_pins (a n : Nat) : (s.unmark a n).pins = s.pins := rfl
@[simp] theorem State.unmark_mem (a n : Nat) : (s.unmark a n).mem = s.mem := rfl
@[simp] theorem State.unmark_undef (a n : Nat) : (s.unmark a n).undef = s.undef := rfl
@[simp] theorem State.unmark_resp (a n : Nat) : (s.unmark a n).resp = s.resp := rfl
@[simp] theorem State.unmark_fresh (a n : Nat) : (s.unmark a n).fresh = s.fresh := rfl
@[simp] theorem State.unmark_pending (a n : Nat) : (s.unmark a n).pending = s.pending := rfl
@[simp] theorem State.getCore_unmark (a n : Nat) (m : Nat) : (s.unmark a n).getCore m = s.getCore m := rfl
@[simp] theorem State.getRtr_unmark (a n : Nat) (m : Nat) : (s.unmark a n).getRtr m = s.getRtr m := rfl
@[simp] theorem State.getQuad_unmark (a n : Nat) (m : Nat) : (s.unmark a n).getQuad m = s.getQuad m := rfl
@[simp] theorem State.getTile_unmark (a n : Nat) (m : Nat) : (s.unmark a n).getTile m = s.getTile m := rfl
@[simp] theorem State.getStack_unmark (a n : Nat) (m : Nat) : (s.unmark a n).getStack m = s.getStack m := rfl
@[simp] theorem State.getPort_unmark (a n : Nat) (m : Nat) : (s.unmark a n).getPort m = s.getPort m := rfl
@[simp] theorem State.getRing_unmark (a n : Nat) (m : Nat) : (s.unmark a n).getRing m = s.getRing m := rfl
@[simp] theorem State.getSite_unmark (a n : Nat) (m : Nat) : (s.unmark a n).getSite m = s.getSite m := rfl

@[simp] theorem State.answer_resp (st : Status) (d : List W32) : (s.answer st d).resp = { status := st, data := d } := rfl
@[simp] theorem State.done_resp (st : Nat) : (s.done st).resp = { status := BitVec.ofNat 16 st } := rfl
@[simp] theorem State.write_mem (a : Nat) (bs : List Byte) : (s.write a bs).mem = memWrite s.mem a bs := rfl

/-! ### forget and free values -/

@[simp] theorem State.forget_pmc (a n : Nat) : (s.forget a n).pmc = s.pmc := by unfold State.forget; split <;> rfl
@[simp] theorem State.free_pmc : s.free.2.pmc = s.pmc := rfl
@[simp] theorem State.choose_pmc (p n : Nat) : (s.choose p n).2.pmc = s.pmc := rfl
@[simp] theorem State.forget_core (a n : Nat) : (s.forget a n).core = s.core := by unfold State.forget; split <;> rfl
@[simp] theorem State.free_core : s.free.2.core = s.core := rfl
@[simp] theorem State.choose_core (p n : Nat) : (s.choose p n).2.core = s.core := rfl
@[simp] theorem State.forget_rtr (a n : Nat) : (s.forget a n).rtr = s.rtr := by unfold State.forget; split <;> rfl
@[simp] theorem State.free_rtr : s.free.2.rtr = s.rtr := rfl
@[simp] theorem State.choose_rtr (p n : Nat) : (s.choose p n).2.rtr = s.rtr := rfl
@[simp] theorem State.forget_quad (a n : Nat) : (s.forget a n).quad = s.quad := by unfold State.forget; split <;> rfl
@[simp] theorem State.free_quad : s.free.2.quad = s.quad := rfl
@[simp] theorem State.choose_quad (p n : Nat) : (s.choose p n).2.quad = s.quad := rfl
@[simp] theorem State.forget_tile (a n : Nat) : (s.forget a n).tile = s.tile := by unfold State.forget; split <;> rfl
@[simp] theorem State.free_tile : s.free.2.tile = s.tile := rfl
@[simp] theorem State.choose_tile (p n : Nat) : (s.choose p n).2.tile = s.tile := rfl
@[simp] theorem State.forget_stack (a n : Nat) : (s.forget a n).stack = s.stack := by unfold State.forget; split <;> rfl
@[simp] theorem State.free_stack : s.free.2.stack = s.stack := rfl
@[simp] theorem State.choose_stack (p n : Nat) : (s.choose p n).2.stack = s.stack := rfl
@[simp] theorem State.forget_port (a n : Nat) : (s.forget a n).port = s.port := by unfold State.forget; split <;> rfl
@[simp] theorem State.free_port : s.free.2.port = s.port := rfl
@[simp] theorem State.choose_port (p n : Nat) : (s.choose p n).2.port = s.port := rfl
@[simp] theorem State.forget_ring (a n : Nat) : (s.forget a n).ring = s.ring := by unfold State.forget; split <;> rfl
@[simp] theorem State.free_ring : s.free.2.ring = s.ring := rfl
@[simp] theorem State.choose_ring (p n : Nat) : (s.choose p n).2.ring = s.ring := rfl
@[simp] theorem State.forget_fab (a n : Nat) : (s.forget a n).fab = s.fab := by unfold State.forget; split <;> rfl
@[simp] theorem State.free_fab : s.free.2.fab = s.fab := rfl
@[simp] theorem State.choose_fab (p n : Nat) : (s.choose p n).2.fab = s.fab := rfl
@[simp] theorem State.forget_site (a n : Nat) : (s.forget a n).site = s.site := by unfold State.forget; split <;> rfl
@[simp] theorem State.free_site : s.free.2.site = s.site := rfl
@[simp] theorem State.choose_site (p n : Nat) : (s.choose p n).2.site = s.site := rfl
@[simp] theorem State.forget_mesh (a n : Nat) : (s.forget a n).mesh = s.mesh := by unfold State.forget; split <;> rfl
@[simp] theorem State.free_mesh : s.free.2.mesh = s.mesh := rfl
@[simp] theorem State.choose_mesh (p n : Nat) : (s.choose p n).2.mesh = s.mesh := rfl
@[simp] theorem State.forget_pwr (a n : Nat) : (s.forget a n).pwr = s.pwr := by unfold State.forget; split <;> rfl
@[simp] theorem State.free_pwr : s.free.2.pwr = s.pwr := rfl
@[simp] theorem State.choose_pwr (p n : Nat) : (s.choose p n).2.pwr = s.pwr := rfl
@[simp] theorem State.forget_clk (a n : Nat) : (s.forget a n).clk = s.clk := by unfold State.forget; split <;> rfl
@[simp] theorem State.free_clk : s.free.2.clk = s.clk := rfl
@[simp] theorem State.choose_clk (p n : Nat) : (s.choose p n).2.clk = s.clk := rfl
@[simp] theorem State.forget_thm (a n : Nat) : (s.forget a n).thm = s.thm := by unfold State.forget; split <;> rfl
@[simp] theorem State.free_thm : s.free.2.thm = s.thm := rfl
@[simp] theorem State.choose_thm (p n : Nat) : (s.choose p n).2.thm = s.thm := rfl
@[simp] theorem State.forget_hlt (a n : Nat) : (s.forget a n).hlt = s.hlt := by unfold State.forget; split <;> rfl
@[simp] theorem State.free_hlt : s.free.2.hlt = s.hlt := rfl
@[simp] theorem State.choose_hlt (p n : Nat) : (s.choose p n).2.hlt = s.hlt := rfl
@[simp] theorem State.forget_boot (a n : Nat) : (s.forget a n).boot = s.boot := by unfold State.forget; split <;> rfl
@[simp] theorem State.free_boot : s.free.2.boot = s.boot := rfl
@[simp] theorem State.choose_boot (p n : Nat) : (s.choose p n).2.boot = s.boot := rfl
@[simp] theorem State.forget_sec (a n : Nat) : (s.forget a n).sec = s.sec := by unfold State.forget; split <;> rfl
@[simp] theorem State.free_sec : s.free.2.sec = s.sec := rfl
@[simp] theorem State.choose_sec (p n : Nat) : (s.choose p n).2.sec = s.sec := rfl
@[simp] theorem State.forget_mtr (a n : Nat) : (s.forget a n).mtr = s.mtr := by unfold State.forget; split <;> rfl
@[simp] theorem State.free_mtr : s.free.2.mtr = s.mtr := rfl
@[simp] theorem State.choose_mtr (p n : Nat) : (s.choose p n).2.mtr = s.mtr := rfl
@[simp] theorem State.forget_pins (a n : Nat) : (s.forget a n).pins = s.pins := by unfold State.forget; split <;> rfl
@[simp] theorem State.free_pins : s.free.2.pins = s.pins := rfl
@[simp] theorem State.choose_pins (p n : Nat) : (s.choose p n).2.pins = s.pins := rfl
@[simp] theorem State.forget_mem (a n : Nat) : (s.forget a n).mem = s.mem := by unfold State.forget; split <;> rfl
@[simp] theorem State.free_mem : s.free.2.mem = s.mem := rfl
@[simp] theorem State.choose_mem (p n : Nat) : (s.choose p n).2.mem = s.mem := rfl
@[simp] theorem State.forget_poison (a n : Nat) : (s.forget a n).poison = s.poison := by unfold State.forget; split <;> rfl
@[simp] theorem State.free_poison : s.free.2.poison = s.poison := rfl
@[simp] theorem State.choose_poison (p n : Nat) : (s.choose p n).2.poison = s.poison := rfl
@[simp] theorem State.forget_flips (a n : Nat) : (s.forget a n).flips = s.flips := by unfold State.forget; split <;> rfl
@[simp] theorem State.free_flips : s.free.2.flips = s.flips := rfl
@[simp] theorem State.choose_flips (p n : Nat) : (s.choose p n).2.flips = s.flips := rfl
@[simp] theorem State.forget_resp (a n : Nat) : (s.forget a n).resp = s.resp := by unfold State.forget; split <;> rfl
@[simp] theorem State.free_resp : s.free.2.resp = s.resp := rfl
@[simp] theorem State.choose_resp (p n : Nat) : (s.choose p n).2.resp = s.resp := rfl
@[simp] theorem State.forget_pending (a n : Nat) : (s.forget a n).pending = s.pending := by unfold State.forget; split <;> rfl
@[simp] theorem State.free_pending : s.free.2.pending = s.pending := rfl
@[simp] theorem State.choose_pending (p n : Nat) : (s.choose p n).2.pending = s.pending := rfl

/-! ### Work cells and composites -/

@[simp] theorem State.getWork_modWork_same (w : Nat) (f : Work → Work) : (s.modWork w f).getWork w = f (s.getWork w) :=
  tget_tset_same ..
theorem State.getWork_modWork (w v : Nat) (f : Work → Work) :
    (s.modWork w f).getWork v = if v = w then f (s.getWork w) else s.getWork v := tget_tset ..
@[simp] theorem State.getWork_setWork_same (w : Nat) (c : Work) : (s.setWork w c).getWork w = c := tget_tset_same ..
@[simp] theorem State.getComp_modComp_same (e : Nat) (f : Ccb → Ccb) : (s.modComp e f).getComp e = f (s.getComp e) :=
  tget_tset_same ..
theorem State.getComp_modComp (e d : Nat) (f : Ccb → Ccb) :
    (s.modComp e f).getComp d = if d = e then f (s.getComp e) else s.getComp d := tget_tset ..

@[simp] theorem State.setWork_core (w : Nat) (c : Work) : (s.setWork w c).core = s.core := rfl
@[simp] theorem State.setWork_rtr (w : Nat) (c : Work) : (s.setWork w c).rtr = s.rtr := rfl
@[simp] theorem State.setWork_quad (w : Nat) (c : Work) : (s.setWork w c).quad = s.quad := rfl
@[simp] theorem State.setWork_tile (w : Nat) (c : Work) : (s.setWork w c).tile = s.tile := rfl
@[simp] theorem State.setWork_stack (w : Nat) (c : Work) : (s.setWork w c).stack = s.stack := rfl
@[simp] theorem State.setWork_port (w : Nat) (c : Work) : (s.setWork w c).port = s.port := rfl
@[simp] theorem State.setWork_ring (w : Nat) (c : Work) : (s.setWork w c).ring = s.ring := rfl
@[simp] theorem State.setWork_fab (w : Nat) (c : Work) : (s.setWork w c).fab = s.fab := rfl
@[simp] theorem State.setWork_site (w : Nat) (c : Work) : (s.setWork w c).site = s.site := rfl
@[simp] theorem State.setWork_mesh (w : Nat) (c : Work) : (s.setWork w c).mesh = s.mesh := rfl
@[simp] theorem State.setWork_pwr (w : Nat) (c : Work) : (s.setWork w c).pwr = s.pwr := rfl
@[simp] theorem State.setWork_clk (w : Nat) (c : Work) : (s.setWork w c).clk = s.clk := rfl
@[simp] theorem State.setWork_thm (w : Nat) (c : Work) : (s.setWork w c).thm = s.thm := rfl
@[simp] theorem State.setWork_hlt (w : Nat) (c : Work) : (s.setWork w c).hlt = s.hlt := rfl
@[simp] theorem State.setWork_boot (w : Nat) (c : Work) : (s.setWork w c).boot = s.boot := rfl
@[simp] theorem State.setWork_sec (w : Nat) (c : Work) : (s.setWork w c).sec = s.sec := rfl
@[simp] theorem State.setWork_mtr (w : Nat) (c : Work) : (s.setWork w c).mtr = s.mtr := rfl
@[simp] theorem State.setWork_pins (w : Nat) (c : Work) : (s.setWork w c).pins = s.pins := rfl
@[simp] theorem State.setWork_mem (w : Nat) (c : Work) : (s.setWork w c).mem = s.mem := rfl
@[simp] theorem State.setWork_poison (w : Nat) (c : Work) : (s.setWork w c).poison = s.poison := rfl
@[simp] theorem State.setWork_flips (w : Nat) (c : Work) : (s.setWork w c).flips = s.flips := rfl
@[simp] theorem State.setWork_undef (w : Nat) (c : Work) : (s.setWork w c).undef = s.undef := rfl
@[simp] theorem State.setWork_resp (w : Nat) (c : Work) : (s.setWork w c).resp = s.resp := rfl
@[simp] theorem State.setWork_fresh (w : Nat) (c : Work) : (s.setWork w c).fresh = s.fresh := rfl
@[simp] theorem State.setWork_pending (w : Nat) (c : Work) : (s.setWork w c).pending = s.pending := rfl
@[simp] theorem State.getCore_setWork (w : Nat) (c : Work) (m : Nat) : (s.setWork w c).getCore m = s.getCore m := rfl
@[simp] theorem State.getRtr_setWork (w : Nat) (c : Work) (m : Nat) : (s.setWork w c).getRtr m = s.getRtr m := rfl
@[simp] theorem State.getQuad_setWork (w : Nat) (c : Work) (m : Nat) : (s.setWork w c).getQuad m = s.getQuad m := rfl
@[simp] theorem State.getTile_setWork (w : Nat) (c : Work) (m : Nat) : (s.setWork w c).getTile m = s.getTile m := rfl
@[simp] theorem State.getStack_setWork (w : Nat) (c : Work) (m : Nat) : (s.setWork w c).getStack m = s.getStack m := rfl
@[simp] theorem State.getPort_setWork (w : Nat) (c : Work) (m : Nat) : (s.setWork w c).getPort m = s.getPort m := rfl
@[simp] theorem State.getRing_setWork (w : Nat) (c : Work) (m : Nat) : (s.setWork w c).getRing m = s.getRing m := rfl
@[simp] theorem State.getSite_setWork (w : Nat) (c : Work) (m : Nat) : (s.setWork w c).getSite m = s.getSite m := rfl

@[simp] theorem State.modWork_core (w : Nat) (f : Work → Work) : (s.modWork w f).core = s.core := rfl
@[simp] theorem State.modWork_rtr (w : Nat) (f : Work → Work) : (s.modWork w f).rtr = s.rtr := rfl
@[simp] theorem State.modWork_quad (w : Nat) (f : Work → Work) : (s.modWork w f).quad = s.quad := rfl
@[simp] theorem State.modWork_tile (w : Nat) (f : Work → Work) : (s.modWork w f).tile = s.tile := rfl
@[simp] theorem State.modWork_stack (w : Nat) (f : Work → Work) : (s.modWork w f).stack = s.stack := rfl
@[simp] theorem State.modWork_port (w : Nat) (f : Work → Work) : (s.modWork w f).port = s.port := rfl
@[simp] theorem State.modWork_ring (w : Nat) (f : Work → Work) : (s.modWork w f).ring = s.ring := rfl
@[simp] theorem State.modWork_fab (w : Nat) (f : Work → Work) : (s.modWork w f).fab = s.fab := rfl
@[simp] theorem State.modWork_site (w : Nat) (f : Work → Work) : (s.modWork w f).site = s.site := rfl
@[simp] theorem State.modWork_mesh (w : Nat) (f : Work → Work) : (s.modWork w f).mesh = s.mesh := rfl
@[simp] theorem State.modWork_pwr (w : Nat) (f : Work → Work) : (s.modWork w f).pwr = s.pwr := rfl
@[simp] theorem State.modWork_clk (w : Nat) (f : Work → Work) : (s.modWork w f).clk = s.clk := rfl
@[simp] theorem State.modWork_thm (w : Nat) (f : Work → Work) : (s.modWork w f).thm = s.thm := rfl
@[simp] theorem State.modWork_hlt (w : Nat) (f : Work → Work) : (s.modWork w f).hlt = s.hlt := rfl
@[simp] theorem State.modWork_boot (w : Nat) (f : Work → Work) : (s.modWork w f).boot = s.boot := rfl
@[simp] theorem State.modWork_sec (w : Nat) (f : Work → Work) : (s.modWork w f).sec = s.sec := rfl
@[simp] theorem State.modWork_mtr (w : Nat) (f : Work → Work) : (s.modWork w f).mtr = s.mtr := rfl
@[simp] theorem State.modWork_pins (w : Nat) (f : Work → Work) : (s.modWork w f).pins = s.pins := rfl
@[simp] theorem State.modWork_mem (w : Nat) (f : Work → Work) : (s.modWork w f).mem = s.mem := rfl
@[simp] theorem State.modWork_poison (w : Nat) (f : Work → Work) : (s.modWork w f).poison = s.poison := rfl
@[simp] theorem State.modWork_flips (w : Nat) (f : Work → Work) : (s.modWork w f).flips = s.flips := rfl
@[simp] theorem State.modWork_undef (w : Nat) (f : Work → Work) : (s.modWork w f).undef = s.undef := rfl
@[simp] theorem State.modWork_resp (w : Nat) (f : Work → Work) : (s.modWork w f).resp = s.resp := rfl
@[simp] theorem State.modWork_fresh (w : Nat) (f : Work → Work) : (s.modWork w f).fresh = s.fresh := rfl
@[simp] theorem State.modWork_pending (w : Nat) (f : Work → Work) : (s.modWork w f).pending = s.pending := rfl
@[simp] theorem State.getCore_modWork (w : Nat) (f : Work → Work) (m : Nat) : (s.modWork w f).getCore m = s.getCore m := rfl
@[simp] theorem State.getRtr_modWork (w : Nat) (f : Work → Work) (m : Nat) : (s.modWork w f).getRtr m = s.getRtr m := rfl
@[simp] theorem State.getQuad_modWork (w : Nat) (f : Work → Work) (m : Nat) : (s.modWork w f).getQuad m = s.getQuad m := rfl
@[simp] theorem State.getTile_modWork (w : Nat) (f : Work → Work) (m : Nat) : (s.modWork w f).getTile m = s.getTile m := rfl
@[simp] theorem State.getStack_modWork (w : Nat) (f : Work → Work) (m : Nat) : (s.modWork w f).getStack m = s.getStack m := rfl
@[simp] theorem State.getPort_modWork (w : Nat) (f : Work → Work) (m : Nat) : (s.modWork w f).getPort m = s.getPort m := rfl
@[simp] theorem State.getRing_modWork (w : Nat) (f : Work → Work) (m : Nat) : (s.modWork w f).getRing m = s.getRing m := rfl
@[simp] theorem State.getSite_modWork (w : Nat) (f : Work → Work) (m : Nat) : (s.modWork w f).getSite m = s.getSite m := rfl

@[simp] theorem State.setComp_core (e : Nat) (c : Ccb) : (s.setComp e c).core = s.core := rfl
@[simp] theorem State.setComp_rtr (e : Nat) (c : Ccb) : (s.setComp e c).rtr = s.rtr := rfl
@[simp] theorem State.setComp_quad (e : Nat) (c : Ccb) : (s.setComp e c).quad = s.quad := rfl
@[simp] theorem State.setComp_tile (e : Nat) (c : Ccb) : (s.setComp e c).tile = s.tile := rfl
@[simp] theorem State.setComp_stack (e : Nat) (c : Ccb) : (s.setComp e c).stack = s.stack := rfl
@[simp] theorem State.setComp_port (e : Nat) (c : Ccb) : (s.setComp e c).port = s.port := rfl
@[simp] theorem State.setComp_ring (e : Nat) (c : Ccb) : (s.setComp e c).ring = s.ring := rfl
@[simp] theorem State.setComp_fab (e : Nat) (c : Ccb) : (s.setComp e c).fab = s.fab := rfl
@[simp] theorem State.setComp_site (e : Nat) (c : Ccb) : (s.setComp e c).site = s.site := rfl
@[simp] theorem State.setComp_mesh (e : Nat) (c : Ccb) : (s.setComp e c).mesh = s.mesh := rfl
@[simp] theorem State.setComp_pwr (e : Nat) (c : Ccb) : (s.setComp e c).pwr = s.pwr := rfl
@[simp] theorem State.setComp_clk (e : Nat) (c : Ccb) : (s.setComp e c).clk = s.clk := rfl
@[simp] theorem State.setComp_thm (e : Nat) (c : Ccb) : (s.setComp e c).thm = s.thm := rfl
@[simp] theorem State.setComp_hlt (e : Nat) (c : Ccb) : (s.setComp e c).hlt = s.hlt := rfl
@[simp] theorem State.setComp_boot (e : Nat) (c : Ccb) : (s.setComp e c).boot = s.boot := rfl
@[simp] theorem State.setComp_sec (e : Nat) (c : Ccb) : (s.setComp e c).sec = s.sec := rfl
@[simp] theorem State.setComp_mtr (e : Nat) (c : Ccb) : (s.setComp e c).mtr = s.mtr := rfl
@[simp] theorem State.setComp_pins (e : Nat) (c : Ccb) : (s.setComp e c).pins = s.pins := rfl
@[simp] theorem State.setComp_mem (e : Nat) (c : Ccb) : (s.setComp e c).mem = s.mem := rfl
@[simp] theorem State.setComp_poison (e : Nat) (c : Ccb) : (s.setComp e c).poison = s.poison := rfl
@[simp] theorem State.setComp_flips (e : Nat) (c : Ccb) : (s.setComp e c).flips = s.flips := rfl
@[simp] theorem State.setComp_undef (e : Nat) (c : Ccb) : (s.setComp e c).undef = s.undef := rfl
@[simp] theorem State.setComp_resp (e : Nat) (c : Ccb) : (s.setComp e c).resp = s.resp := rfl
@[simp] theorem State.setComp_fresh (e : Nat) (c : Ccb) : (s.setComp e c).fresh = s.fresh := rfl
@[simp] theorem State.setComp_pending (e : Nat) (c : Ccb) : (s.setComp e c).pending = s.pending := rfl
@[simp] theorem State.getCore_setComp (e : Nat) (c : Ccb) (m : Nat) : (s.setComp e c).getCore m = s.getCore m := rfl
@[simp] theorem State.getRtr_setComp (e : Nat) (c : Ccb) (m : Nat) : (s.setComp e c).getRtr m = s.getRtr m := rfl
@[simp] theorem State.getQuad_setComp (e : Nat) (c : Ccb) (m : Nat) : (s.setComp e c).getQuad m = s.getQuad m := rfl
@[simp] theorem State.getTile_setComp (e : Nat) (c : Ccb) (m : Nat) : (s.setComp e c).getTile m = s.getTile m := rfl
@[simp] theorem State.getStack_setComp (e : Nat) (c : Ccb) (m : Nat) : (s.setComp e c).getStack m = s.getStack m := rfl
@[simp] theorem State.getPort_setComp (e : Nat) (c : Ccb) (m : Nat) : (s.setComp e c).getPort m = s.getPort m := rfl
@[simp] theorem State.getRing_setComp (e : Nat) (c : Ccb) (m : Nat) : (s.setComp e c).getRing m = s.getRing m := rfl
@[simp] theorem State.getSite_setComp (e : Nat) (c : Ccb) (m : Nat) : (s.setComp e c).getSite m = s.getSite m := rfl

@[simp] theorem State.modComp_core (e : Nat) (f : Ccb → Ccb) : (s.modComp e f).core = s.core := rfl
@[simp] theorem State.modComp_rtr (e : Nat) (f : Ccb → Ccb) : (s.modComp e f).rtr = s.rtr := rfl
@[simp] theorem State.modComp_quad (e : Nat) (f : Ccb → Ccb) : (s.modComp e f).quad = s.quad := rfl
@[simp] theorem State.modComp_tile (e : Nat) (f : Ccb → Ccb) : (s.modComp e f).tile = s.tile := rfl
@[simp] theorem State.modComp_stack (e : Nat) (f : Ccb → Ccb) : (s.modComp e f).stack = s.stack := rfl
@[simp] theorem State.modComp_port (e : Nat) (f : Ccb → Ccb) : (s.modComp e f).port = s.port := rfl
@[simp] theorem State.modComp_ring (e : Nat) (f : Ccb → Ccb) : (s.modComp e f).ring = s.ring := rfl
@[simp] theorem State.modComp_fab (e : Nat) (f : Ccb → Ccb) : (s.modComp e f).fab = s.fab := rfl
@[simp] theorem State.modComp_site (e : Nat) (f : Ccb → Ccb) : (s.modComp e f).site = s.site := rfl
@[simp] theorem State.modComp_mesh (e : Nat) (f : Ccb → Ccb) : (s.modComp e f).mesh = s.mesh := rfl
@[simp] theorem State.modComp_pwr (e : Nat) (f : Ccb → Ccb) : (s.modComp e f).pwr = s.pwr := rfl
@[simp] theorem State.modComp_clk (e : Nat) (f : Ccb → Ccb) : (s.modComp e f).clk = s.clk := rfl
@[simp] theorem State.modComp_thm (e : Nat) (f : Ccb → Ccb) : (s.modComp e f).thm = s.thm := rfl
@[simp] theorem State.modComp_hlt (e : Nat) (f : Ccb → Ccb) : (s.modComp e f).hlt = s.hlt := rfl
@[simp] theorem State.modComp_boot (e : Nat) (f : Ccb → Ccb) : (s.modComp e f).boot = s.boot := rfl
@[simp] theorem State.modComp_sec (e : Nat) (f : Ccb → Ccb) : (s.modComp e f).sec = s.sec := rfl
@[simp] theorem State.modComp_mtr (e : Nat) (f : Ccb → Ccb) : (s.modComp e f).mtr = s.mtr := rfl
@[simp] theorem State.modComp_pins (e : Nat) (f : Ccb → Ccb) : (s.modComp e f).pins = s.pins := rfl
@[simp] theorem State.modComp_mem (e : Nat) (f : Ccb → Ccb) : (s.modComp e f).mem = s.mem := rfl
@[simp] theorem State.modComp_poison (e : Nat) (f : Ccb → Ccb) : (s.modComp e f).poison = s.poison := rfl
@[simp] theorem State.modComp_flips (e : Nat) (f : Ccb → Ccb) : (s.modComp e f).flips = s.flips := rfl
@[simp] theorem State.modComp_undef (e : Nat) (f : Ccb → Ccb) : (s.modComp e f).undef = s.undef := rfl
@[simp] theorem State.modComp_resp (e : Nat) (f : Ccb → Ccb) : (s.modComp e f).resp = s.resp := rfl
@[simp] theorem State.modComp_fresh (e : Nat) (f : Ccb → Ccb) : (s.modComp e f).fresh = s.fresh := rfl
@[simp] theorem State.modComp_pending (e : Nat) (f : Ccb → Ccb) : (s.modComp e f).pending = s.pending := rfl
@[simp] theorem State.getCore_modComp (e : Nat) (f : Ccb → Ccb) (m : Nat) : (s.modComp e f).getCore m = s.getCore m := rfl
@[simp] theorem State.getRtr_modComp (e : Nat) (f : Ccb → Ccb) (m : Nat) : (s.modComp e f).getRtr m = s.getRtr m := rfl
@[simp] theorem State.getQuad_modComp (e : Nat) (f : Ccb → Ccb) (m : Nat) : (s.modComp e f).getQuad m = s.getQuad m := rfl
@[simp] theorem State.getTile_modComp (e : Nat) (f : Ccb → Ccb) (m : Nat) : (s.modComp e f).getTile m = s.getTile m := rfl
@[simp] theorem State.getStack_modComp (e : Nat) (f : Ccb → Ccb) (m : Nat) : (s.modComp e f).getStack m = s.getStack m := rfl
@[simp] theorem State.getPort_modComp (e : Nat) (f : Ccb → Ccb) (m : Nat) : (s.modComp e f).getPort m = s.getPort m := rfl
@[simp] theorem State.getRing_modComp (e : Nat) (f : Ccb → Ccb) (m : Nat) : (s.modComp e f).getRing m = s.getRing m := rfl
@[simp] theorem State.getSite_modComp (e : Nat) (f : Ccb → Ccb) (m : Nat) : (s.modComp e f).getSite m = s.getSite m := rfl

end Sys2Proof.Machine
end

