-- ==== Sys2Proof/Laws/Ops.lean ====
section
/-! SUPPORT. The laws of the shared operations: the parts each may change, what it changes there, and that each keeps
memory in its canonical form. -/

namespace Sys2Proof.Machine

/-! ### Only -/

theorem Part.same_refl (p : Part) (s : State) : p.same s s := by cases p <;> rfl

theorem Part.same_trans {p : Part} {s t u : State} (h : p.same s t) (h' : p.same t u) : p.same s u := by
  revert h h'
  cases p <;> simp only [Part.same] <;> intro h h' <;> rw [h', h]

theorem only_refl (ps : List Part) (s : State) : Only ps s s := fun p _ => p.same_refl s

theorem only_trans {ps : List Part} {s t u : State} (h : Only ps s t) (h' : Only ps t u) : Only ps s u :=
  fun p hp => Part.same_trans (h p hp) (h' p hp)

theorem only_mono {ps qs : List Part} {s t : State} (h : Only ps s t) (hs : ∀ p ∈ ps, p ∈ qs) : Only qs s t :=
  fun p hp => h p fun hq => hp (hs p hq)

/-- A loop changes the parts that its body may change. -/
theorem only_foldl {α : Type} {ps : List Part} (f : State → α → State) (h : ∀ s a, Only ps s (f s a)) (l : List α)
    (s : State) : Only ps s (l.foldl f s) := by
  induction l generalizing s with
  | nil => exact only_refl ps s
  | cons a r ih => exact only_trans (h s a) (ih (f s a))

theorem only_each {ps : List Part} (f : State → Nat → State) (h : ∀ s n, Only ps s (f s n)) (l : List Nat) (s : State) :
    Only ps s (s.each l f) := only_foldl f h l s

/-- A loop keeps what its body keeps. -/
theorem foldl_keeps {α : Type} {P : State → Prop} (f : State → α → State) (h : ∀ s a, P s → P (f s a)) (l : List α)
    (s : State) (hs : P s) : P (l.foldl f s) := by
  induction l generalizing s with
  | nil => exact hs
  | cons a r ih => exact ih (f s a) (h s a hs)

theorem each_keeps {P : State → Prop} (f : State → Nat → State) (h : ∀ s n, P s → P (f s n)) (l : List Nat) (s : State)
    (hs : P s) : P (s.each l f) := foldl_keeps f h l s hs

/-! ### One unit -/

section units

variable (s : State) (n : Nat)

theorem only_setCore (v : Core) : Only [.core] s (s.setCore n v) := by
  intro p hp; cases p <;> first | rfl | simp at hp
theorem only_setRtr (v : Router) : Only [.rtr] s (s.setRtr n v) := by
  intro p hp; cases p <;> first | rfl | simp at hp
theorem only_setQuad (v : Quad) : Only [.quad] s (s.setQuad n v) := by
  intro p hp; cases p <;> first | rfl | simp at hp
theorem only_setTile (v : Tile) : Only [.tile] s (s.setTile n v) := by
  intro p hp; cases p <;> first | rfl | simp at hp
theorem only_setStack (v : Stack) : Only [.stack] s (s.setStack n v) := by
  intro p hp; cases p <;> first | rfl | simp at hp
theorem only_setPort (v : Port) : Only [.port] s (s.setPort n v) := by
  intro p hp; cases p <;> first | rfl | simp at hp
theorem only_setRing (v : Ring) : Only [.ring] s (s.setRing n v) := by
  intro p hp; cases p <;> first | rfl | simp at hp
theorem only_setSite (v : Site) : Only [.site] s (s.setSite n v) := by
  intro p hp; cases p <;> first | rfl | simp at hp
theorem only_setWork (v : Work) : Only [.pmc] s (s.setWork n v) := by
  intro p hp; cases p <;> first | rfl | simp at hp
theorem only_setComp (v : Ccb) : Only [.pmc] s (s.setComp n v) := by
  intro p hp; cases p <;> first | rfl | simp at hp
theorem only_modPmc (f : Pmc → Pmc) : Only [.pmc] s (s.modPmc f) := by
  intro p hp; cases p <;> first | rfl | simp at hp
theorem only_setRow (v : Row) : Only [.hlt] s (s.setRow n v) := by
  intro p hp; cases p <;> first | rfl | simp at hp
theorem only_answer (st : Status) (d : List W32) : Only [.resp] s (s.answer st d) := by
  intro p hp; cases p <;> first | rfl | simp at hp

end units

/-! ### Contact Sheet rows (R392) -/

theorem only_rowState (s : State) (r st why : Nat) : Only [.hlt] s (s.rowState r st why) := by
  unfold State.rowState
  dsimp only
  split
  · exact only_refl _ s
  · exact only_setRow _ _ _

/-- The row takes its STATE and REASON, and no other row changes. -/
theorem row_rowState (s : State) (r st why k : Nat) :
    ((s.rowState r st why).row k).state = (if k = r then st else (s.row k).state) ∧
      ((s.rowState r st why).row k).reason = (if k = r then why else (s.row k).reason) ∧
      ((s.rowState r st why).row k).attempts = (s.row k).attempts ∧
      (k ≠ r → (s.rowState r st why).row k = s.row k) := by
  unfold State.rowState
  dsimp only
  by_cases hc : (s.row r).state = st ∧ (s.row r).reason = why
  · rw [if_pos hc]
    by_cases h : k = r
    · subst h
      simp [hc]
    · simp [h]
  · rw [if_neg hc]
    by_cases h : k = r
    · subst h
      simp [State.row, State.setRow, State.modHlt]
    · simp [State.row, State.setRow, State.modHlt, h]

/-! ### Faults (R31, R32, R52) -/

theorem only_latch (s s0 : State) (l : List (CellId × W32)) : Only [.pmc] s (s.latch s0 l) := by
  refine only_foldl _ (fun s e => ?_) l s
  split
  · exact only_setComp _ _ _
  · exact only_refl _ s

theorem only_voidFrame (s : State) (w : Nat) : Only [.pmc] s (s.voidFrame w) := only_setWork _ _ _

theorem only_setFault (s : State) (n bit : Nat) : Only [.core, .pmc] s (s.setFault n bit) :=
  only_trans (only_mono (only_setCore _ _ _) (by simp)) (only_mono (only_latch _ _ _) (by simp))

theorem only_fault (s : State) (n bit : Nat) : Only [.core, .pmc] s (s.fault n bit) := by
  unfold State.fault
  dsimp only
  split
  · exact only_trans (only_setFault _ _ _) (only_mono (only_each _ only_voidFrame _ _) (by simp))
  · exact only_setFault _ _ _

/-- The bit sets in core `n`, as the CCB's own rule says, and no other core changes. -/
theorem getCore_fault (s : State) (n bit m : Nat) : (s.fault n bit).getCore m = if m = n then
    { s.getCore n with ccb := (s.getCore n).ccb.raise (s.ccbId (.core n)) s.frame32 bit } else s.getCore m := by
  have hl (u s0 : State) (l) : (u.latch s0 l).core = u.core := only_latch u s0 l .core (by simp)
  have he (u : State) (l) : (u.each l State.voidFrame).core = u.core := only_each _ only_voidFrame l u .core (by simp)
  have h0 : (s.setFault n bit).core = (s.setCore n { s.getCore n with
      ccb := (s.getCore n).ccb.raise (s.ccbId (.core n)) s.frame32 bit }).core := hl _ _ _
  have h : (s.fault n bit).core = (s.setCore n { s.getCore n with
      ccb := (s.getCore n).ccb.raise (s.ccbId (.core n)) s.frame32 bit }).core := by
    unfold State.fault
    dsimp only
    split
    · rw [he, h0]
    · exact h0
  unfold State.getCore at h ⊢
  rw [h]
  exact State.getCore_setCore ..

theorem only_relatch (s s0 : State) (l : List CellId) : Only [.pmc] s (s.relatch s0 l) := by
  refine only_foldl _ (fun s c => ?_) l s
  split
  · split
    · exact only_setComp _ _ _
    · exact only_refl _ s
  · exact only_refl _ s

theorem only_faultEach (s : State) (l : List (Nat × Nat)) : Only [.core, .pmc] s (s.faultEach l) :=
  only_trans (only_foldl _ (fun s e => only_fault s e.1 e.2) l s) (only_mono (only_relatch _ _ _) (by simp))

theorem only_faultAll (s : State) (l : List Nat) (bit : Nat) : Only [.core, .pmc] s (s.faultAll l bit) :=
  only_faultEach _ _

theorem only_component (s : State) (row : Nat) : Only [.pmc] s (s.component row) := by
  have h (u : State) (e : Nat) (f) (l) : Only [.pmc] u ((u.modComp e f).latch u l) :=
    only_trans (only_setComp _ _ _) (only_latch _ _ _)
  unfold State.component
  split
  · exact h _ _ _ _
  · exact h _ _ _ _

theorem only_rowFault (s : State) (row st why : Nat) : Only [.hlt, .pmc] s (s.rowFault row st why) :=
  only_trans (only_mono (only_rowState _ _ _ _) (by simp)) (only_mono (only_component _ _) (by simp))

/-! ### Semaphores, tokens and rejected descriptors (R35, R78, R174) -/

theorem only_modCore (s : State) (n : Nat) (f : Core → Core) : Only [.core] s (s.modCore n f) := only_setCore _ _ _

theorem only_countCore (s : State) (n off k : Nat) : Only [.core] s (s.countCore n off k) := only_setCore _ _ _

theorem only_semAdd (s : State) (n sem inc : Nat) : Only [.core, .pmc] s (s.semAdd n sem inc) := by
  have hc (u : State) (m : Nat) (c : Core) : Only [.core, .pmc] u (u.setCore m c) := only_mono (only_setCore _ _ _) (by simp)
  unfold State.semAdd
  dsimp only
  split
  · exact hc _ _ _
  · split
    · exact hc _ _ _
    · exact only_trans (only_trans (only_trans (hc _ _ _) (hc _ _ _)) (hc _ _ _)) (only_fault _ _ _)

/-- The count grows by INC up to 65,535, and no other semaphore of the core changes. -/
theorem sem_semAdd (s : State) (n sem inc k : Nat) : tget ((s.semAdd n sem inc).getCore n).scr.sem k 0 =
    if k = sem then min (tget (s.getCore n).scr.sem sem 0 + inc) 65535 else tget (s.getCore n).scr.sem k 0 := by
  unfold State.semAdd
  dsimp only
  split
  · simp only [State.getCore_setCore_same, tget_tset, sat]
  · split
    · simp only [State.getCore_setCore_same, tget_tset, sat]
    · rw [getCore_fault, if_pos rfl]
      simp only [State.countCore, State.getCore_modCore_same, State.getCore_setCore_same, tget_tset, sat]

theorem only_signal (s : State) (n w : Nat) : Only [.core, .pmc] s (s.signal n w) := by
  unfold State.signal
  split
  · exact only_semAdd _ _ _ _
  · exact only_refl _ s

/-! ### Stops (R75, R78, R176) -/

theorem only_countHolds (s : State) (n : Nat) : Only [.core] s (s.countHolds n) := by
  unfold State.countHolds
  dsimp only
  split
  · exact only_trans (only_countCore _ _ _ _) (only_modCore _ _ _)
  · exact only_foldl _ (fun s e => only_countCore s _ _ _) _ s

/-- A hold that ends without an issue leaves other cores alone. -/
theorem getCore_countHolds (s : State) (n m : Nat) (h : m ≠ n) : (s.countHolds n).getCore m = s.getCore m := by
  unfold State.countHolds
  dsimp only
  split
  · simp only [State.slipped, State.countCore, State.getCore_modCore, if_neg h]
  · have hl (l : List (Nat × Nat)) (u : State) : (l.foldl (fun s e => s.countCore n e.1 e.2) u).getCore m = u.getCore m := by
      induction l generalizing u with
      | nil => rfl
      | cons e r ih => rw [List.foldl_cons, ih]; simp only [State.countCore, State.getCore_modCore, if_neg h]
    exact hl _ s

/-! ### What a read meets (R160, R256) -/

theorem only_uncorrected (s : State) (n : Nat) : Only [.core, .pmc] s (s.uncorrected n) :=
  only_trans (only_mono (only_modCore _ _ _) (by simp)) (only_fault _ _ _)

theorem only_meetWord (s : State) (w : Nat) : Only [.core, .pmc, .stack] s (s.meetWord w) := by
  have hr := only_refl [.core, .pmc, .stack] s
  have hk (h : Nat) (f : Stack → Stack) : Only [.core, .pmc, .stack] s (s.modStack h f) := only_mono (only_setStack _ _ _) (by simp)
  have hc (n i : Nat) (d : Bool) : Only [.core, .pmc, .stack] s (s.meetScratch n i d) := by
    unfold State.meetScratch
    split
    · exact only_trans (only_mono (only_modCore _ _ _) (by simp)) (only_mono (only_uncorrected _ _) (by simp))
    · exact only_mono (only_modCore _ _ _) (by simp)
  unfold State.meetWord
  dsimp only
  repeat' split
  all_goals first | exact hr | exact hk _ _ | exact hc _ _ _

theorem only_meet (s : State) (ws : List Nat) : Only [.core, .pmc, .stack] s (s.meet ws) := by
  unfold State.meet
  split
  · exact only_refl _ s
  · exact only_foldl _ only_meetWord _ s

/-! ### The ports of a scratch (R162 to R165) -/

theorem only_bankWait (s : State) (n k : Nat) : Only [.core] s (s.bankWait n k) := by
  unfold State.bankWait
  split
  · exact only_refl _ s
  · exact only_countCore _ _ _ _

theorem only_logHazard (s : State) (n : Nat) (r w : Touch) : Only [.core] s (s.logHazard n r w) :=
  only_trans (only_countCore _ _ _ _) (only_modCore _ _ _)

theorem only_noteReads (s : State) (n : Nat) (rs : List Touch) : Only [.core] s (s.noteReads n rs) := by
  unfold State.noteReads
  dsimp only
  split
  · exact only_refl _ s
  · exact only_trans (only_foldl _ (fun s r => only_foldl _ (fun s w => only_logHazard s n r w) _ s) rs s) (only_modCore _ _ _)

theorem only_noteWrites (s : State) (n : Nat) (ws : List Touch) : Only [.core] s (s.noteWrites n ws) := by
  unfold State.noteWrites
  dsimp only
  refine only_trans ?_ (only_modCore _ _ _)
  split
  · exact only_refl _ s
  · exact only_foldl _ (fun s w => only_foldl _ (fun s r => only_logHazard s n r w) _ s) ws s

theorem only_keepLog (s : State) (n : Nat) (l : PortLog) : Only [.core] s (s.keepLog n l) := only_modCore _ _ _

theorem only_portWrite (s : State) (n : Nat) (x : Touch) (t0 t1 : Nat) (ws : List Nat) :
    Only [.core] s (s.portWrite n x t0 t1 ws).2 :=
  only_trans (only_trans (only_noteWrites _ _ _) (only_keepLog _ _ _)) (only_bankWait _ _ _)

/-- The words of one entry of a list of reads are met, noted and counted. -/
theorem only_portReads (s : State) (n t0 t1 : Nat) (l : List (Touch × List Nat)) :
    Only [.core, .pmc, .stack] s (s.portReads n t0 t1 l).2.2 := by
  unfold State.portReads
  suffices h : ∀ r : Nat × State × State, Only [.core, .pmc, .stack] s r.2.2 → Only [.core, .pmc, .stack] s (l.foldl _ r).2.2 from
    h (0, s, s) (only_refl _ s)
  intro r hr
  induction l generalizing r with
  | nil => exact hr
  | cons e l ih =>
    refine ih _ (only_trans hr ?_)
    refine only_trans ?_ (only_mono (only_trans (only_trans (only_noteReads _ _ _) (only_keepLog _ _ _)) (only_bankWait _ _ _)) (by simp))
    refine only_trans ?_ (only_meet _ _)
    split
    · exact only_refl _ _
    · exact only_mono (only_countCore _ _ _ _) (by simp)

/-! ### Row pairs of a VE descriptor (R123, R126) -/

theorem only_meetAcc (s : State) (n row : Nat) : Only [.core, .pmc] s (s.meetAcc n row) := by
  unfold State.meetAcc
  dsimp only
  split
  · exact only_refl _ s
  · exact only_trans (only_mono (only_modCore _ _ _) (by simp)) (only_foldl _ (fun s _ => only_uncorrected s n) _ _)

theorem only_meetTb (s : State) (n row : Nat) : Only [.core, .pmc] s (s.meetTb n row) := by
  unfold State.meetTb
  dsimp only
  split
  · exact only_refl _ s
  · exact only_trans (only_mono (only_modCore _ _ _) (by simp)) (only_foldl _ (fun s _ => only_uncorrected s n) _ _)

theorem only_fresh (s : State) (k : Nat) : Only [.fresh] s { s with fresh := k } := by
  intro p hp; cases p <;> first | rfl | simp at hp

theorem only_veRowPair (s : State) (n : Nat) (q : Queued) (tile k p : Nat) :
    Only [.core, .pmc, .stack, .fresh] s (s.veRowPair n q tile k p) := by
  unfold State.veRowPair
  extract_lets d c pack r0 ceff t0 rows js accRows tbRows ecc ra rb a b ls ls' x out poison bad val o s1 s2 s3 late s4
  have ha : Only [.core, .pmc, .stack] s ra.2.2 := by
    show Only _ s (if veSrc d = 3 then _ else _ : Nat × State × State).2.2
    split
    · exact only_portReads _ _ _ _ _
    · exact only_refl _ s
  have hb : Only [.core, .pmc, .stack] ra.2.2 rb.2.2 := by
    show Only _ _ (if veBSrc d = 2 then _ else _ : Nat × State × State).2.2
    split
    · exact only_portReads _ _ _ _ _
    · exact only_refl _ _
  have h1 : Only [.core, .pmc] rb.2.2 s1 :=
    only_trans (only_foldl _ (fun s r => only_meetAcc s n r) _ _) (only_foldl _ (fun s r => only_meetTb s n r) _ _)
  have h2 : Only [.fresh] s1 s2 := by
    show Only _ s1 (if veCols d < 128 then _ else s1)
    split
    · exact only_fresh _ _
    · exact only_refl _ _
  have h3 : Only [.core] s2 s3 := only_trans (only_trans (only_countCore _ _ _ _) (only_countCore _ _ _ _)) (only_countCore _ _ _ _)
  have h4 : Only [.core] s3 s4 := only_modCore _ _ _
  refine only_trans (only_trans (only_trans (only_trans (only_mono (only_trans ha hb) (by simp)) (only_mono h1 (by simp)))
    (only_mono h2 (by simp))) (only_mono (only_trans h3 h4) (by simp))) ?_
  split
  · exact only_mono (only_fault _ _ _) (by simp)
  · exact only_refl _ _

theorem only_veRowNext (s : State) (n : Nat) (till : Option Nat) (p : Nat) :
    Only [.core, .pmc, .stack, .fresh] s (s.veRowNext n till p) := by
  unfold State.veRowNext
  extract_lets c
  split
  · exact only_refl _ s
  · extract_lets t tile
    split
    · exact only_refl _ s
    · exact only_veRowPair _ _ _ _ _ _

theorem only_veRowsTo (s : State) (n : Nat) (till : Option Nat) : Only [.core, .pmc, .stack, .fresh] s (s.veRowsTo n till) := by
  unfold State.veRowsTo
  split
  · exact only_refl _ s
  · exact only_each _ (fun s p => only_veRowNext s n till p) _ s

/-! ### A core that stops, and a descriptor that it rejects (R78) -/

theorem only_countWaits (s : State) (n t : Nat) : Only [.core] s (s.countWaits n t) := by
  unfold State.countWaits
  generalize (s.getCore n).waits t = l
  exact only_foldl (fun (s : State) (e : Nat × Nat) => s.countCore n e.1 e.2) (fun s e => only_countCore s n e.1 e.2) l s

theorem only_haltAt (s : State) (n t : Nat) : Only [.core, .pmc, .stack, .fresh] s (s.haltAt n t) :=
  only_trans (only_veRowsTo _ _ _) (only_mono (only_trans (only_countWaits _ _ _) (only_modCore _ _ _)) (by simp))

theorem only_stopCore (s : State) (n : Nat) : Only [.core, .pmc, .stack, .fresh] s (s.stopCore n) :=
  only_trans (only_mono (only_countHolds _ _) (by simp)) (only_haltAt _ _ _)

theorem only_reject (s : State) (n code w0 idx : Nat) : Only [.core, .pmc, .stack, .fresh] s (s.reject n code w0 idx) := by
  have hf (u : State) (bit : Nat) : Only [.core, .pmc, .stack, .fresh] u (u.fault n bit) := only_mono (only_fault _ _ _) (by simp)
  unfold State.reject
  extract_lets s1 s2
  have h : Only [.core, .pmc, .stack, .fresh] s s2 :=
    only_trans (only_trans (only_haltAt _ _ _) (only_mono (only_trans (only_modCore _ _ _) (only_countCore _ _ _ _)) (by simp)))
      (hf _ _)
  split
  · exact only_trans h (hf _ _)
  · exact h

theorem only_enqueueToken (s : State) (n : Nat) (t : W32) : Only [.core, .pmc] s (s.enqueueToken n t) := by
  unfold State.enqueueToken
  dsimp only
  split
  · exact only_mono (only_setCore _ _ _) (by simp)
  · exact only_trans (only_mono (only_setCore _ _ _) (by simp)) (only_fault _ _ _)

/-! ### Memory (R160, R256, R263) -/

theorem only_write (s : State) (a : Nat) (bs : List Byte) : Only [.mem, .undef, .poison, .flips] s (s.write a bs) := by
  intro p hp; cases p <;> first | rfl | simp at hp
theorem only_mark (s : State) (a n : Nat) : Only [.poison] s (s.mark a n) := by
  intro p hp; cases p <;> first | rfl | simp at hp
theorem only_unmark (s : State) (a n : Nat) : Only [.poison, .flips] s (s.unmark a n) := by
  intro p hp; cases p <;> first | rfl | simp at hp
theorem only_zero (s : State) (a n : Nat) : Only [.mem, .undef, .poison, .flips] s (s.zero a n) := by
  intro p hp; cases p <;> first | rfl | simp at hp
theorem only_forget (s : State) (a n : Nat) : Only [.undef, .fresh] s (s.forget a n) := by
  unfold State.forget
  split
  · exact only_refl _ s
  · intro p hp; cases p <;> first | rfl | simp at hp

theorem only_winPut (s : State) (g o : Nat) (bs : List Byte) :
    Only [.mem, .undef, .poison, .flips, .stack] s (s.winPut g o bs) := by
  unfold State.winPut
  dsimp only
  split
  · exact only_refl _ s
  · exact only_trans (only_mono (only_write _ _ _) (by simp)) (only_mono (only_setStack _ _ _) (by simp))

theorem only_winWrite (s : State) (g o : Nat) (bs : List Byte) :
    Only [.mem, .undef, .poison, .flips, .stack] s (s.winWrite g o bs) := by
  unfold State.winWrite
  dsimp only
  split
  · exact only_winPut _ _ _ _
  · exact only_trans (only_winPut _ _ _ _) (only_winPut _ _ _ _)

theorem only_putBytes (s : State) (a : Nat) (bs : List (Byte × Bool)) :
    Only [.mem, .undef, .poison, .flips, .stack] s (s.putBytes a bs) := by
  have h1 : Only [.mem, .undef, .poison, .flips, .stack] s ((s.write a (bs.map (·.1))).unmark a bs.length) :=
    only_trans (only_mono (only_write _ _ _) (by simp)) (only_mono (only_unmark _ _ _) (by simp))
  have h2 : Only [.mem, .undef, .poison, .flips, .stack] s ((List.range (bs.length / 32)).foldl (fun s i =>
      if ((bs.drop (32 * i)).take 32).any (·.2) then s.mark (a + 32 * i) 32 else s)
      ((s.write a (bs.map (·.1))).unmark a bs.length)) := by
    refine only_trans h1 (only_foldl _ (fun s i => ?_) _ _)
    split
    · exact only_mono (only_mark _ _ _) (by simp)
    · exact only_refl _ s
  unfold State.putBytes
  dsimp only
  split
  · exact only_trans h2 (only_mono (only_setStack _ _ _) (by simp))
  · exact h2

/-! ### Memory keeps its canonical form -/

theorem MemInv_of_mem {s t : State} (h : t.mem = s.mem) (hs : s.MemInv) : t.MemInv := by
  unfold State.MemInv at *
  rw [h]
  exact hs

/-- What does not touch memory keeps its form. -/
theorem MemInv_of_only {ps : List Part} {s t : State} (h : Only ps s t) (hp : Part.mem ∉ ps) (hs : s.MemInv) : t.MemInv :=
  MemInv_of_mem (h .mem hp) hs

theorem MemInv_reset : State.reset.MemInv := rfl

theorem MemInv_write {s : State} (a : Nat) (bs : List Byte) (hs : s.MemInv) : (s.write a bs).MemInv :=
  Memory.wf_memWrite a bs hs

theorem MemInv_zero {s : State} (a n : Nat) (hs : s.MemInv) : (s.zero a n).MemInv := Memory.wf_filter _ hs

theorem MemInv_mark {s : State} (a n : Nat) (hs : s.MemInv) : (s.mark a n).MemInv := hs

theorem MemInv_unmark {s : State} (a n : Nat) (hs : s.MemInv) : (s.unmark a n).MemInv := hs

theorem MemInv_forget {s : State} (a n : Nat) (hs : s.MemInv) : (s.forget a n).MemInv :=
  MemInv_of_only (only_forget s a n) (by simp) hs

theorem MemInv_winPut {s : State} (g o : Nat) (bs : List Byte) (hs : s.MemInv) : (s.winPut g o bs).MemInv := by
  unfold State.winPut
  dsimp only
  split
  · exact hs
  · exact MemInv_write _ _ hs

theorem MemInv_winWrite {s : State} (g o : Nat) (bs : List Byte) (hs : s.MemInv) : (s.winWrite g o bs).MemInv := by
  unfold State.winWrite
  dsimp only
  split
  · exact MemInv_winPut _ _ _ hs
  · exact MemInv_winPut _ _ _ (MemInv_winPut _ _ _ hs)

theorem MemInv_putBytes {s : State} (a : Nat) (bs : List (Byte × Bool)) (hs : s.MemInv) : (s.putBytes a bs).MemInv := by
  have h2 : ((List.range (bs.length / 32)).foldl (fun s i =>
      if ((bs.drop (32 * i)).take 32).any (·.2) then s.mark (a + 32 * i) 32 else s)
      ((s.write a (bs.map (·.1))).unmark a bs.length)).MemInv := by
    refine foldl_keeps (P := State.MemInv) _ (fun s i h => ?_) _ _ (MemInv_unmark _ _ (MemInv_write _ _ hs))
    split
    · exact h
    · exact h
  unfold State.putBytes
  dsimp only
  split
  · exact h2
  · exact h2

theorem MemInv_bufWrite {s : State} (n h o : Nat) (bs : List Byte) (bad : Bool) (hs : s.MemInv) :
    (s.bufWrite n h o bs bad).MemInv := by
  unfold State.bufWrite
  refine each_keeps (P := State.MemInv) _ (fun s i hs => ?_) _ s hs
  dsimp only
  split
  · exact MemInv_mark _ _ (MemInv_write _ _ hs)
  · exact MemInv_write _ _ hs

/-- Bytes written with their poison change memory and its marks alone. -/
theorem only_putMarked (s : State) (l : List (Nat × Byte × Bool)) : Only [.mem, .undef, .poison, .flips] s (s.putMarked l) := by
  unfold State.putMarked
  dsimp only
  refine only_trans (only_trans (only_foldl _ (fun s e => only_write s _ _) l s)
    (only_foldl _ (fun s w => only_mono (only_unmark s _ _) (by simp)) _ _)) (only_foldl _ (fun s e => ?_) l _)
  split
  · exact only_mono (only_mark _ _ _) (by simp)
  · exact only_refl _ s

theorem MemInv_putMarked {s : State} (l : List (Nat × Byte × Bool)) (hs : s.MemInv) : (s.putMarked l).MemInv := by
  unfold State.putMarked
  dsimp only
  refine foldl_keeps (P := State.MemInv) _ (fun s e h => ?_) l _ (foldl_keeps (P := State.MemInv) _
    (fun s w h => MemInv_unmark (s := s) _ _ h) _ _ (foldl_keeps (P := State.MemInv) _ (fun s e h => MemInv_write _ _ h) l s hs))
  split
  · exact h
  · exact h

/-- A byte that two cuts of an undefined range leave is one that lies outside the cut. -/
theorem find_undefCut (u : List (Nat × Nat × Nat)) (lo hi x : Nat) (h : ¬ (lo ≤ x ∧ x < hi)) :
    ((undefCut u lo hi).find? fun r => r.1 ≤ x && x < r.2.1).map (·.2.2) =
      (u.find? fun r => r.1 ≤ x && x < r.2.1).map (·.2.2) := by
  induction u with
  | nil => rfl
  | cons e r ih =>
    obtain ⟨a, b, k⟩ := e
    have hc : undefCut ((a, b, k) :: r) lo hi = (if b ≤ lo || hi ≤ a then [(a, b, k)]
      else (if a < lo then [(a, lo, k)] else []) ++ (if hi < b then [(hi, b, k)] else [])) ++ undefCut r lo hi := rfl
    rw [hc]
    by_cases h1 : a ≤ x ∧ x < b
    · have hr : (((a, b, k) :: r).find? fun r => r.1 ≤ x && x < r.2.1) = some (a, b, k) := by
        simp [h1.1, h1.2]
      rw [hr]
      by_cases hd : b ≤ lo ∨ hi ≤ a
      · have : (b ≤ lo || hi ≤ a) = true := by simpa using hd
        simp [this, h1.1, h1.2]
      · have hd' : (b ≤ lo || hi ≤ a) = false := by simpa using hd
        simp only [hd']
        by_cases hx : x < lo
        · have : a < lo := by omega
          simp [this, h1.1, hx]
        · have hy : hi ≤ x := by omega
          have hb : hi < b := by omega
          have hn : ¬ (a ≤ x ∧ x < lo) := by omega
          by_cases ha : a < lo
          · simp [ha, hb, h1.2, hx, hy]
          · simp [ha, hb, h1.2, hy]
    · have hr : (((a, b, k) :: r).find? fun r => r.1 ≤ x && x < r.2.1) = r.find? fun r => r.1 ≤ x && x < r.2.1 := by
        have : (decide (a ≤ x) && decide (x < b)) = false := by
          simpa [Bool.and_eq_false_iff] using fun h => Nat.le_of_not_lt fun h' => h1 ⟨h, h'⟩
        simp [this]
      rw [hr, ← ih, List.find?_append]
      have : ((if b ≤ lo || hi ≤ a then [(a, b, k)]
          else (if a < lo then [(a, lo, k)] else []) ++ (if hi < b then [(hi, b, k)] else [])).find?
          fun r => r.1 ≤ x && x < r.2.1) = none := by
        simp only [List.find?_eq_none, Bool.and_eq_true, decide_eq_true_eq]
        intro e he
        split at he
        · simp only [List.mem_singleton] at he
          subst he
          exact h1
        · next hd =>
          simp only [Bool.or_eq_true, decide_eq_true_eq] at hd
          simp only [List.mem_append] at he
          rcases he with he | he
          · split at he
            · simp only [List.mem_singleton] at he
              subst he
              simp only
              omega
            · simp at he
          · split at he
            · simp only [List.mem_singleton] at he
              subst he
              simp only
              omega
            · simp at he
      rw [this]
      rfl

/-- No undefined range covers a byte that was cut out. -/
theorem find_undefCut_none (u : List (Nat × Nat × Nat)) (lo hi x : Nat) (h : lo ≤ x ∧ x < hi) :
    ((undefCut u lo hi).find? fun r => r.1 ≤ x && x < r.2.1) = none := by
  simp only [List.find?_eq_none, Bool.and_eq_true, decide_eq_true_eq, undefCut, List.mem_flatMap]
  rintro e ⟨⟨a, b, k⟩, -, he⟩
  split at he
  · next hd =>
    simp only [Bool.or_eq_true, decide_eq_true_eq] at hd
    simp only [List.mem_singleton] at he
    subst he
    simp only
    omega
  · simp only [List.mem_append] at he
    rcases he with he | he
    · split at he
      · simp only [List.mem_singleton] at he
        subst he
        simp only
        omega
      · simp at he
    · split at he
      · simp only [List.mem_singleton] at he
        subst he
        simp only
        omega
      · simp at he

/-- A byte after a write: the byte written, or what it read as before. -/
theorem byte_write (s : State) (a : Nat) (bs : List Byte) (x : Nat) :
    (s.write a bs).byte x = if a ≤ x ∧ x < a + bs.length then bs.getD (x - a) memDefault else s.byte x := by
  unfold State.byte
  have hu : (s.write a bs).undef = undefCut s.undef a (a + bs.length) := rfl
  have hm : (s.write a bs).mem = memWrite s.mem a bs := rfl
  rw [hu, hm]
  by_cases h : a ≤ x ∧ x < a + bs.length
  · rw [find_undefCut_none _ _ _ _ h, if_pos h]
    simp only [memGet_memWrite, if_pos h]
  · have := find_undefCut s.undef a (a + bs.length) x h
    rw [if_neg h]
    cases h1 : (undefCut s.undef a (a + bs.length)).find? (fun r => r.1 ≤ x && x < r.2.1) with
    | none =>
      cases h2 : s.undef.find? (fun r => r.1 ≤ x && x < r.2.1) with
      | none => simp only [memGet_memWrite, if_neg h]
      | some r => rw [h1, h2] at this; simp at this
    | some r =>
      cases h2 : s.undef.find? (fun r => r.1 ≤ x && x < r.2.1) with
      | none => rw [h1, h2] at this; simp at this
      | some r' =>
        rw [h1, h2] at this
        simp only [Option.map_some, Option.some.injEq] at this
        simp only [this]

/-- The bytes written are what reads there. -/
theorem bytes_write (s : State) (a : Nat) (bs : List Byte) : (s.write a bs).bytes a bs.length = bs := by
  unfold State.bytes upTo
  rw [List.map_map]
  apply List.ext_getElem
  · simp
  · intro i h1 h2
    simp only [List.getElem_map, List.getElem_range, Function.comp_apply, byte_write]
    have h3 : a ≤ a + i ∧ a + i < a + bs.length := by omega
    rw [if_pos h3, Nat.add_sub_cancel_left]
    simp [h2]

/-! ### Rings and events (R320, R322, R328, R416) -/

theorem only_ringPut (s : State) (g : Nat) (e : List W32) : Only [.mem, .undef, .poison, .flips, .stack, .site] s (s.ringPut g e) :=
  only_trans (only_mono (only_winWrite _ _ _ _) (by simp)) (only_mono (only_setSite _ _ _) (by simp))

theorem MemInv_ringPut {s : State} (g : Nat) (e : List W32) (hs : s.MemInv) : (s.ringPut g e).MemInv :=
  MemInv_winWrite _ _ _ hs

theorem only_answerOut (s : State) (g : Nat) (e : List W32) : Only [.mem, .undef, .poison, .flips, .stack, .site] s (s.answerOut g e) := by
  unfold State.answerOut
  dsimp only
  split
  · exact only_ringPut _ _ _
  · exact only_mono (only_setSite _ _ _) (by simp)

theorem MemInv_answerOut {s : State} (g : Nat) (e : List W32) (hs : s.MemInv) : (s.answerOut g e).MemInv := by
  unfold State.answerOut
  dsimp only
  split
  · exact MemInv_ringPut _ _ hs
  · exact hs

theorem only_eventAt (s : State) (code : Nat) (e : List W32) (g : Nat) :
    Only [.mem, .undef, .poison, .flips, .stack, .site] s (s.eventAt code e g) := by
  unfold State.eventAt
  dsimp only
  split
  · exact only_refl _ s
  · split
    · exact only_ringPut _ _ _
    · exact only_mono (only_setSite _ _ _) (by simp)

theorem MemInv_eventAt {s : State} (code : Nat) (e : List W32) (g : Nat) (hs : s.MemInv) : (s.eventAt code e g).MemInv := by
  unfold State.eventAt
  dsimp only
  split
  · exact hs
  · split
    · exact MemInv_ringPut _ _ hs
    · exact hs

theorem only_eventOn (s : State) (sites : List Nat) (code : Nat) (subject : W32) (x y : Nat) :
    Only [.mem, .undef, .poison, .flips, .stack, .site, .pins] s (s.eventOn sites code subject x y) := by
  unfold State.eventOn
  extract_lets e u
  have h : Only [.mem, .undef, .poison, .flips, .stack, .site] s u := only_foldl _ (fun s g => only_eventAt s code e g) sites s
  refine only_trans (only_mono h (by simp)) ?_
  intro p hp; cases p <;> first | rfl | simp at hp

theorem MemInv_eventOn {s : State} (sites : List Nat) (code : Nat) (subject : W32) (x y : Nat) (hs : s.MemInv) :
    (s.eventOn sites code subject x y).MemInv :=
  foldl_keeps (P := State.MemInv) _ (fun _ g h => MemInv_eventAt _ _ g h) sites s hs

/-- The event goes to the platform's queue whatever the rings do. -/
theorem told_eventOn (s : State) (sites : List Nat) (code : Nat) (subject : W32) (x y : Nat) :
    Told s (s.eventOn sites code subject x y) code subject x y := by
  have h (u : State) (e : List W32) : (sites.foldl (fun (s : State) g => s.eventAt code e g) u).pins = u.pins :=
    only_foldl (ps := [.mem, .undef, .poison, .flips, .stack, .site]) _ (fun s g => only_eventAt s code e g) sites u .pins (by simp)
  unfold Told State.eventOn
  dsimp only
  rw [h]

theorem only_event (s : State) (code : Nat) (subject : W32) (x y : Nat) :
    Only [.mem, .undef, .poison, .flips, .stack, .site, .pins] s (s.event code subject x y) := only_eventOn _ _ _ _ _ _

theorem MemInv_event {s : State} (code : Nat) (subject : W32) (x y : Nat) (hs : s.MemInv) :
    (s.event code subject x y).MemInv := MemInv_eventOn _ _ _ _ _ hs

theorem told_event (s : State) (code : Nat) (subject : W32) (x y : Nat) : Told s (s.event code subject x y) code subject x y :=
  told_eventOn _ _ _ _ _ _

/-! ### Vilsal commands (R311 to R313) -/

theorem only_close (s : State) (c : Cmd) (st : Nat) (res : List W32) (d : Nat) :
    Only [.pmc, .site, .resp] s (s.close c st res d) :=
  only_trans (only_trans (only_trans (only_mono (only_setSite _ _ _) (by simp)) (only_mono (only_modPmc _ _) (by simp)))
    (only_mono (only_setSite _ _ _) (by simp))) (only_mono (only_answer _ _ _) (by simp))

theorem only_skipUnknown (k : Nat) (s : State) : Only [.pmc, .site, .resp] s (s.skipUnknown k) := by
  induction k generalizing s with
  | zero => exact only_refl _ s
  | succ k ih =>
    unfold State.skipUnknown
    split
    · exact only_refl _ s
    · dsimp only
      split
      · exact only_refl _ s
      · exact only_trans (only_trans (only_mono (only_setSite _ _ _) (by simp)) (only_close _ _ _ _ _)) (ih _)

theorem only_finish (s : State) (c : Cmd) (st : Nat) (res : List W32) (d : Nat) :
    Only [.pmc, .site, .resp] s (s.finish c st res d) :=
  only_trans (only_trans (only_mono (only_setSite _ _ _) (by simp)) (only_close _ _ _ _ _)) (only_skipUnknown _ _)

/-! ### What an idle step may upset (R97, R119, R160, R256) -/

theorem only_plantWord (s : State) (w : Nat) (d : Bool) : Only [.flips] s (s.plantWord w d) := by
  unfold State.plantWord
  split
  · exact only_refl _ s
  · intro p hp
    cases p <;> first | rfl | simp at hp

theorem only_upset (s : State) (kind u i : Nat) (d : Bool) : Only [.core, .tile, .stack, .flips] s (s.upset kind u i d) := by
  unfold State.upset
  dsimp only
  split
  · exact only_mono (only_plantWord _ _ _) (by simp)
  · exact only_mono (only_plantWord _ _ _) (by simp)
  · exact only_mono (only_plantWord _ _ _) (by simp)
  · exact only_mono (only_modCore _ _ _) (by simp)
  · exact only_mono (only_modCore _ _ _) (by simp)
  · exact only_mono (only_modCore _ _ _) (by simp)
  · split
    · exact only_mono (only_setTile _ _ _) (by simp)
    · exact only_refl _ s
  · split
    · exact only_mono (only_setStack _ _ _) (by simp)
    · exact only_refl _ s
  · exact only_refl _ s

theorem only_choose (s : State) (p n : Nat) : Only [.fresh] s (s.choose p n).2 := by
  intro q hq
  cases q <;> first | rfl | simp at hq

theorem only_plant (s : State) : Only [.core, .tile, .stack, .flips, .fresh] s s.plant := by
  have h (u : State) (p n : Nat) : Only [.core, .tile, .stack, .flips, .fresh] u (u.choose p n).2 :=
    only_mono (only_choose u p n) (by simp)
  unfold State.plant
  dsimp only
  exact only_trans (only_trans (only_trans (only_trans (h _ _ _) (h _ _ _)) (h _ _ _)) (h _ _ _))
    (only_mono (only_upset _ _ _ _ _) (by simp))

@[simp] theorem State.plant_pmc (s : State) : s.plant.pmc = s.pmc := only_plant s .pmc (by simp)
@[simp] theorem State.plant_pending (s : State) : s.plant.pending = s.pending := only_plant s .pending (by simp)

/-! ### What a step answers -/

/-- A command whose meaning answers `t` ends in `t`. -/
theorem ends_next {i : Instr} {s t : State} {P : State → Prop} (h : exec i s = .next t) (hp : P t) : Ends i s P := ⟨t, h, hp⟩

/-- The step of a queue's front command is the command's meaning on the rest. -/
theorem step_pending (c : Instr) (q : List Instr) (s : State) :
    step { s with pending := c :: q } = exec c { s with pending := q } := rfl

end Sys2Proof.Machine
end

