-- ==== Sys2Proof/Laws/Vilsal.lean ====
section
/-! SUPPORT. The laws of Vilsal commands: when one runs, and what ending one leaves in its mailbox (R311 to R313). -/

namespace Sys2Proof.Machine

/-! ### Mailboxes -/

@[simp] theorem Mailbox.word_put (m : Mailbox) (i j : Nat) (w : W32) :
    (m.put i w).word j = if j = i then w else m.word j := tget_tset m.words i j w 0

@[simp] theorem Mailbox.owner_put (m : Mailbox) (i : Nat) (w : W32) : (m.put i w).owner = m.owner := rfl

/-- Words put one after another from word `b` on, of which `j` have gone before. -/
theorem word_puts (l : List W32) (m : Mailbox) (b j k : Nat) :
    (((upTo j l.length).zip l).foldl (fun (m : Mailbox) (e : Nat × W32) => m.put (b + e.1) e.2) m).word k =
      if b + j ≤ k ∧ k < b + j + l.length then l.getD (k - (b + j)) 0 else m.word k := by
  induction l generalizing m j with
  | nil =>
    have h : ¬ (b + j ≤ k ∧ k < b + j + ([] : List W32).length) := by simp only [List.length_nil]; omega
    rw [if_neg h, List.zip_nil_right, List.foldl_nil]
  | cons w r ih =>
    have hu : upTo j (w :: r).length = j :: upTo (j + 1) r.length := by
      simp only [upTo, List.length_cons, List.range_succ_eq_map, List.map_cons, List.map_map, Nat.add_zero]
      congr 1
      apply List.map_congr_left
      intro a _
      simp only [Function.comp_apply]
      omega
    rw [hu, List.zip_cons_cons, List.foldl_cons, ih]
    simp only [Mailbox.word_put, List.length_cons]
    by_cases h1 : b + (j + 1) ≤ k ∧ k < b + (j + 1) + r.length
    · have h2 : b + j ≤ k ∧ k < b + j + (r.length + 1) := by omega
      have h3 : k - (b + j) = (k - (b + (j + 1))) + 1 := by omega
      rw [if_pos h1, if_pos h2, h3, List.getD_cons_succ]
    · rw [if_neg h1]
      by_cases h2 : k = b + j
      · have h3 : b + j ≤ k ∧ k < b + j + (r.length + 1) := by omega
        rw [if_pos h2, if_pos h3, h2, Nat.sub_self, List.getD_cons_zero]
      · have h3 : ¬ (b + j ≤ k ∧ k < b + j + (r.length + 1)) := by omega
        rw [if_neg h2, if_neg h3]

theorem owner_puts (l : List (Nat × W32)) (m : Mailbox) (b : Nat) :
    (l.foldl (fun (m : Mailbox) (e : Nat × W32) => m.put (b + e.1) e.2) m).owner = m.owner := by
  induction l generalizing m with
  | nil => rfl
  | cons e r ih => rw [List.foldl_cons, ih, Mailbox.owner_put]

/-- One mailbox changes, and no other. -/
theorem box_modBox (s : State) (g m g' m' : Nat) (f : Mailbox → Mailbox) :
    ((s.modBox g m f).getSite g').box m' =
      if g' = g ∧ m' = m then f ((s.getSite g).box m) else (s.getSite g').box m' := by
  unfold State.modBox
  by_cases hg : g' = g
  · subst hg
    rw [State.getSite_modSite_same]
    simp only [Site.box, tget_tset, true_and]
  · rw [State.getSite_modSite, if_neg hg]
    simp [hg]

/-! ### Ending a command -/

/-- The mailbox of the command, once it is closed. -/
def closedBox (m : Mailbox) (st : Nat) (res : List W32) (d : Nat) : Mailbox :=
  { (((((List.range res.length).zip res).foldl (fun (m : Mailbox) (e : Nat × W32) => m.put (16 + e.1) e.2) m).put 3
      (word [(4 * res.length, 0, 13)])).put 4 (word [(st, 0, 16)])).put 5 (BitVec.ofNat 32 d) with owner := ownDone }

theorem word_closedBox (m : Mailbox) (st : Nat) (res : List W32) (d k : Nat) : (closedBox m st res d).word k =
    if k = 5 then BitVec.ofNat 32 d else if k = 4 then word [(st, 0, 16)] else if k = 3 then word [(4 * res.length, 0, 13)]
    else if 16 ≤ k ∧ k < 16 + res.length then res.getD (k - 16) 0 else m.word k := by
  have hz : List.range res.length = upTo 0 res.length := by simp [upTo]
  have ho (x : Mailbox) (o : Nat) : Mailbox.word { x with owner := o } k = x.word k := rfl
  unfold closedBox
  rw [ho, hz]
  simp only [Mailbox.word_put, word_puts, Nat.add_zero]

theorem box_close (s : State) (c : Cmd) (st : Nat) (res : List W32) (d g m : Nat) :
    ((s.close c st res d).getSite g).box m =
      if g = c.site ∧ m = c.mb then closedBox ((s.getSite c.site).box c.mb) st res d else (s.getSite g).box m := by
  rw [← box_modBox s c.site c.mb g m fun b => closedBox b st res d]
  unfold State.close
  simp only [State.getSite_answer]
  by_cases hg : g = c.site
  · subst hg
    rw [State.getSite_modSite_same]
    rfl
  · rw [State.getSite_modSite, if_neg hg]
    rfl

theorem cmds_close (s : State) (c : Cmd) (st : Nat) (res : List W32) (d : Nat) :
    (s.close c st res d).pmc = { s.pmc with cmds := s.pmc.cmds.erase (c.site, c.mb) } := rfl

/-- Only mailboxes, their interrupts, the queue of commands and the completion change. -/
theorem mailboxOnly_refl (s : State) : MailboxOnly s s := ⟨only_refl _ s, rfl, fun _ => rfl⟩

theorem mailboxOnly_trans {s t u : State} (h : MailboxOnly s t) (h' : MailboxOnly t u) : MailboxOnly s u := by
  refine ⟨only_trans h.1 h'.1, ?_, fun g => ?_⟩
  · rw [h'.2.1, h.2.1]
  · rw [h'.2.2 g, h.2.2 g]

theorem mailboxOnly_stamp (s : State) (c : Cmd) : MailboxOnly s (s.stamp c) := by
  refine ⟨only_mono (only_setSite _ _ _) (by simp), rfl, fun g => ?_⟩
  by_cases hg : g = c.site
  · subst hg
    simp [State.stamp, State.modBox]
  · simp [State.stamp, State.modBox, State.getSite_modSite, hg]

theorem mailboxOnly_close (s : State) (c : Cmd) (st : Nat) (res : List W32) (d : Nat) :
    MailboxOnly s (s.close c st res d) := by
  refine ⟨only_close s c st res d, rfl, fun g => ?_⟩
  unfold State.close
  by_cases hg : g = c.site
  · subst hg
    simp [State.modBox]
  · simp [State.modBox, State.getSite_modSite, hg]

theorem mailboxOnly_skipUnknown (k : Nat) (s : State) : MailboxOnly s (s.skipUnknown k) := by
  induction k generalizing s with
  | zero => exact mailboxOnly_refl s
  | succ k ih =>
    unfold State.skipUnknown
    split
    · exact mailboxOnly_refl s
    · dsimp only
      split
      · exact mailboxOnly_refl s
      · exact mailboxOnly_trans (mailboxOnly_trans (mailboxOnly_stamp _ _) (mailboxOnly_close _ _ _ _ _)) (ih _)

/-- A command ends: nothing but mailboxes, their interrupts, the queue and the completion changes. -/
theorem mailboxOnly_finish (s : State) (c : Cmd) (st : Nat) (res : List W32) (d : Nat) :
    MailboxOnly s (s.finish c st res d) :=
  mailboxOnly_trans (mailboxOnly_trans (mailboxOnly_stamp _ _) (mailboxOnly_close _ _ _ _ _)) (mailboxOnly_skipUnknown _ _)

/-- A mailbox whose OPCODE is known is left alone by the commands of unknown OPCODE. -/
theorem box_skipUnknown (k : Nat) (s : State) (g m : Nat)
    (h : opcodes.contains (bits (((s.getSite g).box m).word 0).toNat 16 16) = true) :
    ((s.skipUnknown k).getSite g).box m = (s.getSite g).box m := by
  induction k generalizing s with
  | zero => rfl
  | succ k ih =>
    unfold State.skipUnknown
    split
    · rfl
    · next e r he =>
      dsimp only
      split
      · rfl
      · next hk =>
        have hne : ¬ (g = (s.cmdAt e.1 e.2).site ∧ m = (s.cmdAt e.1 e.2).mb) := by
          rintro ⟨rfl, rfl⟩
          apply hk
          simp only [Bool.or_eq_true]
          exact .inl h
        have hb : ((((s.stamp (s.cmdAt e.1 e.2)).close (s.cmdAt e.1 e.2) eMboxOpcode [] 0)).getSite g).box m =
            (s.getSite g).box m := by
          rw [box_close, if_neg hne]
          unfold State.stamp
          rw [box_modBox, if_neg hne]
        rw [ih _ (by rw [hb]; exact h), hb]

/-- The answer stands in the mailbox of a command that ends, whatever state it ends in. -/
theorem reply_finish (s u : State) (c : Cmd) (st : Nat) (res : List W32) (d : Nat) (hf : u.pmc.frame = s.pmc.frame)
    (h : opcodes.contains (bits (((u.getSite c.site).box c.mb).word 0).toNat 16 16) = true) :
    Reply s (u.finish c st res d) c st res := by
  have hw (k : Nat) : ((((u.stamp c).close c st res d).getSite c.site).box c.mb).word k =
      if k = 5 then BitVec.ofNat 32 d else if k = 4 then word [(st, 0, 16)] else if k = 3 then word [(4 * res.length, 0, 13)]
      else if 16 ≤ k ∧ k < 16 + res.length then res.getD (k - 16) 0
      else if k = 7 then (u.pmc.frame >>> 32).setWidth 32 else if k = 6 then u.frame32
      else ((u.getSite c.site).box c.mb).word k := by
    rw [box_close, if_pos ⟨rfl, rfl⟩]
    unfold State.stamp
    rw [box_modBox, if_pos ⟨rfl, rfl⟩, word_closedBox]
    simp only [Mailbox.word_put]
  have hb : ((u.finish c st res d).getSite c.site).box c.mb = (((u.stamp c).close c st res d).getSite c.site).box c.mb := by
    refine box_skipUnknown 32 _ _ _ ?_
    rw [hw]
    simpa using h
  unfold Reply
  dsimp only
  rw [hb]
  refine ⟨?_, ?_, ?_, ?_, ?_, ?_⟩
  · rw [box_close, if_pos ⟨rfl, rfl⟩]
    rfl
  · rw [hw]
    simp [word]
  · rw [hw]
    simp [word]
  · rw [hw]
    simp [State.frame32, hf]
  · rw [hw]
    simp [hf]
  · intro k hk
    rw [hw]
    have h1 : ¬ 16 + k = 5 := by omega
    have h2 : ¬ 16 + k = 4 := by omega
    have h3 : ¬ 16 + k = 3 := by omega
    have h4 : 16 ≤ 16 + k ∧ 16 + k < 16 + res.length := by omega
    rw [if_neg h1, if_neg h2, if_neg h3, if_pos h4, Nat.add_sub_cancel_left]

/-! ### Running a command -/

/-- The command at the head runs where its length, its site's state and its reserved fields are right. -/
theorem vilsal_runs {s : State} {g m op : Nat} {rest : List (Nat × Nat)} {mine : Cmd → Bool} {len : Cmd → Nat}
    {masks : List Nat} (k : Cmd → State → State) (hq : s.pmc.cmds = (g, m) :: rest)
    (ho : (s.cmdAt g m).op = op) (hm : mine (s.cmdAt g m) = true) (hr : s.pmc.restarting = false) (hc : s.pmc.copy = none)
    (hl : (s.cmdAt g m).argLen = len (s.cmdAt g m)) (ha : s.allows (s.cmdAt g m) = true)
    (hh : (s.cmdAt g m).headOk = true) (hk : (s.cmdAt g m).argsOk masks = true) :
    s.vilsal op mine len masks k = .next (k (s.cmdAt g m) s) := by
  unfold State.vilsal
  rw [hq]
  simp [due, ho, hm, hr, hc, hl, ha, hh, hk]

/-- What Accepted gives `vilsal_runs`. -/
theorem accepted_runs {i : Instr} {s : State} {c : Cmd} {form : Nat × (Cmd → Bool) × (Cmd → Nat) × List Nat}
    (h : Accepted i s c) (hf : mailboxForm i = some form) (k : Cmd → State → State) :
    s.vilsal form.1 form.2.1 form.2.2.1 form.2.2.2 k = .next (k c s) := by
  obtain ⟨⟨form', hf', ⟨g, m, rest, hq, hc⟩, ho, hm, hr, hcp⟩, hl, ha, hh⟩ := h
  rw [hf] at hf'
  cases hf'
  subst hc
  exact vilsal_runs k hq ho hm hr hcp (hl form hf).1 ha hh (hl form hf).2

/-- The OPCODE of a command that is accepted is known. -/
theorem heads_known {i : Instr} {s : State} {c : Cmd} (h : Heads i s c) :
    opcodes.contains (bits (((s.getSite c.site).box c.mb).word 0).toNat 16 16) = true := by
  obtain ⟨form, hf, ⟨g, m, rest, hq, hc⟩, ho, -⟩ := h
  have : bits (((s.getSite c.site).box c.mb).word 0).toNat 16 16 = form.1 := by
    rw [← ho, hc]
    rfl
  rw [this]
  cases i <;> simp only [mailboxForm, reduceCtorEq, Option.some.injEq] at hf <;> subst hf <;> rfl

end Sys2Proof.Machine
end

