-- ==== Sys2Proof/WellFormed.lean ====
section
/-! DEFINITION. Well-formed commands: every operand that names a unit names one the panel has (R13 to R23, R251, R272,
R305, R370, R391). -/

namespace Sys2Proof

/-- The unit numbers of a cell (R20). -/
def CellId.wf : CellId → Bool
  | .core n => n < 576
  | .die n => n < 288
  | .quad n => n < 96
  | .tile n => n < 24
  | .panel => true
  | .work n => n < 96
  | .hall => true

/-- The two Host Sites' paths (R310). -/
def Path.wf : Path → Bool
  | .bar2 n => n < 2
  | .bar0 n => n < 2
  | .mgmt => true

/-- Cores, reservoir dies, Fabric I/O dies and Host Gates (R15). -/
def UnitId.wf : UnitId → Bool
  | .core n => n < 576
  | .res n => n < 48
  | .fio n => n < 8
  | .gate n => n < 2
  | .mgmt => true

/-- Nodes of the control network that fire (R209). -/
def Node.wf : Node → Bool
  | .quad n => n < 96
  | .fio n => n < 8
  | .gate n => n < 2

/-- The check of a command's unit operands. -/
def Instr.wf : Instr → Bool
  | .tokenInWrite c _ | .ccbResetPlanned c | .ccbResetFatal c | .ccbDoorbellWrite c _ | .doorbellAccept c
  | .ccbFaultClear c _ | .faultMessage c _ => c.wf
  | .tokenMessage c _ d => c.wf && d.val.wf
  | .registerWrite p _ _ _ => p.wf
  | .rtrTblDataWrite r _ | .rtrTblDataRead r | .swapArm r _ | .swapDisarm ⟨r, _⟩ | .bankValidationDone r
  | .beatForward r _ | .phaseSwitch r => r < 576
  | .mailboxDoorbell g m => g < 2 && m < 16
  | .aringTailWrite g _ | .cringHeadWrite g _ => g < 2
  | .dmaGet n | .dmaPut n | .array n | .ve n | .strainerExact n | .strainerPredict n | .strainerKeep n
  | .semWait n | .semSignal n | .slotPhase n | .notice n | .mark n | .endDesc n | .descStreamEnd n
  | .arrayIssueStart n | .weightSwap n | .arrayComplete n | .veRowsStart n | .veRelease n | .veComplete n
  | .strainerBuildStart n | .strainerComplete n | .dmaComplete n _ _ | .endComplete n | .semWaitPass n
  | .pendingSignalSend n _ | .markEntryWrite n _ | .dmaAck n _ _ | .dmaNak n _ _ | .noticeMessage n _ _
  | .fwData n _ _ _ | .fwEnd n _ _ | .fwNack n _ | .fwAck n | .warmSelfTestDone n _ => n < 576
  | .barrierArrival _ n _ _ | .barrierRelease _ ⟨n, _⟩ => n < 576
  | .signalMessage n m _ _ _ => n < 576 && m < 512
  | .shutterArm d _ _ | .heartbeat d _ | .shutterArmTimeout d => d.wf
  | .twinSwitch q l => q < 96 && l < 4
  | .putWrite u | .getRequest u => u.wf
  | .goSend w | .bindInstallDeadline w => w < 96
  | .residentLoadFail w _ => w < 96
  | .quadrantMissLimit q | .quadrantOvercurrentStop q | .unannouncedStep q | .vcoreDroop q | .stretchWithdraw q
  | .quadrantRamp q | .rampStep q _ _ | .efuseTrip q | .efuseProbe q _ | .lossOfLock q | .bracketing q _ _ _ _
  | .marginReplan q _ _ | .oscillatorRelock q => q < 96
  | .phaseShed q p => q < 96 && p < 10
  | .portTrained p _ _ | .portDown p | .loopbackDone p _ | .spanRetrainTimer p | .portPeriodicRetrain p
  | .trainSend p | .fabPut p _ | .getReq p _ | .getResp p _ | .fillReq p _ | .fillResp p _ | .nakResp p _
  | .credit ⟨p, _⟩ _ _ _ | .ident ⟨p, _⟩ _ | .leave ⟨p, _⟩ _ _ | .probe p _ _ | .hallShutter ⟨p, _⟩ _ _ _ _ _
  | .expressBarrier ⟨p, _⟩ _ _ _ | .expressRelease ⟨p, _⟩ _ | .fwFlit ⟨p, _⟩ _ _ _ | .lateTrainDiscard p _ => p < 32
  | .probeTimeout r => r < 16
  | .refreshSlot h | .hbmTempDeadline h | .maintenanceStep h | .maintenanceStepDone h _ => h < 48
  | .cxlMemAccess g _ _ _ _ => g < 2
  | .converterFail t _ | .vfabTFeedTrip t _ => t < 24
  | .hostSiteRailOff g | .siteRetrain g | .sidebandVidMessage g _ | .junctionReport g _ => g < 2
  | .moduleTrained g m _ => g < 2 && m < 8
  | .dieClockLoss d | .dieUngate d | .dieSelfTestDone d _ => d < 288
  | .fanfailChange f _ => f < 2
  | .linkRetrain t l d g => t < 24 && l < 10 && d < 2 && g < 11
  | .linkRetrainDone t l d _ => t < 24 && l < 10 && d < 2
  | .sensorSample l => l.all fun x => x.sensor < 495
  | .memoryTestDone r => r.tests.all (fun x => x.stack < 48) && r.lanes.all fun x => x.tile < 24 && x.link < 10 && x.dir < 2 && x.group < 11
  | .coreTestDone l => l.all fun n => n < 576
  | .recoveryImage b _ => b < 2
  | .getVersion g | .getCapabilities g | .negotiateAlgorithms g _ _ _ | .getDigests g | .getCertificate g _ _ _
  | .challenge g _ _ | .getMeasurements g _ _ _ | .signTranscript g _ | .getPublic g _ | .spdmUnsupported g _ => g < 2
  | .getInfo | .ringSetup | .eventMask | .contactRead | .statsRead | .frameConfig | .cellConfig | .classSet
  | .classGet | .hallForm | .hallLeave | .plateLoad | .plateBind | .plateUnbind | .plateDelete | .keyEnrol
  | .keyRevoke | .hostwinSet | .resSplit | .publish | .fabRebind | .ringRelease | .ringRejoin | .hbmCopy
  | .policySet | .cellForceDark | .cellForceRelease | .cellForceRetire | .spareSet | .linkForceRetire
  | .linkForceRetrain | .linkForceReturn | .clockSet | .marginSet | .powerLimit | .fwUpdate | .fwStatus
  | .meterReadLegal | .meterReadInformative | .jobTag => true
  | .mgmtMessage _ _ _ | .shutter | .developDeadline | .extensionLimit | .stopBath | .drainClose | .heartbeatCheck
  | .hallMasterLoss | .hallFreeRun | .remoteFetchTimeout _ | .hbmCopyDone | .inputValid _ | .inputInvalid _
  | .inputOvercurrent _ | .mainReturn | .inputReconnect _ | .powerFailure _ | .stretchEnd | .stretchLimit
  | .referenceLoss _ | .referenceReturn _ | .fanfailHoldTimer | .inletHoldTimer | .thermalResistanceTick
  | .thermalFlashWrite | .holdExit | .ageingStore | .lockstepMismatch | .commandDeadlineExpiry | .pmcRestartDone
  | .detourCompute | .coldStart _ | .resetReq _ | .getSensorReading _ | .getStateSensorReadings _ | .getPdr _
  | .snapshot _ | .intervalClose _ _ _ | .leverBypass _ _ _ | .leverMeter _ | .cartridgeSwap _
  | .cartridgePowerLoss _ _ _ | .statusFrame _ _ _ _ | .legalFrame _ _ | .linesFrame _ _ _ | .certsFrame _ _
  | .statusTimeout | .cartridgePowerUp _ => true

end Sys2Proof
end

