-- ==== Sys2Proof/Tests/Slice0.lean ====
section
/-! SUPPORT. Tests: ill-formed commands, the effect of single commands on small states, and for each statement's
hypotheses states and operands that meet them. -/

open Sys2Proof Sys2Proof.Machine

namespace Sys2Proof.Tests

/-! ### Small states -/

/-- The reset state but for one core. -/
def withCore (n : Nat) (c : Core) : State := { State.reset with core := [(n, c)] }

/-- A core of which only the CCB matters. -/
def withCcb (n : Nat) (c : Ccb) : State := withCore n { ccb := c }

/-- The reset state but for one Host Site. -/
def withSite (g : Nat) (x : Site) : State := { State.reset with site := [(g, x)] }

/-- The reset state but for one quadrant. -/
def withQuad (q : Nat) (x : Quad) : State := { State.reset with quad := [(q, x)] }

/-- A message of the control network under way. -/
def sends (m : Msg) (s : State) : State := { s with mesh := { s.mesh with net := [m] } }

/-- The state a command answers, if it answers one. -/
def after (i : Instr) (s : State) : State :=
  match exec i s with
  | .next t => t
  | _ => State.reset

/-- Whether it answers one. -/
def goes (i : Instr) (s : State) : Bool :=
  match exec i s with
  | .next _ => true
  | _ => false

/-- A core that resets and one that runs. -/
def twoCores : State := { State.reset with core := [(3, { ccb := { state := .resetting } }), (4, { ccb := { state := .running } }),
  (5, { ccb := { state := .running, inport := List.replicate 16 1 } })] }

/-! ### Ill-formed commands, one for each check -/

theorem test_wf_cells : ([.tokenInWrite (.core 576) 0, .ccbResetPlanned (.die 288), .ccbResetFatal (.quad 96),
    .ccbDoorbellWrite (.tile 24) 0, .doorbellAccept (.work 96), .ccbFaultClear (.core 600) 1, .faultMessage (.core 576) 1,
    .tokenMessage (.core 576) 0 ⟨.panel, false⟩, .tokenMessage .panel 0 ⟨.core 576, false⟩] : List Instr).all (fun i => !i.wf) = true := by
  decide

theorem test_wf_registers : ([.registerWrite (.bar2 2) 0 4 0, .registerWrite (.bar0 2) 0 4 0, .rtrTblDataWrite 576 0,
    .rtrTblDataRead 576, .swapArm 576 0, .swapDisarm ⟨576, 0⟩, .bankValidationDone 576, .beatForward 576 0, .phaseSwitch 576,
    .mailboxDoorbell 2 0, .mailboxDoorbell 0 16, .aringTailWrite 2 0, .cringHeadWrite 2 0] : List Instr).all
      (fun i => !i.wf) = true := by decide

theorem test_wf_descriptors : ([.dmaGet 576, .dmaPut 576, .array 576, .ve 576, .strainerExact 576, .strainerPredict 576,
    .strainerKeep 576, .semWait 576, .semSignal 576, .slotPhase 576, .notice 576, .mark 576, .endDesc 576,
    .descStreamEnd 576] : List Instr).all (fun i => !i.wf) = true := by decide

theorem test_wf_engines : ([.arrayIssueStart 576, .weightSwap 576, .arrayComplete 576, .veRowsStart 576, .veRelease 576,
    .veComplete 576, .strainerBuildStart 576, .strainerComplete 576, .dmaComplete 576 0 0, .endComplete 576,
    .semWaitPass 576, .pendingSignalSend 576 0, .markEntryWrite 576 0, .dmaAck 576 0 ⟨0, false⟩, .dmaNak 576 0 ⟨0, false⟩,
    .warmSelfTestDone 576 true] : List Instr).all (fun i => !i.wf) = true := by decide

theorem test_wf_control : ([.noticeMessage 576 0 ⟨0, false⟩, .fwData 576 0 0 [], .fwEnd 576 0 0, .fwNack 576 [], .fwAck 576,
    .barrierArrival 0 576 1 0, .barrierRelease 0 ⟨576, false⟩, .signalMessage 576 0 1 0 false, .signalMessage 0 512 1 0 false,
    .shutterArm (.quad 96) 0 0, .heartbeat (.fio 8) 0, .shutterArmTimeout (.gate 2), .twinSwitch 96 0,
    .twinSwitch 0 4] : List Instr).all (fun i => !i.wf) = true := by decide

theorem test_wf_mesh_and_frame : ([.putWrite (.core 576), .putWrite (.res 48), .getRequest (.fio 8), .getRequest (.gate 2),
    .goSend 96, .bindInstallDeadline 96, .residentLoadFail 96 0, .quadrantMissLimit 96] : List Instr).all
      (fun i => !i.wf) = true := by decide

theorem test_wf_power : ([.quadrantOvercurrentStop 96, .unannouncedStep 96, .vcoreDroop 96, .stretchWithdraw 96,
    .quadrantRamp 96, .rampStep 96 0 [], .efuseTrip 96, .efuseProbe 96 true, .lossOfLock 96, .bracketing 96 0 0 0 false,
    .marginReplan 96 0 0, .oscillatorRelock 96, .phaseShed 96 0, .phaseShed 0 10, .converterFail 24 .w,
    .vfabTFeedTrip 24 .e, .hostSiteRailOff 2, .siteRetrain 2, .sidebandVidMessage 2 0, .junctionReport 2 0,
    .moduleTrained 2 0 .x64, .moduleTrained 0 8 .x64, .dieClockLoss 288, .dieUngate 288, .dieSelfTestDone 288 true,
    .fanfailChange 2 true] : List Instr).all (fun i => !i.wf) = true := by decide

/-- A PUT of no bytes. -/
def emptyTrain : Train :=
  { vl := 0, op := 1, seq := 0, dest := 0, src := 0, ring := 0, west := false, addr := 0, xid := 0, status := 0, len := 0,
    leaseEnd := 0, pub := false, poison := [], data := [], crcOk := true }

/-- A flit for panel 0 without an error. -/
def goodFlit : Flit := ⟨0, true, false⟩

theorem test_wf_fabric : ([.portTrained 32 .x8 0, .portDown 32, .loopbackDone 32 true, .spanRetrainTimer 32,
    .portPeriodicRetrain 32, .trainSend 32, .fabPut 32 emptyTrain, .getReq 32 emptyTrain, .getResp 32 emptyTrain,
    .fillReq 32 emptyTrain, .fillResp 32 emptyTrain, .nakResp 32 emptyTrain, .credit ⟨32, goodFlit⟩ [] 0 false, .lateTrainDiscard 32 0,
    .ident ⟨32, goodFlit⟩ ⟨0, 0, 0, 0, 0, 0, .x8⟩, .leave ⟨32, goodFlit⟩ 0 0, .probe 32 [] goodFlit, .probeTimeout 16,
    .hallShutter ⟨32, goodFlit⟩ 0 0 ⟨0, 0⟩ 0 0, .expressBarrier ⟨32, goodFlit⟩ 0 0 ⟨0, 0⟩, .expressRelease ⟨32, goodFlit⟩ ⟨0, 0⟩,
    .fwFlit ⟨32, goodFlit⟩ 0 ⟨0, 0, 0⟩ []] : List Instr).all (fun i => !i.wf) = true := by
  decide

theorem test_wf_memory_and_health : ([.refreshSlot 48, .hbmTempDeadline 48, .maintenanceStep 48,
    .maintenanceStepDone 48 true, .cxlMemAccess 2 true 0 0 [], .linkRetrain 24 0 0 0, .linkRetrain 0 10 0 0,
    .linkRetrain 0 0 2 0, .linkRetrain 0 0 0 11, .linkRetrainDone 24 0 0 true, .linkRetrainDone 0 10 0 true,
    .linkRetrainDone 0 0 2 true, .sensorSample [{ sensor := 495, diode := none, ring := none }],
    .memoryTestDone ⟨[⟨48, false, 0, 0, 0, 0⟩], []⟩, .memoryTestDone ⟨[], [⟨24, 0, 0, 0⟩]⟩, .coreTestDone [576],
    .recoveryImage 2 []] : List Instr).all (fun i => !i.wf) = true := by decide

theorem test_wf_security : ([.getVersion 2, .getCapabilities 2, .negotiateAlgorithms 2 0 0 0, .getDigests 2,
    .getCertificate 2 0 0 0, .challenge 2 0 [], .getMeasurements 2 0 false [], .signTranscript 2 0, .getPublic 2 0,
    .spdmUnsupported 2 0] : List Instr).all (fun i => !i.wf) = true := by decide

/-- The largest unit numbers are well formed. -/
theorem test_wf_accepts : ([.tokenInWrite (.core 575) 0, .doorbellAccept (.work 95), .rtrTblDataRead 575,
    .mailboxDoorbell 1 15, .signalMessage 575 511 1 0 false, .putWrite (.res 47), .phaseShed 95 9, .portDown 31,
    .probeTimeout 15, .linkRetrain 23 9 1 10, .dieUngate 287, .moduleTrained 1 7 .x32] : List Instr).all
      Instr.wf = true := by decide

/-! ### Cells -/

theorem witness_TokenWriteToCore :
    ((withCcb 575 { state := .resetting }).getCore 575).ccb.state = .resetting ∧
    (((withCcb 575 { state := .ready }).getCore 575).ccb.state ≠ .resetting ∧ 6 ≤ bits (0x60000000 : W32).toNat 28 4) ∧
    bits (0x01000000 : W32).toNat 24 4 ≠ 0 ∧
    (¬ (6 ≤ bits (0x5000FFFF : W32).toNat 28 4 ∨ bits (0x5000FFFF : W32).toNat 24 4 ≠ 0) ∧
      ((withCcb 0 { state := .running, inport := List.replicate 15 0 }).getCore 0).ccb.inport.length < 16 ∧
      16 ≤ ((withCcb 0 { state := .running, inport := List.replicate 16 0 }).getCore 0).ccb.inport.length) := by decide

theorem witness_TokenWriteToComposite : cellOk (.die 287) = true ∧ State.reset.head (.die 287) = some 574 ∧ 574 < 576 ∧
    cellOk (.tile 23) = true ∧ (State.reset.head (.tile 23)).isSome = true := by decide

/-- A token from core 4 to core `n`, under way. -/
def tokened (n : Nat) : State := sends ⟨7, coreQuad n, coreQuad 4, [twoCores.ccbId (.core n), 0x10000001]⟩ twoCores

theorem witness_TokenMessageToCore :
    (tokened 3).mesh.net.findIdx? (fun x => x.type = 7 && x.src = coreQuad 4 &&
      x.body = [(tokened 3).ccbId (.core 3), 0x10000001]) = some 0 ∧
    ¬ (6 ≤ bits (0x10000001 : W32).toNat 28 4 ∨ bits (0x10000001 : W32).toNat 24 4 ≠ 0) ∧
    bits (0x11000001 : W32).toNat 24 4 ≠ 0 ∧ (twoCores.getCore 3).ccb.state = .resetting ∧ (twoCores.getCore 4).ccb.state ≠ .resetting ∧
    (twoCores.getCore 4).ccb.inport.length < 16 ∧ 16 ≤ (twoCores.getCore 5).ccb.inport.length := by decide

theorem witness_PlannedReset : (twoCores.getCore 3).ccb.state = .resetting ∧
    ((withCcb 575 { resetPending := true }).getCore 575).ccb.resetPending = true ∧
    (twoCores.getCore 4).ccb.state ≠ .resetting := by decide

/-- A work cell of quadrant 0 with a pending doorbell. -/
def dooredCell : State := { State.reset with
  pmc := { State.reset.pmc with work := [(95, { quads := [0] })], comp := [(504, { dbPending := true, cookie := 5 })] } }

theorem witness_DoorbellWrite : State.reset.configured (.work 95) = false ∧
    (twoCores.configured (.core 3) = true ∧ (twoCores.view (.core 3)).state = .resetting) ∧
    (dooredCell.configured (.work 95) = true ∧ (dooredCell.view (.work 95)).state ≠ .resetting ∧
      (dooredCell.ccbOf (.work 95)).dbPending = true) ∧
    (twoCores.configured (.core 4) = true ∧ (twoCores.view (.core 4)).state ≠ .resetting ∧
      (twoCores.ccbOf (.core 4)).dbPending = false) := by decide

/-- Sites: 0 with rings and a free entry, 1 absent; the panel's doorbell is pending. -/
def doorSites (x : Site) : State := { State.reset with
  site := [(0, x), (1, { state := 5 })]
  pmc := { State.reset.pmc with comp := [(408, { dbPending := true, cookie := 7 })] } }

theorem witness_DoorbellAccept :
    let s := doorSites { state := 3, ringsSet := true, cLog := 7, cOff := 4096, cTail := 127, cHead := 1 }
    let full := doorSites { state := 3, ringsSet := true, cLog := 7, cTail := 0, cHead := 1 }
    cellOk .panel = true ∧ (s.ccbOf .panel).dbPending = true ∧ s.pmc.restarting = false ∧ s.pmc.mask.getLsbD 11 = true ∧
    (s.getSite 1).state = 5 ∧ (s.getSite 0).state = 3 ∧ (doorSites { state := 0 }).getSite 0 = { state := 0 } ∧
    ((doorSites { state := 2, ringsSet := true, cLog := 7 }).getSite 0).state ≠ 3 ∧ (127 + 128 - 1) % 128 = 126 ∧
    (s.getSite 0).cTail + 1 = 2 ^ (s.getSite 0).cLog ∧ (full.getSite 0).cFree = 0 ∧ (s.getSite 0).cFree = 1 ∧
    (4096 + 64 * 127) % stackSize + 64 ≤ stackSize ∧
    (s.getStack ((s.winStacks 0).getD ((4096 + 64 * 127) / stackSize) 0)).state ≠ 4 := by decide

theorem witness_FatalReset : VeIdle (twoCores.getCore 4) ∧
    ¬ VeIdle { ve := { queue := [{ started := true, index := 0, entered := 0, desc := [0x30000000, 0, 0, 1, 0, 0, 0, 0, 0, 0, 0, 0,
      0x10101] }] } } := by
  unfold VeIdle; decide

theorem witness_FaultMessage : cellOk (.work 95) = true ∧ cellOk .hall = true ∧
    State.reset.reaches (State.reset.tokenNode (.core 575)) nodePmc = true ∧
    (withQuad 95 { cut := 15 }).reaches ((withQuad 95 { cut := 15 }).tokenNode (.core 575)) nodePmc = false := by decide

theorem witness_UnconfiguredCells : State.reset.configured (.work 95) = false ∧ State.reset.configured .hall = false ∧ 15 < 16 := by
  decide

/-! Effects: the expected words are those of R33, R35 and R36. -/

theorem test_token_nak : (after (.tokenInWrite (.core 3) 0x10000001) twoCores).resp.status = 0x1001 ∧
    ((after (.tokenInWrite (.core 3) 0x10000001) twoCores).getCore 3).ccb.tokenOut = 0x40000003 := by decide
theorem test_token_overflow : ((after (.tokenInWrite (.core 5) 0x10000002) twoCores).getCore 5).ccb.ovf = 1 ∧
    ((after (.tokenInWrite (.core 5) 0x10000002) twoCores).getCore 5).ccb.state = .faulted := by decide
theorem test_token_message_nak : ((after (.tokenMessage (.core 3) 0x10000001 ⟨.core 4, false⟩) (tokened 3)).getCore 4).ccb.inport =
    [0x40000003] := by decide
theorem test_planned_reset : ((after (.ccbResetPlanned (.core 4)) twoCores).getCore 4).ccb.resetPending = true := by decide
theorem test_fatal_reset : ((after (.ccbResetFatal (.core 4)) twoCores).getCore 4).ccb.state = .resetting ∧
    ((after (.ccbResetFatal (.core 4)) twoCores).getCore 4).ccb.fault = 1 := by decide
theorem test_doorbell_busy : (after (.ccbDoorbellWrite (.work 95) 9) dooredCell).resp.status = 0x0102 := by decide
theorem test_doorbell_cookie : ((after (.ccbDoorbellWrite .panel 0xFF000009) State.reset).ccbOf .panel).cookie = 9 := by decide
theorem test_doorbell_no_cell : (after (.ccbDoorbellWrite (.work 94) 9) dooredCell).resp.status = 0x0101 := by decide
theorem test_doorbell_event : (after (.doorbellAccept (.work 95)) dooredCell).pins.pldm =
    [[0x20000000, 11, 0x5000005F, 0, 0, 0, 5, 0, 0, 0, 0, 0, 0, 0, 0, 0]] := by decide
theorem test_fault_clear : ((after (.ccbFaultClear (.core 1) 0x10) (withCcb 1 { fault := 0x30, first := 7 })).getCore 1).ccb.first
    = 7 ∧ ((after (.ccbFaultClear (.core 1) 0x30) (withCcb 1 { fault := 0x30, first := 7 })).getCore 1).ccb.first = 0 := by decide
theorem test_fault_message : (after (.faultMessage (.core 2) 0x81) State.reset).resp.data = [2, 0x81] := by decide

/-! ### Registers, routers and the doorbell page -/

/-- The reset state but for one router. -/
def withRtr (n : Nat) (r : Router) : State := { State.reset with rtr := [(n, r)] }

theorem witness_RegisterWrites_site : (withSite 1 { state := 4 }).getSite 1 = { state := 4 } ∧
    ((withSite 1 { state := 4 }).getSite 1).linked = true ∧ ((withSite 1 { state := 0 }).getSite 1).linked = false ∧
    ((withSite 1 { state := 5 }).getSite 1).linked = false ∧ regBase + 0x7FFFFFC < regBase + 0x8000000 ∧
    (regBase + 0x7FFFFFC) % 4 = 0 := by decide

theorem witness_RegisterWrites : (regBase ≤ regBase + 2 ∧ regBase + 2 < regBase + 0x8000000 ∧ (2 ≠ 4 ∨ (regBase + 2) % 4 ≠ 0)) ∧
    regBase + 0x7FFFFFC < regBase + 0x8000000 ∧ ((withCcb 575 { state := .ready }).getCore 575).ccb.state ≠ .resetting ∧
    (twoCores.getCore 3).ccb.state = .resetting ∧
    (let s := withSite 1 { state := 3, mbox := [(15, { owner := 2 })] }
     1 ≤ (s.getSite 1).state ∧ (s.getSite 1).state ≤ 3 ∧ ((s.getSite 1).box 15).owner ≠ 1) ∧ (0 < 1023 ∧ 1023 < 1024) := by
  decide

theorem witness_MgmtMessages : (regBase ≤ regBase + 1 ∧ (regBase + 1) % 4 ≠ 0) ∧
    ((withCcb 575 {}).getCore 575).ccb.state ≠ .resetting ∧ (withCcb 575 {}).reaches nodePmc (coreQuad 575) = true ∧
    State.reset.reaches nodePmc (regNode 1) = true ∧
    (withQuad 0 { cut := 15 }).reaches nodePmc (regNode (regBase + 575 * 0x10000 - regBase)) = false := by decide

theorem witness_RouterTableWords : ((withRtr 575 { bankSel := true }).getRtr 575).bankSel = true ∧
    16400 < ((withRtr 0 { index := 16401 }).getRtr 0).index ∧
    (((withRtr 0 { index := 16400, arm := true }).getRtr 0).bankSel = false ∧
      ((withRtr 0 { index := 16400, arm := true }).getRtr 0).index ≤ 16400) := by decide

theorem witness_SwapArming : ((withRtr 575 { validating := true }).getRtr 575).validating = true ∧
    (withRtr 575 { validating := true }).bankError 575 ((withRtr 575 { validating := true }).getRtr 575).pending = none ∧
    (withRtr 575 {}).bankError 575 [(16384, 0xFFFFFFFF)] ≠ none ∧ (∃ g ∈ [[575, 3]], 575 ∈ g ∧ 3 ∈ g) ∧
    (2 ≤ (1 + 65536 - (0xFFFF : W64).toNat % 65536) % 65536 ∧ (1 + 65536 - (0xFFFF : W64).toNat % 65536) % 65536 ≤ 32767) := by
  decide

/-- A bank whose phase schedule switches to phase 2 at round 3 (R194). -/
def switchBank : Tab W32 := [(16385, 0x00038002)]

theorem witness_PhaseSwitching : ((withRtr 575 { armed := some (2, 7) }).getRtr 575).armed = some (2, 7) ∧
    (∃ e ∈ schedOf ((withRtr 0 { active := switchBank }).getRtr 0).active, e.2.2.2 = true ∧
      ((withRtr 0 { active := switchBank }).getRtr 0).sched ≤ e.2.1) := by decide

theorem witness_RouterCycle : 575 < 576 := by decide

/-- Site 1 with a GET_INFO in mailbox 15. -/
def readySite : State := withSite 1 { state := 3, mbox := [(15, { words := [(0, 0x00010000)] })] }

theorem witness_MailboxDoorbell : ((withSite 0 { state := 0 }).getSite 0).state = 0 ∧
    ((withSite 0 { state := 4 }).getSite 0).state = 4 ∧ 4 < ((withSite 0 { state := 5 }).getSite 0).state ∧
    (((withSite 0 { state := 1, mbox := [(0, { owner := 1 })] }).getSite 0).box 0).owner = 1 ∧
    (1 ≤ (readySite.getSite 1).state ∧ (readySite.getSite 1).state ≤ 3 ∧ ((readySite.getSite 1).box 15).owner ≠ 1 ∧
      readySite.pmc.restarting = false ∧ opcodes.contains (readySite.cmdAt 1 15).op = true ∧ readySite.pmc.cmds = []) := by
  decide

theorem witness_AdmissionTail :
    let x := (withSite 0 { state := 3, ringsSet := true, aLog := 6, aHead := 1, aTail := 1 }).getSite 0
    (1 ≤ x.state ∧ x.state ≤ 3 ∧ x.ringsSet = true ∧ 0 < 2 ^ x.aLog ∧
      (x.aTail + 64 - x.aHead) % 64 + (0 + 64 - x.aTail) % 64 ≤ 64 - 1) ∧
    ((withSite 0 { state := 0 }).getSite 0).linked = false ∧
    (((withSite 0 { state := 4 }).getSite 0).linked = true ∧ ¬ ((withSite 0 { state := 4 }).getSite 0).state ≤ 3) := by decide

theorem witness_CompletionHead :
    let x := (withSite 0 { state := 3, ringsSet := true, cLog := 7, cHead := 127, cTail := 0 }).getSite 0
    (1 ≤ x.state ∧ x.state ≤ 3 ∧ x.ringsSet = true ∧ 0 < 2 ^ x.cLog ∧
      (0 + 128 - x.cHead) % 128 ≤ (x.cTail + 128 - x.cHead) % 128) ∧
    ¬ ((1 + 128 - x.cHead) % 128 ≤ (x.cTail + 128 - x.cHead) % 128) := by decide

theorem test_register_narrow : (after (.registerWrite .mgmt regBase 2 1) State.reset).resp.status = 1 := by decide
theorem test_register_discarded : ((after (.registerWrite (.bar2 1) (regBase + 0x40) 4 1) (withSite 1 { state := 4 })).getSite 1).dropWr = 1 := by
  decide
theorem test_mgmt_write_read : (after (.mgmtMessage false (regBase + 0x10044) 0)
    (after (.mgmtMessage true (regBase + 0x10044) 0x4000) (withCcb 1 { state := .ready }))).resp.data = [0x4000] := by decide
theorem test_mgmt_len_too_long : ((after (.mgmtMessage true (regBase + 0x10044) 0x4001) State.reset).getCore 1).seq.lenReg = 0 := by
  decide
theorem test_table_write : ((after (.rtrTblDataWrite 2 9) (withRtr 2 { index := 16400 })).getRtr 2).pending = [(16400, 9)] := by decide
theorem test_table_read : (after (.rtrTblDataRead 2) (withRtr 2 { active := [(0, 8)], bankSel := true })).resp.data = [8] ∧
    ((after (.rtrTblDataRead 2) (withRtr 2 { index := 32767 })).getRtr 2).index = 0 := by decide
theorem test_swap_late : (after (.swapArm 2 1) State.reset).resp.status = 0x0802 := by decide
theorem test_swap_early : ((after (.swapArm 2 2) State.reset).getRtr 2).validating = true := by decide
theorem test_swap_disarm : ((after (.swapDisarm ⟨2, 7⟩) (withRtr 2 { arm := true, status := 1 })).getRtr 2).status = 0 := by decide
theorem test_validation : ((after (.bankValidationDone 2) (withRtr 2 { validating := true, arm := true })).getRtr 2).status = 1 := by
  decide
theorem test_phase_switch : ((after (.phaseSwitch 2) (withRtr 2 { armed := some (3, 9), poisoning := true })).getRtr 2).phase = 3 := by
  decide
theorem test_beat_forward : ((after (.beatForward 2 5000) State.reset).getRtr 2).round = 4 := by decide
theorem test_mailbox_doorbell : (after (.mailboxDoorbell 1 15) readySite).pmc.cmds = [(1, 15)] := by decide
theorem test_admission_tail : ((after (.aringTailWrite 0 63)
    (withSite 0 { state := 3, ringsSet := true, aLog := 6 })).getSite 0).aTail = 63 := by decide
theorem test_admission_tail_dropped : ((after (.aringTailWrite 0 64)
    (withSite 0 { state := 3, ringsSet := true, aLog := 6 })).getSite 0).dropDb = 1 := by decide
theorem test_completion_head : ((after (.cringHeadWrite 0 1)
    (withSite 0 { state := 3, ringsSet := true, cLog := 7, cTail := 1 })).getSite 0).cHead = 1 := by decide

/-! ### Vilsal commands -/

/-- A command of the given words in mailbox 0 of site 0, which heads the PMC's queue. -/
def sent (op : Nat) (args : List Nat) (s : State) : State :=
  let words := [(0, BitVec.ofNat 32 (op * 65536)), (2, BitVec.ofNat 32 (4 * args.length))] ++
    (List.range args.length).map fun i => (16 + i, BitVec.ofNat 32 (args.getD i 0))
  { s with
    site := [(0, { s.getSite 0 with state := 3, mbox := [(0, { owner := 1, words := words })] }), (1, s.getSite 1)]
    pmc := { s.pmc with cmds := [(0, 0)] } }

/-- The command as the mailbox holds it. -/
def cmd (s : State) : Cmd := s.cmdAt 0 0

/-- The checks of Heads and Accepted as a value. -/
def heads (i : Instr) (s : State) : Bool :=
  match mailboxForm i with
  | none => false
  | some f => s.pmc.cmds = [(0, 0)] && (cmd s).op = f.1 && f.2.1 (cmd s) && !s.pmc.restarting && s.pmc.copy.isNone

def accepts (i : Instr) (s : State) : Bool :=
  match mailboxForm i with
  | none => false
  | some f => heads i s && (cmd s).argLen = f.2.2.1 (cmd s) && (cmd s).argsOk f.2.2.2 && s.allows (cmd s) && (cmd s).headOk

theorem heads_of {i : Instr} {s : State} (h : heads i s = true) : Heads i s (cmd s) := by
  unfold heads at h
  cases hf : mailboxForm i with
  | none => simp [hf] at h
  | some f =>
    simp only [hf, Bool.and_eq_true, decide_eq_true_eq, Bool.not_eq_true', Option.isNone_iff_eq_none] at h
    exact ⟨f, hf, ⟨0, 0, [], h.1.1.1.1, rfl⟩, h.1.1.1.2, h.1.1.2, h.1.2, h.2⟩

theorem accepted_of {i : Instr} {s : State} (h : accepts i s = true) : Accepted i s (cmd s) := by
  unfold accepts at h
  cases hf : mailboxForm i with
  | none => simp [hf] at h
  | some f =>
    simp only [hf, Bool.and_eq_true, decide_eq_true_eq] at h
    refine ⟨heads_of h.1.1.1.1, fun g hg => ?_, h.1.2, h.2⟩
    obtain rfl : f = g := Option.some.inj (hf.symm.trans hg)
    exact ⟨h.1.1.1.2, h.1.1.2⟩

theorem witness_VilsalRefusals :
    (Heads .eventMask (sent 0x03 [] State.reset) (cmd (sent 0x03 [] State.reset)) ∧ (cmd (sent 0x03 [] State.reset)).argLen ≠ 4) ∧
    (∃ s, Heads .ringSetup s (cmd s) ∧ (cmd s).argLen = 24 ∧ s.allows (cmd s) = false) ∧
    (∃ s, Heads .powerLimit s (cmd s) ∧ (cmd s).argLen = 4 ∧ s.allows (cmd s) = true ∧ (cmd s).headOk = false) ∧
    (let s := sent 0x40 [0x200] State.reset
     Heads .policySet s (cmd s) ∧ (cmd s).argLen = 4 ∧ s.allows (cmd s) = true ∧ (cmd s).argsOk [0x10F] = false) := by
  refine ⟨⟨heads_of (by decide), by decide⟩, ⟨{ (sent 0x02 [6, 0, 6, 0, 0, 7] State.reset) with
    site := [(0, { state := 4, mbox := ((sent 0x02 [6, 0, 6, 0, 0, 7] State.reset).getSite 0).mbox })] },
      heads_of (by decide), by decide, by decide⟩, ⟨{ State.reset with
        site := [(0, { state := 3, mbox := [(0, { owner := 1, words := [(0, 0x00460100), (2, 4)] })] })]
        pmc := { State.reset.pmc with cmds := [(0, 0)] } }, heads_of (by decide), by decide, by decide, by decide⟩,
    heads_of (by decide), by decide, by decide, by decide⟩

/-- Work cell 95 of quadrant 0, bound to the empty plate of slot 0. -/
def boundCell : State := { State.reset with pmc := { State.reset.pmc with work := [(95, { quads := [0], bound := some ⟨0, 0, 0, 0, 0, .running,
  [0], 1, [0]⟩ })] } }

theorem witness_VilsalQueries :
    Accepted .getInfo (sent 0x01 [] State.reset) (cmd (sent 0x01 [] State.reset)) ∧
    (let s := sent 0x04 [8505, 1] State.reset
     Accepted .contactRead s (cmd s) ∧ (cmd s).w 0 < 8506 ∧ (cmd s).w 0 + (cmd s).w 1 ≤ 8506) ∧
    (let s := sent 0x05 [95, 0, 0] boundCell
     Accepted .statsRead s (cmd s) ∧ (cmd s).w 0 < 96 ∧ ((s.getWork ((cmd s).w 0)).bound.isSome = true) ∧ (cmd s).w 2 ≤ 84 ∧
       (cmd s).w 1 + (cmd s).w 2 ≤ plCount (s.plate 0) 0x0B 8) ∧
    (let s := sent 0x13 [95] boundCell
     Accepted .classGet s (cmd s) ∧ (cmd s).w 0 < 96 ∧ (s.getWork ((cmd s).w 0)).quads ≠ []) ∧
    Accepted .fwStatus (sent 0x51 [] State.reset) (cmd (sent 0x51 [] State.reset)) :=
  ⟨accepted_of (by decide), ⟨accepted_of (by decide), by decide⟩, ⟨accepted_of (by decide), by decide⟩,
    ⟨accepted_of (by decide), by decide⟩, accepted_of (by decide)⟩

/-- A cartridge copy: a record of SEQ 5 with one line, and a chain. -/
def metered : State := { State.reset with mtr := { State.reset.mtr with
  copyRecs := [(5, List.replicate 18 0 ++ [1])], copyLines := [(5, [[0x80000000, 5]])], copyCerts := [1, 2] } }

theorem witness_VilsalMeterRead :
    (let s := sent 0x52 [0, 0, 0] metered
     Accepted .meterReadLegal s (cmd s) ∧ (cmd s).w 2 = 0) ∧
    (let s := sent 0x52 [0, 5, 1] metered
     Accepted .meterReadLegal s (cmd s) ∧ (cmd s).w 2 = 1 ∧ (cmd s).w 1 ≠ 0xFFFFFFFF ∧ tget s.mtr.copyRecs ((cmd s).w 1) [] ≠ []) ∧
    (let s := sent 0x52 [0, 6, 1] metered
     Accepted .meterReadLegal s (cmd s) ∧ (cmd s).w 2 = 1 ∧ (cmd s).w 1 ≠ 0xFFFFFFFF ∧ tget s.mtr.copyRecs ((cmd s).w 1) [] = []) ∧
    (let s := sent 0x52 [0, 0xFFFFFFFF, 1] metered
     Accepted .meterReadLegal s (cmd s) ∧ (cmd s).w 2 = 1 ∧ (cmd s).w 1 = 0xFFFFFFFF ∧ s.mtr.copyCerts ≠ []) ∧
    (let s := sent 0x52 [1, 5 * 1024, 1] metered
     Accepted .meterReadInformative s (cmd s) ∧ 0 < (cmd s).w 2 ∧ (cmd s).w 2 ≤ 63 ∧
       (s.mtr.copyRecs.filter fun e => e.1 % 2 ^ 22 = bits ((cmd s).w 1) 10 22).getLast? = some (5, List.replicate 18 0 ++ [1]) ∧
       bits ((cmd s).w 1) 0 10 + (cmd s).w 2 ≤ ((List.replicate 18 0 ++ [1] : List W32).getD 18 0).toNat ∧
       ∀ l ∈ ((upTo (bits ((cmd s).w 1) 0 10) ((cmd s).w 2)).map fun i =>
         ((tget s.mtr.copyLines 5 []).find? fun l => lineIndex l = i).getD []), l ≠ []) ∧
    (let s := sent 0x52 [1, 0, 0] metered
     Accepted .meterReadInformative s (cmd s) ∧ (cmd s).w 2 = 0) ∧
    (let s := sent 0x52 [1, 0, 64] metered
     Accepted .meterReadInformative s (cmd s) ∧ 63 < (cmd s).w 2) :=
  ⟨⟨accepted_of (by decide), by decide⟩, ⟨accepted_of (by decide), by decide⟩, ⟨accepted_of (by decide), by decide⟩,
    ⟨accepted_of (by decide), by decide⟩, ⟨accepted_of (by decide), by decide⟩, ⟨accepted_of (by decide), by decide⟩,
    ⟨accepted_of (by decide), by decide⟩⟩

theorem witness_VilsalSettings :
    Accepted .eventMask (sent 0x03 [5] State.reset) (cmd (sent 0x03 [5] State.reset)) ∧
    (let s := sent 0x46 [1000] State.reset
     Accepted .powerLimit s (cmd s) ∧ 1000 ≤ (cmd s).w 0 ∧ (cmd s).w 0 ≤ 10800) ∧
    (let s := sent 0x46 [10800] State.reset
     Accepted .powerLimit s (cmd s) ∧ 1000 ≤ (cmd s).w 0 ∧ (cmd s).w 0 ≤ 10800) ∧
    (let s := sent 0x46 [999] State.reset
     Accepted .powerLimit s (cmd s) ∧ (cmd s).w 0 < 1000) ∧
    (let s := sent 0x46 [10801] State.reset
     Accepted .powerLimit s (cmd s) ∧ 10800 < (cmd s).w 0) ∧
    (let s := sent 0x30 [0x0400] State.reset
     Accepted .hostwinSet s (cmd s) ∧ bits ((cmd s).w 0) 12 3 ≤ 4 ∧ bits ((cmd s).w 0) 8 3 ≤ 4 ∧ bits ((cmd s).w 0) 12 3 = 0) ∧
    (let s := sent 0x02 [0, 0, 6, 4096, 0, 7] State.reset
     Accepted .ringSetup s (cmd s) ∧ 6 ≤ (cmd s).w 2 ∧ (cmd s).w 2 ≤ 15 ∧ 7 ≤ (cmd s).w 5 ∧ (cmd s).w 5 ≤ 16 ∧
       (cmd s).w 2 + 1 ≤ (cmd s).w 5 ∧ (cmd s).w64 0 % 4096 = 0 ∧ (cmd s).w64 3 % 4096 = 0 ∧
       (cmd s).w64 0 + 64 * 2 ^ (cmd s).w 2 ≤ s.winSize 0 ∧ (cmd s).w64 3 + 64 * 2 ^ (cmd s).w 5 ≤ s.winSize 0 ∧
       overlap ((cmd s).w64 0) (64 * 2 ^ (cmd s).w 2) ((cmd s).w64 3) (64 * 2 ^ (cmd s).w 5) = false ∧ s.siteReqs 0 = [] ∧
       (s.getSite 0).held = [] ∧ (s.getSite 0).aHead = (s.getSite 0).aTail) :=
  ⟨accepted_of (by decide), ⟨accepted_of (by decide), by decide⟩, ⟨accepted_of (by decide), by decide⟩,
    ⟨accepted_of (by decide), by decide⟩, ⟨accepted_of (by decide), by decide⟩, ⟨accepted_of (by decide), by decide⟩,
    ⟨accepted_of (by decide), by decide⟩⟩

theorem witness_HostWindows :
    (let s := sent 0x30 [0x0500] State.reset
     Accepted .hostwinSet s (cmd s) ∧ 4 < bits ((cmd s).w 0) 8 3) ∧
    (let s := sent 0x30 [0x5000] State.reset
     Accepted .hostwinSet s (cmd s) ∧ 4 < bits ((cmd s).w 0) 12 3) ∧
    (let s := sent 0x30 [0x1000] { State.reset with sec := { State.reset.sec with h2 := false } }
     Accepted .hostwinSet s (cmd s) ∧ bits ((cmd s).w 0) 12 3 ≠ 0 ∧ s.sec.h2 = false) ∧
    (let s := sent 0x30 [0x4400] { State.reset with sec := { State.reset.sec with h2 := true } }
     Accepted .hostwinSet s (cmd s) ∧ bits ((cmd s).w 0) 12 3 ≤ 4 ∧ bits ((cmd s).w 0) 8 3 ≤ 4 ∧ s.sec.h2 = true) ∧
    (let s := { State.reset with boot := { State.reset.boot with step := 3 } }
     s.boot.step = 3 ∧ s.thm.state < 3 ∧ ∀ r ∈ ([⟨47, false, 0, 0, 0, 0⟩] : List StackTest), r.failed = false) ∧
    goes (.spanRetrainTimer 0) { State.reset with port := [(0, { spanFault := true })] } = true :=
  ⟨⟨accepted_of (by decide), by decide⟩, ⟨accepted_of (by decide), by decide⟩, ⟨accepted_of (by decide), by decide⟩,
    ⟨accepted_of (by decide), by decide⟩, by decide, by decide⟩

/-- The hall cell 7. -/
def hallState : State := { State.reset with fab := { State.reset.fab with hallIndex := some 7, hallMembers := [0, 1] } }

theorem witness_FrameConfig :
    (let s := sent 0x10 [0x40000000, 0x10040032, 2, 0] State.reset
     Accepted .frameConfig s (cmd s) ∧ BitVec.ofNat 32 ((cmd s).w 0) = s.ccbId .panel ∧ bits ((cmd s).w 0) 28 4 = 4 ∧
       bits ((cmd s).w 1) 0 15 ≠ 0 ∧ bits ((cmd s).w 1) 16 8 ≠ 0 ∧ s.inTime ((cmd s).frame 2) ∧ s.pmc.next = none ∧
       s.pmc.work = [] ∧ s.fab.hallIndex = none) ∧
    frameRangeOk 50 4 6 = true ∧
    (let s := sent 0x10 [0x40000000, 0x060403E8, 2, 0] hallState
     Accepted .frameConfig s (cmd s) ∧ frameRangeOk (bits ((cmd s).w 1) 0 15) (bits ((cmd s).w 1) 16 8) (bits ((cmd s).w 1) 24 8) = true ∧
       s.fab.hallIndex ≠ none) ∧
    (let s := sent 0x10 [0x60000007, 0x060403E8, 2, 0] hallState
     Accepted .frameConfig s (cmd s) ∧ BitVec.ofNat 32 ((cmd s).w 0) = s.ccbId .hall ∧ bits ((cmd s).w 0) 28 4 = 6 ∧
       s.fab.hallIndex ≠ none ∧ s.inTime ((cmd s).frame 2 - s.fab.fofs) ∧ s.pmc.next = none ∧ s.pmc.work = []) ∧
    (let s := sent 0x10 [0x40000000, 0x060403E8, 1, 0] State.reset
     Accepted .frameConfig s (cmd s) ∧ frameRangeOk (bits ((cmd s).w 1) 0 15) (bits ((cmd s).w 1) 16 8) (bits ((cmd s).w 1) 24 8) = true ∧
       ¬ s.inTime ((cmd s).frame 2)) :=
  ⟨⟨accepted_of (by decide), by unfold State.inTime; decide⟩, by decide, ⟨accepted_of (by decide), by decide⟩,
    ⟨accepted_of (by decide), by unfold State.inTime; decide⟩, ⟨accepted_of (by decide), by unfold State.inTime; decide⟩⟩

theorem witness_CellConfig :
    let s := sent 0x11 [95, 0, 0, 0x80000000, 2, 0] State.reset
    Accepted .cellConfig s (cmd s) ∧ (cmd s).w 0 < 96 ∧ s.inTime ((cmd s).frame 4) ∧ maskQuads (cmd s) 1 = [95] ∧ s.pmc.work = [] ∧
      (s.getWork 95).boundAt ((cmd s).frame 4) = none ∧ (s.getWork 95).next = none :=
  ⟨accepted_of (by decide), by unfold State.inTime; decide⟩

theorem witness_ClassSet :
    let s := sent 0x12 [95 + 7 * 256, 5, 1024, 2, 0] boundCell
    Accepted .classSet s (cmd s) ∧ bits ((cmd s).w 0) 0 7 < 96 ∧ (cmd s).w 2 ≤ 1024 ∧
      (s.getWork (bits ((cmd s).w 0) 0 7)).quadsAt ((cmd s).frame 3) ≠ [] ∧ s.inTime ((cmd s).frame 3) :=
  ⟨accepted_of (by decide), by unfold State.inTime; decide⟩

/-- With no plate bound any quota fits. -/
theorem witness_ClassSet_unbound : (State.reset.getWork 95).bound = none ∧
    ({ quads := [0] } : Work).boundAt 2 = none := by decide

theorem witness_JobTag :
    let s := sent 0x53 [95, 9, 2, 0] boundCell
    Accepted .jobTag s (cmd s) ∧ (cmd s).w 0 < 96 ∧ (s.getWork ((cmd s).w 0)).quadsAt ((cmd s).frame 2) ≠ [] ∧
      s.inTime ((cmd s).frame 2) :=
  ⟨accepted_of (by decide), by unfold State.inTime; decide⟩

/-- The sparing, margin and re-planning policies are MANUAL. -/
def manual (l : List Nat) : State := { State.reset with pmc := { State.reset.pmc with manual := l } }

theorem witness_VilsalPolicy :
    (let s := sent 0x40 [6] State.reset
     Accepted .policySet s (cmd s) ∧ 6 ≤ bits ((cmd s).w 0) 0 4) ∧
    (let s := sent 0x40 [0x105] State.reset
     Accepted .policySet s (cmd s) ∧ bits ((cmd s).w 0) 0 4 < 6) ∧
    (let s := sent 0x40 [0x104] (manual [1, 2, 3])
     Accepted .policySet s (cmd s) ∧ s.allManual = false ∧ (after .policySet s).allManual = true) :=
  ⟨⟨accepted_of (by decide), by decide⟩, ⟨accepted_of (by decide), by decide⟩, ⟨accepted_of (by decide), by decide⟩⟩

theorem witness_CellForce :
    (let s := sent 0x41 [575, 0, 2, 0] State.reset
     Accepted .cellForceDark s (cmd s) ∧ s.forced (cmd s) = some (.inl (.core 575)) ∧ s.configured (.core 575) = true ∧
       s.inTime ((cmd s).frame 2) ∧ (cmd s).w 1 % 4 = 0) ∧
    (let s := sent 0x41 [575, 1, 2, 0] State.reset
     Accepted .cellForceRelease s (cmd s) ∧ s.forced (cmd s) = some (.inl (.core 575))) ∧
    (let s := sent 0x41 [575, 2, 2, 0] (manual [0])
     Accepted .cellForceRetire s (cmd s) ∧ s.forced (cmd s) = some (.inl (.core 575)) ∧ s.manual 0 = true ∧
       s.inTime ((cmd s).frame 2)) ∧
    (let s := sent 0x41 [0x700003E3, 0, 2, 0] { State.reset with sec := { State.reset.sec with h2 := true } }
     Accepted .cellForceDark s (cmd s) ∧ s.forced (cmd s) = some (.inr 1) ∧ (cmd s).w 1 % 4 = 0) ∧
    (let s := sent 0x41 [0x700003E2, 1, 2, 0] State.reset
     Accepted .cellForceRelease s (cmd s) ∧ s.forced (cmd s) = some (.inr 0)) ∧
    (let s := sent 0x41 [0x700003E2, 2, 2, 0] State.reset
     Accepted .cellForceRetire s (cmd s) ∧ s.forced (cmd s) = some (.inr 0)) ∧
    (let s := sent 0x41 [0, 2, 2, 0] State.reset
     Accepted .cellForceRetire s (cmd s) ∧ s.forced (cmd s) = some (.inl (.core 0)) ∧ s.manual 0 = false) ∧
    (let s := sent 0x41 [0, 2, 1, 0] (manual [0])
     Accepted .cellForceRetire s (cmd s) ∧ s.manual 0 = true ∧ ¬ s.inTime ((cmd s).frame 2)) := by
  unfold State.inTime
  exact ⟨⟨accepted_of (by decide), by decide⟩, ⟨accepted_of (by decide), by decide⟩, ⟨accepted_of (by decide), by decide⟩,
    ⟨accepted_of (by decide), by decide⟩, ⟨accepted_of (by decide), by decide⟩, ⟨accepted_of (by decide), by decide⟩,
    ⟨accepted_of (by decide), by decide⟩, ⟨accepted_of (by decide), by decide⟩⟩

/-- Core 0 is exposed, and core 575 is a reserve (its row reads 7). -/
def reserved (l : List Nat) : State := { manual l with
  core := [(0, { exposed := true })], hlt := { State.reset.hlt with live := [(575, { state := 7 })] } }

theorem witness_VilsalOverrides_pending :
    let r := reserved [0]
    let s := sent 0x42 [0, 575, 2, 0] { r with pmc := { r.pmc with overrides := [(.spare 1 575, 2)] } }
    Accepted .spareSet s (cmd s) ∧ (s.row ((cmd s).w 1)).state = 7 ∧ (s.getCore ((cmd s).w 1)).position = none ∧
      s.sparePending ((cmd s).w 0) ((cmd s).w 1) = true ∧ r.sparePending 0 575 = false :=
  ⟨accepted_of (by decide), by decide⟩

theorem witness_VilsalOverrides :
    (let s := sent 0x42 [0, 575, 2, 0] (reserved [])
     Accepted .spareSet s (cmd s) ∧ (cmd s).w 0 < 576 ∧ (cmd s).w 1 < 576 ∧ (cmd s).w 0 ≠ (cmd s).w 1 ∧
       (s.row ((cmd s).w 1)).state = 7 ∧ (s.getCore ((cmd s).w 1)).position = none ∧
       (s.getCore ((cmd s).w 0)).exposed = true ∧ s.manual 0 = false) ∧
    (let s := sent 0x42 [1, 575, 2, 0] (reserved [])
     Accepted .spareSet s (cmd s) ∧ (s.row ((cmd s).w 1)).state = 7 ∧ (s.getCore ((cmd s).w 0)).exposed = false ∧
       (s.getCore ((cmd s).w 0)).owed = false) ∧
    (let s := sent 0x42 [0, 575, 2, 0] (reserved [0])
     Accepted .spareSet s (cmd s) ∧ (s.getCore ((cmd s).w 0)).exposed = true ∧ s.manual 0 = true ∧ s.inTime ((cmd s).frame 2)) ∧
    (let s := sent 0x43 [10 * 512, 0, 2, 0] (manual [])
     Accepted .linkForceRetire s (cmd s) ∧ bits ((cmd s).w 0) 13 2 ≠ 3 ∧
       linkFitted ((cmd s).w 1) (bits ((cmd s).w 0) 4 4) = true ∧ bits ((cmd s).w 0) 9 4 ≤ 10 ∧ s.manual 1 = false) ∧
    (let s := sent 0x43 [0x2000 + 10 * 512 + 9 * 16 + 256, 17, 2, 0] (manual [1])
     Accepted .linkForceRetrain s (cmd s) ∧ bits ((cmd s).w 0) 13 2 ≠ 3 ∧
       linkFitted ((cmd s).w 1) (bits ((cmd s).w 0) 4 4) = true ∧ bits ((cmd s).w 0) 9 4 ≤ 10 ∧ s.manual 1 = true ∧
       s.inTime ((cmd s).frame 2)) ∧
    (let s := sent 0x43 [0x4000, 0, 2, 0] (manual [1])
     Accepted .linkForceReturn s (cmd s) ∧ bits ((cmd s).w 0) 13 2 ≠ 3) ∧
    (let s := sent 0x44 [95 + 256 * 8, 2, 0] (manual [])
     Accepted .clockSet s (cmd s) ∧ bits ((cmd s).w 0) 0 7 < 96 ∧ 8 ≤ bits ((cmd s).w 0) 8 5 ∧ bits ((cmd s).w 0) 8 5 ≤ 16 ∧
       s.allManual = false) ∧
    (let s := sent 0x44 [95 + 256 * 16, 2, 0] (manual [1, 2, 3, 4])
     Accepted .clockSet s (cmd s) ∧ bits ((cmd s).w 0) 8 5 = 16 ∧ s.allManual = true ∧ s.inTime ((cmd s).frame 1) ∧
       s.workOfQuad 95 = none) ∧
    (let s := sent 0x45 [95, 0xFFFFFFCE, 2, 0] (manual [])
     Accepted .marginSet s (cmd s) ∧ (cmd s).w 0 < 96 ∧ toSigned 32 ((cmd s).w 1) = -50 ∧ s.manual 2 = false) ∧
    (let s := sent 0x45 [95, 50, 2, 0] (manual [2])
     Accepted .marginSet s (cmd s) ∧ toSigned 32 ((cmd s).w 1) ≤ 50 ∧ s.manual 2 = true ∧ s.inTime ((cmd s).frame 2)) ∧
    (let s := sent 0x34 [0x107, 2, 0] State.reset
     Accepted .ringRelease s (cmd s) ∧ s.ringFitted (bits ((cmd s).w 0) 0 4) = true ∧ s.inTime ((cmd s).frame 1)) ∧
    (let s := sent 0x34 [0x007, 1, 0] State.reset
     Accepted .ringRejoin s (cmd s) ∧ s.ringFitted (bits ((cmd s).w 0) 0 4) = true ∧ ¬ s.inTime ((cmd s).frame 1)) := by
  unfold State.inTime
  exact ⟨⟨accepted_of (by decide), by decide⟩, ⟨accepted_of (by decide), by decide⟩, ⟨accepted_of (by decide), by decide⟩,
    ⟨accepted_of (by decide), by decide⟩, ⟨accepted_of (by decide), by decide⟩, ⟨accepted_of (by decide), by decide⟩,
    ⟨accepted_of (by decide), by decide⟩, ⟨accepted_of (by decide), by decide⟩, ⟨accepted_of (by decide), by decide⟩,
    ⟨accepted_of (by decide), by decide⟩, ⟨accepted_of (by decide), by decide⟩, ⟨accepted_of (by decide), by decide⟩⟩

/-- Ring 0 reaches panel 1 by its east port. -/
def ringed : State := { State.reset with
  ring := [(0, { bypass := false, map := [0, 1] })]
  port := [(1, { mode := .x8 })] }

theorem witness_VilsalHallsAndIds :
    (let s := sent 0x33 [4095, 0x55555555, 2, 0] State.reset
     Accepted .fabRebind s (cmd s) ∧ s.inTime ((cmd s).frame 2) ∧ s.fab.idNext = none ∧
       ∀ e ∈ s.ring, e.2.map.contains ((cmd s).w 0) = false) ∧
    (let s := sent 0x14 [1022, 2, 2, 0, 0x00010000] ringed
     Accepted .hallForm s (cmd s) ∧ (cmd s).w 0 ≠ 1023 ∧ 2 ≤ (cmd s).w 1 ∧ (cmd s).w 1 ≤ 2000 ∧
       distinct ((List.range ((cmd s).w 1)).map (hallEntry (cmd s))) = true ∧ s.fab.hallIndex = none ∧ s.fab.hallNext = none ∧
       s.panelId ∈ (List.range ((cmd s).w 1)).map (hallEntry (cmd s)) ∧
       (∀ p ∈ (List.range ((cmd s).w 1)).map (hallEntry (cmd s)), s.inOtherHall p ((cmd s).w 0) = false) ∧
       (∀ p ∈ (List.range ((cmd s).w 1)).map (hallEntry (cmd s)), p ≠ s.panelId → s.route p ≠ none) ∧
       s.inTime ((cmd s).frame 2)) ∧
    (let s := sent 0x15 [7, 1, 0] hallState
     Accepted .hallLeave s (cmd s) ∧ s.fab.hallIndex = some ((cmd s).w 0) ∧ s.fab.hallNext = none ∧ ¬ s.inTime ((cmd s).frame 1)) ∧
    (let s := sent 0x15 [7, 2, 0] hallState
     Accepted .hallLeave s (cmd s) ∧ s.fab.hallIndex = some ((cmd s).w 0) ∧ s.fab.hallNext = none ∧ s.inTime ((cmd s).frame 1)) := by
  unfold State.inTime
  exact ⟨⟨accepted_of (by decide), by decide⟩, ⟨accepted_of (by decide), by decide⟩, ⟨accepted_of (by decide), by decide⟩,
    ⟨accepted_of (by decide), by decide⟩⟩

/-- Slot 0 stores the empty plate. -/
def stored : State := { boundCell with pmc := { boundCell.pmc with store := [(0, { image := [], keySlot := 0 })] } }

theorem witness_VilsalPlates :
    (let s := sent 0x20 [0, 0, 0, 0] State.reset
     Accepted .plateLoad s (cmd s) ∧ (cmd s).w64 0 % 4096 = 0 ∧ (cmd s).w64 0 + (cmd s).w64 2 ≤ s.winSize 0 ∧ (cmd s).w64 2 = 0) ∧
    (let s := sent 0x20 [4096, 0, 64, 0] State.reset
     Accepted .plateLoad s (cmd s) ∧ (cmd s).w64 0 % 4096 = 0 ∧ (cmd s).w64 0 + (cmd s).w64 2 ≤ s.winSize 0 ∧ (cmd s).w64 2 ≠ 0) ∧
    (let s := sent 0x23 [0] stored
     Accepted .plateDelete s (cmd s) ∧ (∃ e ∈ s.pmc.store, e.1 = (cmd s).w 0) ∧ (cmd s).w 0 ∈ s.usedSlots) ∧
    (let s := sent 0x23 [15] { State.reset with pmc := { State.reset.pmc with store := [(15, { image := [], keySlot := 0 })] } }
     Accepted .plateDelete s (cmd s) ∧ (∃ e ∈ s.pmc.store, e.1 = (cmd s).w 0) ∧ (cmd s).w 0 ∉ s.usedSlots) ∧
    (let s := sent 0x22 [95, 2, 0] stored
     Accepted .plateUnbind s (cmd s) ∧ (cmd s).w 0 < 96 ∧ (s.getWork ((cmd s).w 0)).quads ≠ [] ∧
       (s.getWork ((cmd s).w 0)).next = none ∧ (s.getWork ((cmd s).w 0)).unbindAt = none ∧
       (s.getWork ((cmd s).w 0)).bound ≠ none ∧ ((cmd s).frame 1).toNat < s.pmc.frame.toNat + s.bindLead ((cmd s).w 0)) ∧
    (let s := sent 0x22 [95, 3, 0] stored
     Accepted .plateUnbind s (cmd s) ∧ s.pmc.frame.toNat + s.bindLead ((cmd s).w 0) ≤ ((cmd s).frame 1).toNat) :=
  ⟨⟨accepted_of (by decide), by decide⟩, ⟨accepted_of (by decide), by decide⟩, ⟨accepted_of (by decide), by decide⟩, ⟨accepted_of (by decide),
    by decide⟩, ⟨accepted_of (by decide), by decide⟩,
    ⟨accepted_of (by decide), by decide⟩⟩

theorem witness_VilsalPlateBind :
    (let s := sent 0x21 [95, 2, 0] stored
     Accepted .plateBind s (cmd s) ∧ bits ((cmd s).w 0) 0 7 < 96 ∧ (∃ e ∈ s.pmc.store, e.1 = bits ((cmd s).w 0) 8 4) ∧
       (s.getWork (bits ((cmd s).w 0) 0 7)).quadsAt ((cmd s).frame 1) ≠ [] ∧ (s.getWork (bits ((cmd s).w 0) 0 7)).next = none ∧
       (s.getWork (bits ((cmd s).w 0) 0 7)).unbindAt = none ∧
       ((cmd s).frame 1).toNat < s.pmc.frame.toNat + s.bindLead (bits ((cmd s).w 0) 0 7)) ∧
    (let s := sent 0x21 [95, 3, 0] stored
     Accepted .plateBind s (cmd s) ∧ s.pmc.frame.toNat + s.bindLead (bits ((cmd s).w 0) 0 7) ≤ ((cmd s).frame 1).toNat) :=
  ⟨⟨accepted_of (by decide), by decide⟩, ⟨accepted_of (by decide), by decide⟩⟩

set_option maxRecDepth 20000 in
theorem witness_VilsalKeys :
    (let s := sent 0x24 ([0, 2176] ++ List.replicate 544 0) State.reset
     Accepted .keyEnrol s (cmd s) ∧ s.enrolOk ((wordBytes (((cmd s).args.drop 2).map (BitVec.ofNat 32))).take ((cmd s).w 1)) = false) ∧
    (let s := sent 0x25 [3] { State.reset with sec := { State.reset.sec with slots := [(3, { filled := true })] } }
     Accepted .keyRevoke s (cmd s) ∧ (tget s.sec.slots ((cmd s).w 0) {}).filled = true) :=
  ⟨⟨accepted_of (by decide), by decide⟩, ⟨accepted_of (by decide), by decide⟩⟩

theorem witness_VilsalMemory :
    (let s := sent 0x31 [47 + 256 * 8, 2, 0] { State.reset with stack := [(47, { win := 7 })] }
     Accepted .resSplit s (cmd s) ∧ bits ((cmd s).w 0) 8 4 ≤ 8 ∧ bits ((cmd s).w 0) 0 8 < 48 ∧
       s.windowUsed ((cmd s).frame 1) (bits ((cmd s).w 0) 0 8) (bits ((cmd s).w 0) 8 4) = false ∧ s.inTime ((cmd s).frame 1) ∧
       (s.getStack (bits ((cmd s).w 0) 0 8)).winNext = none) ∧
    (let s := sent 0x32 [0, 0, 2048, 0, 0xFFFF, 2, 0] State.reset
     Accepted .publish s (cmd s) ∧ (cmd s).w64 0 % 2048 = 0 ∧ (cmd s).w64 2 % 2048 = 0 ∧ (cmd s).w64 2 ≠ 0 ∧
       s.inPoolOrWindow ((cmd s).w64 0) ((cmd s).w64 2) = true ∧ (cmd s).w 4 ≠ 0 ∧
       (∀ w ∈ s.writerRegions, overlap w.1 w.2 ((cmd s).w64 0) ((cmd s).w64 2) = false) ∧
       s.hallFrame.toNat + 2 ≤ ((cmd s).frame 5).toNat ∧ s.fab.pub = []) ∧
    (let s := sent 0x32 [0, 0, 2048, 0, 1, 2, 0] { State.reset with fab := { State.reset.fab with pub := [(63, ⟨0, 2048, 0, 5⟩)] } }
     Accepted .publish s (cmd s) ∧ (s.fab.pub.find? fun e => s.pubActive e.2 && e.2.base = (cmd s).w64 0 && e.2.len = (cmd s).w64 2) =
       some (63, ⟨0, 2048, 0, 5⟩)) ∧
    (let s := sent 0x32 [0, 0, 2048, 0, 1, 2, 0]
       { State.reset with fab := { State.reset.fab with pub := (List.range 64).map fun i => (i, ⟨4096, 2048, 0, 5⟩) } }
     Accepted .publish s (cmd s) ∧ (s.fab.pub.find? fun e => s.pubActive e.2 && e.2.base = (cmd s).w64 0 && e.2.len = (cmd s).w64 2) =
       none ∧ (List.range 64).all (fun i => s.fab.pub.any fun e => e.1 = i && s.pubActive e.2) = true) ∧
    (let s := sent 0x32 [2048, 0, 0, 0, 1, 2, 0] State.reset
     Accepted .publish s (cmd s) ∧ (cmd s).w64 0 % 2048 = 0 ∧ (cmd s).w64 2 = 0 ∧ (cmd s).w 4 ≠ 0 ∧
       s.hallFrame.toNat + 2 ≤ ((cmd s).frame 5).toNat) ∧
    (let s := sent 0x35 [4096, 0, 2048, 0, 2048, 0] State.reset
     Accepted .hbmCopy s (cmd s) ∧ (cmd s).w64 0 % 4096 = 0 ∧ (cmd s).w64 2 % 2048 = 0 ∧ (cmd s).w64 4 % 2048 = 0 ∧
       (cmd s).w64 0 + (cmd s).w64 4 ≤ s.winSize 0 ∧ (cmd s).w64 4 ≠ 0 ∧ s.inPool ((cmd s).w64 2) ((cmd s).w64 4) = true ∧
       (∀ w ∈ s.writerRegions, overlap w.1 w.2 ((cmd s).w64 2) ((cmd s).w64 4) = false) ∧ s.fab.pub = []) := by
  unfold State.inTime
  exact ⟨⟨accepted_of (by decide), by decide⟩, ⟨accepted_of (by decide), by decide⟩, ⟨accepted_of (by decide), by decide⟩,
    ⟨accepted_of (by decide), by decide⟩, ⟨accepted_of (by decide), by decide⟩, ⟨accepted_of (by decide), by decide⟩⟩

theorem witness_VilsalFirmware :
    (let s := sent 0x50 [0, 0, 0, 0, 2, 0] { State.reset with sec := { State.reset.sec with fw := [(0, { phase := 3 })] } }
     Accepted .fwUpdate s (cmd s) ∧ (cmd s).w64 1 % 4096 = 0 ∧ (cmd s).w64 1 + (cmd s).w 3 ≤ s.winSize 0 ∧
       s.inTime ((cmd s).frame 4) ∧ (s.fwTarget ((cmd s).w 0)).phase = 3) ∧
    (let s := sent 0x50 [2, 0, 0, 0, 2, 0] State.reset
     Accepted .fwUpdate s (cmd s) ∧ (cmd s).w 3 = 0 ∧ (s.fwTarget ((cmd s).w 0)).phase ≠ 2 ∧ (s.fwTarget ((cmd s).w 0)).phase ≠ 3) ∧
    (let s := sent 0x50 [2, 0, 0, 64, 2, 0] State.reset
     Accepted .fwUpdate s (cmd s) ∧ (cmd s).w64 1 % 4096 = 0 ∧ (cmd s).w64 1 + (cmd s).w 3 ≤ s.winSize 0 ∧
       s.inTime ((cmd s).frame 4) ∧ (cmd s).w 3 ≠ 0 ∧ (s.fwTarget ((cmd s).w 0)).phase ≠ 2 ∧ (s.fwTarget ((cmd s).w 0)).phase ≠ 3 ∧
       s.hallMaster = false) := by
  unfold State.inTime
  exact ⟨⟨accepted_of (by decide), by decide⟩, ⟨accepted_of (by decide), by decide⟩, ⟨accepted_of (by decide), by decide⟩⟩

/-- STATUS and the first result words of mailbox 0 once the command has ended. -/
def answered (i : Instr) (s : State) (n : Nat) : W32 × List W32 :=
  let b := ((after i s).getSite 0).box 0
  (b.word 4, (List.range n).map fun k => b.word (16 + k))

theorem test_getInfo : (answered .getInfo (sent 0x01 [] State.reset) 6).2.drop 5 = [0x03] := by decide
theorem test_ringSetup_geometry : (answered .ringSetup (sent 0x02 [0, 0, 5, 4096, 0, 7] State.reset) 0).1 = 0x0C04 := by decide
theorem test_ringSetup : ((after .ringSetup (sent 0x02 [0, 0, 6, 4096, 0, 7] State.reset)).getSite 0).ringsSet = true := by decide
theorem test_eventMask : answered .eventMask (sent 0x03 [4] State.reset) 1 = (0, [0x0FFE]) ∧
    (after .eventMask (sent 0x03 [4] State.reset)).pmc.mask = 4 := by decide
theorem test_contactRead : (answered .contactRead (sent 0x04 [8506, 1] State.reset) 0).1 = 0x0C0E := by decide
theorem test_statsRead : (answered .statsRead (sent 0x05 [96, 0, 1] State.reset) 0).1 = 0x0C0E := by decide
theorem test_frameConfig_soon : (answered .frameConfig (sent 0x10 [0x40000000, 0x060403E8, 1, 0] State.reset) 0).1 = 0x0203 := by
  decide
theorem test_frameConfig_range : (answered .frameConfig (sent 0x10 [0x40000000, 0x06040031, 2, 0] State.reset) 0).1 = 0x0201 := by
  decide
theorem test_cellConfig : (after .cellConfig (sent 0x11 [95, 1, 0, 0, 2, 0] State.reset)).pmc.work =
    [(95, { config := [([0], 2)] })] := by decide
theorem test_classSet_cap : (answered .classSet (sent 0x12 [95, 5, 1025, 2, 0] boundCell) 0).1 ≠ 0 := by decide
theorem test_classGet : (answered .classGet (sent 0x13 [95] boundCell) 1).1 = 0 := by decide
theorem test_hallForm_member : (answered .hallForm (sent 0x14 [7, 2, 2, 0, 0x00020001] ringed) 0).1 = 0x0C09 := by decide
theorem test_hallLeave : (after .hallLeave (sent 0x15 [7, 2, 0] hallState)).fab.hallNext = some (none, [], 2) := by decide
theorem test_plateLoad_window : (answered .plateLoad (sent 0x20 [1, 0, 64, 0] State.reset) 0).1 = 0x0C0E := by decide
theorem test_plateUnbind_soon : (answered .plateUnbind (sent 0x22 [95, 2, 0] stored) 0).1 = 0x0913 := by decide
theorem test_plateDelete_used : (answered .plateDelete (sent 0x23 [0] stored) 0).1 = 0x0C0B := by decide
theorem test_keyRevoke : (tget (after .keyRevoke (sent 0x25 [3]
    { State.reset with sec := { State.reset.sec with slots := [(3, { filled := true })] } })).sec.slots 3 {}).revoked = true := by decide
theorem test_hostwinSet : (after .hostwinSet (sent 0x30 [0x0300] State.reset)).pmc.westNext = 3 := by decide
theorem test_resSplit : ((after .resSplit (sent 0x31 [47 + 256 * 3, 2, 0] State.reset)).getStack 47).winNext = some (3, 2) := by decide
theorem test_publish : (after .publish (sent 0x32 [0, 0, 2048, 0, 3, 2, 0] State.reset)).fab.pub = [(0, ⟨0, 2048, 2, 4⟩)] := by decide
theorem test_fabRebind : (after .fabRebind (sent 0x33 [9, 0, 2, 0] State.reset)).fab.idNext = some (9, 2) := by decide
theorem test_ringRelease : (after .ringRelease (sent 0x34 [0x107, 2, 0] State.reset)).pmc.overrides = [(.ring 7 true, 2)] := by decide
theorem test_ringRejoin : (after .ringRejoin (sent 0x34 [7, 2, 0] State.reset)).pmc.overrides = [(.ring 7 false, 2)] := by decide
theorem test_policySet : answered .policySet (sent 0x40 [0x102] State.reset) 1 = (0, [2]) ∧
    (after .policySet (sent 0x40 [0x102] State.reset)).pmc.manual = [2] := by decide
theorem test_cellForceDark : (after .cellForceDark (sent 0x41 [575, 0, 2, 0] State.reset)).pmc.overrides =
    [(.dark (.core 575), 2)] := by decide
theorem test_cellForceRelease : (after .cellForceRelease (sent 0x41 [575, 1, 2, 0] State.reset)).pmc.overrides =
    [(.release (.core 575), 2)] := by decide
theorem test_cellForceRetire_auto : (answered .cellForceRetire (sent 0x41 [575, 2, 2, 0] State.reset) 0).1 = 0x0C0D := by decide
theorem test_spareSet : (after .spareSet (sent 0x42 [0, 575, 2, 0] (reserved [0]))).pmc.overrides = [(.spare 0 575, 2)] := by decide
theorem test_linkForceRetire : (after .linkForceRetire (sent 0x43 [10 * 512, 0, 2, 0] (manual [1]))).pmc.overrides =
    [(.linkRetire 0 0 0 10, 2)] := by decide
theorem test_linkForceRetrain : (after .linkForceRetrain (sent 0x43 [0x2000 + 256, 0, 2, 0] (manual [1]))).pmc.overrides =
    [(.linkRetrain 0 0 1 0, 2)] := by decide
theorem test_linkForceReturn : (answered .linkForceReturn (sent 0x43 [0x4000, 24, 2, 0] (manual [1])) 0).1 = 0x0C0E := by decide
theorem test_clockSet : (after .clockSet (sent 0x44 [95 + 256 * 8, 2, 0] (manual [1, 2, 3, 4]))).pmc.overrides =
    [(.clock 95 8, 2)] := by decide
theorem test_marginSet : (after .marginSet (sent 0x45 [95, 0xFFFFFFFB, 2, 0] (manual [2]))).pmc.overrides =
    [(.margin 95 (-5) true, 2)] := by decide
theorem test_powerLimit : (answered .powerLimit (sent 0x46 [999] State.reset) 0).1 = 0x0C0E := by decide
theorem test_fwUpdate_soon : (answered .fwUpdate (sent 0x50 [2, 0, 0, 0, 1, 0] State.reset) 0).1 = 0x0C0F := by decide
theorem test_meterReadLegal : answered .meterReadLegal (sent 0x52 [0, 5, 1] metered) 19 = (0, List.replicate 18 0 ++ [1]) := by decide
theorem test_meterReadInformative : answered .meterReadInformative (sent 0x52 [1, 5 * 1024, 1] metered) 2 =
    (0, [0x80000000, 5]) := by decide
theorem test_jobTag : ((after .jobTag (sent 0x53 [95, 9, 2, 0] boundCell)).getWork 95).tagNext = [(9, 2)] := by decide

/-! ### Descriptors -/

/-- A descriptor of 16 words: KIND, the other bits of word 0, and some further words. -/
def descOf (kind w0 : Nat) (rest : List W32) : List W32 :=
  BitVec.ofNat 32 (kind * 2 ^ 28 + w0) :: rest ++ List.replicate (15 - rest.length) 0

/-- Core `n` about to issue `d`, in Develop. -/
def issues (n : Nat) (d : List W32) (c : Core) : State := { State.reset with
  core := [(n, { c with seq := { c.seq with state := .issuing, len := 1 } })]
  mem := memWrite [] (scratchAddr n 0) (wordBytes d)
  pmc := { State.reset.pmc with phase := 1 } }

set_option maxRecDepth 20000 in
theorem witness_DescriptorKindAndPoison :
    (let s := issues 575 (descOf 11 0 []) {}
     s.issuing 575 = true ∧ (s.getCore 575).seq.index = 0 ∧ 0 < (s.getCore 575).seq.len ∧
       s.poisoned (scratchAddr 575 0) 64 = false ∧ 11 ≤ dKind (s.fetch 575 0)) ∧
    dKind ((issues 0 (descOf 0 5 []) {}).fetch 0 0) = 0 ∧
    (let s := { issues 575 (descOf 1 0 []) {} with poison := [scratchAddr 575 0 / 32] }
     s.issuing 575 = true ∧ s.poisoned (scratchAddr 575 0) 64 = true) := by decide

/-- A descriptor of each KIND with a reserved bit set. -/
def spoilt (kind w0 : Nat) : List W32 := descOf kind (w0 + 2 ^ 24) []

set_option maxRecDepth 20000 in
theorem witness_DescriptorChecks :
    (let s := issues 575 (spoilt 1 0) {}
     Streams s 575 (spoilt 1 0) 0 ∧ kindOf (.dmaGet 575) (spoilt 1 0) ∧ dmCheck s 575 (spoilt 1 0) = some 2 ∧
       (s.getCore 575).dma.length < 16) ∧
    (let s := issues 0 (spoilt 1 0x8000) {}
     Streams s 0 (spoilt 1 0x8000) 0 ∧ kindOf (.dmaPut 0) (spoilt 1 0x8000) ∧ dmCheck s 0 (spoilt 1 0x8000) = some 2) ∧
    (let s := issues 0 (spoilt 2 0) {}
     Streams s 0 (spoilt 2 0) 0 ∧ kindOf (.array 0) (spoilt 2 0) ∧ arCheck (s.getCore 0) s.pmc.frame (spoilt 2 0) = some 2 ∧
       (aqRoom (s.getCore 0).arr.queue ((s.getCore 0).seq.ready 0)).isSome = true) ∧
    (let s := issues 0 (spoilt 3 0) {}
     Streams s 0 (spoilt 3 0) 0 ∧ kindOf (.ve 0) (spoilt 3 0) ∧ veCheck (s.getCore 0) (spoilt 3 0) = some 2 ∧
       (s.getCore 0).vqFill < 4) ∧
    (let s := issues 0 (spoilt 4 0x2000) {}
     Streams s 0 (spoilt 4 0x2000) 0 ∧ kindOf (.strainerExact 0) (spoilt 4 0x2000) ∧
       stCheck (s.getCore 0) s.pmc.frame (spoilt 4 0x2000) = some 2 ∧ (s.getCore 0).str.queue.length < 4) ∧
    (kindOf (.strainerPredict 0) (spoilt 4 0x4000) ∧ stCheck {} 0 (spoilt 4 0x4000) = some 2) ∧
    (kindOf (.strainerKeep 0) (spoilt 4 0x6000) ∧ stCheck {} 0 (spoilt 4 0x6000) = some 2) ∧
    (let s := issues 0 (spoilt 5 0) {}
     Streams s 0 (spoilt 5 0) 0 ∧ kindOf (.semWait 0) (spoilt 5 0) ∧ swCheck (spoilt 5 0) = some 2) ∧
    (let s := issues 0 (spoilt 6 0) {}
     Streams s 0 (spoilt 6 0) 0 ∧ kindOf (.semSignal 0) (spoilt 6 0) ∧ ssCheck s 0 (spoilt 6 0) = some 2 ∧ fld (spoilt 6 0) 0 0 4 = 0) ∧
    (let s := issues 0 (spoilt 7 0) {}
     Streams s 0 (spoilt 7 0) 0 ∧ kindOf (.slotPhase 0) (spoilt 7 0) ∧ spCheck (s.getRtr 0) (spoilt 7 0) = some 2 ∧
       (s.getRtr 0).armed = none) ∧
    (let s := issues 0 (descOf 8 0x100 []) {}
     Streams s 0 (descOf 8 0x100 []) 0 ∧ kindOf (.notice 0) (descOf 8 0x100 []) ∧ fld (descOf 8 0x100 []) 0 8 8 ≠ 0) ∧
    (let s := issues 0 (descOf 9 0x1000 []) {}
     Streams s 0 (descOf 9 0x1000 []) 0 ∧ kindOf (.mark 0) (descOf 9 0x1000 []) ∧ fld (descOf 9 0x1000 []) 0 12 3 ≠ 0 ∧
       fld (descOf 9 0x1000 []) 0 0 4 = 0) ∧
    (let s := issues 0 (descOf 10 0x1000 []) {}
     Streams s 0 (descOf 10 0x1000 []) 0 ∧ kindOf (.endDesc 0) (descOf 10 0x1000 []) ∧ fld (descOf 10 0x1000 []) 0 12 3 ≠ 0) := by
  simp only [Streams, kindOf]
  and_intros <;> decide

/-- Any entry in a queue. -/
def anyQueued (d : List W32) : Queued := { desc := d, index := 0, entered := 0 }

/-- A GET of no rows. -/
def zeroDma : List W32 := descOf 1 0 []

set_option maxRecDepth 20000 in
theorem witness_EngineIssue :
    (let s := issues 575 zeroDma { dma := List.replicate 16 (anyQueued zeroDma) }
     Streams s 575 zeroDma 0 ∧ kindOf (.dmaGet 575) zeroDma ∧ 16 ≤ (s.getCore 575).dma.length) ∧
    (let s := issues 575 zeroDma { dma := List.replicate 15 (anyQueued zeroDma) }
     (s.getCore 575).dma.length < 16 ∧ dmCheck s 575 zeroDma = none) ∧
    (let s := issues 0 (descOf 1 0x8000 []) {}
     Streams s 0 (descOf 1 0x8000 []) 0 ∧ kindOf (.dmaPut 0) (descOf 1 0x8000 []) ∧ dmCheck s 0 (descOf 1 0x8000 []) = none) ∧
    (let s := issues 0 (descOf 2 0 []) { arr := { queue := List.replicate 4 (anyQueued (descOf 2 0 [1])) } }
     Streams s 0 (descOf 2 0 []) 0 ∧ kindOf (.array 0) (descOf 2 0 []) ∧
       aqRoom (s.getCore 0).arr.queue ((s.getCore 0).seq.ready 0) = none) ∧
    (let s := issues 0 (descOf 2 0 []) { arr := { queue := List.replicate 3 (anyQueued (descOf 2 0 [1])) } }
     (aqRoom (s.getCore 0).arr.queue ((s.getCore 0).seq.ready 0)).isSome = true ∧
       arCheck (s.getCore 0) s.pmc.frame (descOf 2 0 []) = none) ∧
    (let d := descOf 3 0 (List.replicate 11 0 ++ [0x00000101])
     let s := issues 0 d { ve := { queue := List.replicate 4 (anyQueued d) } }
     Streams s 0 d 0 ∧ kindOf (.ve 0) d ∧ 4 ≤ (s.getCore 0).vqFill) ∧
    veCheck {} (descOf 3 0 []) = none ∧
    (let d := descOf 4 0x2000 [0, 0, 0, 0, 0, 0, 0, 0, 0, 1]
     let s := issues 0 d { str := { queue := List.replicate 4 (anyQueued d) } }
     Streams s 0 d 0 ∧ kindOf (.strainerExact 0) d ∧ 4 ≤ (s.getCore 0).str.queue.length) := by
  simp only [Streams, kindOf]
  and_intros <;> decide

set_option maxRecDepth 20000 in
theorem witness_StrainerIssue :
    (let d := descOf 4 0x2000 (List.replicate 13 0 ++ [128])
     let s := issues 0 d { str := { queue := List.replicate 3 (anyQueued d) } }
     Streams s 0 d 0 ∧ kindOf (.strainerExact 0) d ∧ (s.getCore 0).str.queue.length < 4 ∧
       stCheck (s.getCore 0) s.pmc.frame d = none) ∧
    (let d := descOf 4 0x400F (List.replicate 10 0 ++ [2, 0, 0, 128])
     let s := issues 0 d {}
     Streams s 0 d 0 ∧ kindOf (.strainerPredict 0) d ∧ stCheck (s.getCore 0) s.pmc.frame d = none) ∧
    (let d := descOf 4 0x6000 []
     let s := issues 0 d { scr := { valid := [0] }, str := { ctx := [(0, { built := some 0, desc := descOf 4 0x4000 [] })] } }
     Streams s 0 d 0 ∧ kindOf (.strainerKeep 0) d ∧ stCheck (s.getCore 0) s.pmc.frame d = none) := by
  simp only [Streams, kindOf]
  and_intros <;> decide

set_option maxRecDepth 20000 in
theorem witness_SemaphoreWait :
    (let d := descOf 5 (511 * 16) [3]
     let s := issues 0 d { scr := { sem := [(511, 3)] } }
     Streams s 0 d 0 ∧ kindOf (.semWait 0) d ∧ swCheck d = none ∧ fld d 1 0 16 ≤ tget (s.getCore 0).scr.sem (fld d 0 4 9) 0) ∧
    (let d := descOf 5 (511 * 16) [4]
     let s := issues 0 d { scr := { sem := [(511, 3)] } }
     Streams s 0 d 0 ∧ kindOf (.semWait 0) d ∧ swCheck d = none ∧ tget (s.getCore 0).scr.sem (fld d 0 4 9) 0 < fld d 1 0 16) ∧
    (let s := withCore 575 { seq := { waiting := some ⟨false, 511, 3, 0, 0⟩ }, scr := { sem := [(511, 3)] } }
     (s.getCore 575).seq.waiting = some ⟨false, 511, 3, 0, 0⟩ ∧ 3 ≤ tget (s.getCore 575).scr.sem 511 0) := by
  simp only [Streams, kindOf]
  and_intros <;> decide

/-- A plate places cores 0 and 575 at its positions 0 and 1. -/
def pairCell (s : State) : State := { s with pmc := { s.pmc with work := [(95, { quads := [0], bound := some ⟨0, 0, 0, 0, 0, .running, [0, 575],
  1, [0]⟩ })] } }

/-- A SEM_SIGNAL of 5 to semaphore 511, after the array or at once. -/
def sigDesc (after : Nat) : List W32 := descOf 6 (511 * 16 + after) [5]

set_option maxRecDepth 20000 in
theorem witness_SemaphoreSignal :
    (let s := issues 0 (sigDesc 0) { scr := { sem := [(511, 65530)] } }
     Streams s 0 (sigDesc 0) 0 ∧ kindOf (.semSignal 0) (sigDesc 0) ∧ ssCheck s 0 (sigDesc 0) = none ∧ fld (sigDesc 0) 0 0 4 = 0 ∧
       flag (sigDesc 0) 0 15 = false ∧ tget (s.getCore 0).scr.sem 511 0 + 5 = 65535) ∧
    (let s := issues 0 (sigDesc 0) { scr := { sem := [(511, 65531)] } }
     65535 < tget (s.getCore 0).scr.sem 511 0 + 5 ∧ (s.getCore 0).scr.satAt = none) ∧
    (let d := descOf 6 (511 * 16 + 0x8000) [5, 1]
     let s := pairCell (issues 0 d { position := some (95, 0) })
     Streams s 0 d 0 ∧ kindOf (.semSignal 0) d ∧ ssCheck s 0 d = none ∧ fld d 0 0 4 = 0 ∧ flag d 0 15 = true ∧
       s.target 0 (fld d 2 0 16) = some 575) ∧
    (let s := issues 0 (sigDesc 1) { seq := { pend := List.replicate 7 ⟨sigDesc 1, [0, 0, 0, 0]⟩ } }
     Streams s 0 (sigDesc 1) 0 ∧ kindOf (.semSignal 0) (sigDesc 1) ∧ ssCheck s 0 (sigDesc 1) = none ∧
       fld (sigDesc 1) 0 0 4 ≠ 0 ∧ (s.getCore 0).seq.pend.length < 8) ∧
    (let s := withCore 575 { seq := { pend := [⟨sigDesc 2, [0, 0, 0, 0]⟩, ⟨sigDesc 1, [1, 0, 0, 0]⟩] } }
     (s.getCore 575).seq.pend[1]? = some ⟨sigDesc 1, [1, 0, 0, 0]⟩ ∧ dKind (sigDesc 1) = 6 ∧
       (s.getCore 575).afterDone ⟨sigDesc 1, [1, 0, 0, 0]⟩ = true ∧ flag (sigDesc 1) 0 15 = false) ∧
    (let p : PendingSig := ⟨descOf 6 (511 * 16 + 0x8000) [5, 1], [0, 0, 0, 0]⟩
     let s := pairCell (withCore 0 { position := some (95, 0), seq := { pend := [p] } })
     (s.getCore 0).seq.pend[0]? = some p ∧ dKind p.desc = 6 ∧ (s.getCore 0).afterDone p = true ∧ flag p.desc 0 15 = true ∧
       s.target 0 (fld p.desc 2 0 16) = some 575) ∧
    ((twoCores.getCore 3).ccb.state = .resetting ∧ (twoCores.getCore 4).ccb.state ≠ .resetting ∧ 511 < 512 ∧
      (sends ⟨5, 3, 0, signalBody 3 511 1⟩ twoCores).underWay (isSignal 3 511 1) ≠ none) := by
  simp only [Streams, kindOf]
  and_intros <;> decide

/-- A SLOT_PHASE to phase 0 at a round. -/
def phaseDesc (round : Nat) : List W32 := descOf 7 0 [BitVec.ofNat 32 round]

set_option maxRecDepth 20000 in
theorem witness_PhaseAndNotice :
    (let s := { issues 575 (phaseDesc 3) {} with rtr := [(575, { armed := some (0, 1) })] }
     Streams s 575 (phaseDesc 3) 0 ∧ kindOf (.slotPhase 575) (phaseDesc 3) ∧ (s.getRtr 575).armed ≠ none) ∧
    (let s := { issues 0 (phaseDesc 3) {} with rtr := [(0, { active := [(16400, 1)] })] }
     Streams s 0 (phaseDesc 3) 0 ∧ (s.getRtr 0).armed = none ∧ spCheck (s.getRtr 0) (phaseDesc 3) = none ∧
       16 * (max (s.getCore 0).seq.nextIssue (tget (s.getCore 0).seq.freed 5 0) + 4) <
         1024 * (s.getQuad (coreQuad 0)).ratio * fld (phaseDesc 3) 1 0 16) ∧
    (let s := { issues 0 (phaseDesc 0) {} with rtr := [(0, { active := [(16400, 1)] })] }
     Streams s 0 (phaseDesc 0) 0 ∧ (s.getRtr 0).armed = none ∧ spCheck (s.getRtr 0) (phaseDesc 0) = none ∧
       1024 * (s.getQuad (coreQuad 0)).ratio * fld (phaseDesc 0) 1 0 16 ≤
         16 * (max (s.getCore 0).seq.nextIssue (tget (s.getCore 0).seq.freed 5 0) + 4)) ∧
    (let d := descOf 8 0xFD [19]
     let s := issues 0 d {}
     Streams s 0 d 0 ∧ kindOf (.notice 0) d ∧ (List.range 16).all (fun w => w < 2 || dw d w = 0) = true ∧ fld d 0 24 4 = 0 ∧
       fld d 0 8 8 = 0 ∧ fld d 1 8 24 = 0 ∧ (toSigned 8 (fld d 0 0 8)).natAbs = 3) := by
  simp only [Streams, kindOf]
  and_intros <;> decide

/-- A MARK and an END. -/
def markDesc (after : Nat) : List W32 := descOf 9 (0x00FF0000 + after) [0x123456]
def endWords : List W32 := descOf 10 0 []

set_option maxRecDepth 20000 in
theorem witness_MarksAndEnd :
    (let s := issues 575 (markDesc 0) { seq := { markPtr := 15 } }
     Streams s 575 (markDesc 0) 0 ∧ kindOf (.mark 575) (markDesc 0) ∧ flag (markDesc 0) 0 15 = false ∧
       (List.range 16).all (fun w => w < 2 || dw (markDesc 0) w = 0) = true ∧ fld (markDesc 0) 0 24 4 = 0 ∧
       fld (markDesc 0) 0 12 3 = 0 ∧ fld (markDesc 0) 0 4 4 = 0 ∧ fld (markDesc 0) 1 24 8 = 0 ∧ fld (markDesc 0) 0 0 4 = 0) ∧
    (let s := issues 0 (markDesc 8) { seq := { pend := List.replicate 7 ⟨markDesc 8, [0, 0, 0, 0]⟩ } }
     Streams s 0 (markDesc 8) 0 ∧ fld (markDesc 8) 0 0 4 ≠ 0 ∧ (s.getCore 0).seq.pend.length < 8) ∧
    (let s := withCore 575 { seq := { pend := [⟨markDesc 8, [0, 0, 0, 0]⟩] } }
     (s.getCore 575).seq.pend[0]? = some ⟨markDesc 8, [0, 0, 0, 0]⟩ ∧ dKind (markDesc 8) = 9 ∧
       (s.getCore 575).afterDone ⟨markDesc 8, [0, 0, 0, 0]⟩ = true) ∧
    (let s := issues 575 endWords {}
     Streams s 575 endWords 0 ∧ kindOf (.endDesc 575) endWords ∧ flag endWords 0 15 = false ∧
       (List.range 16).all (fun w => w < 2 || dw endWords w = 0) = true ∧ fld endWords 0 24 4 = 0 ∧ fld endWords 0 12 3 = 0 ∧
       fld endWords 0 0 8 = 0 ∧ fld endWords 1 24 8 = 0) ∧
    (let s := withCore 575 { seq := { endDesc := some endWords }, late := true }
     (s.getCore 575).seq.endDesc = some endWords ∧ (s.getCore 575).arr.queue = [] ∧ (s.getCore 575).ve.queue = [] ∧
       (s.getCore 575).str.queue = [] ∧ (s.getCore 575).dma = [] ∧ (s.getCore 575).seq.pend = [] ∧
       (s.getCore 575).late = true) ∧
    (let s := { withCore 575 { late := true, seq := { state := .issuing, len := 16384, index := 16384 } } with
       pmc := { State.reset.pmc with phase := 2, point := 2 } }
     s.issuing 575 = true ∧ (s.getCore 575).seq.len ≠ 0 ∧ (s.getCore 575).seq.len ≤ (s.getCore 575).seq.index) := by
  simp only [Streams, kindOf]
  and_intros <;> decide

set_option maxRecDepth 20000 in
theorem test_semWait : ((after (.semWait 0) (issues 0 (descOf 5 16 [2]) { scr := { sem := [(1, 3)] } })).getCore 0).scr.sem =
    [(1, 1)] := by decide
set_option maxRecDepth 20000 in
theorem test_semWait_holds : ((after (.semWait 0) (issues 0 (descOf 5 16 [4]) { scr := { sem := [(1, 3)] } })).getCore 0).seq.state =
    .waitSem := by decide
theorem test_semWaitPass : ((after (.semWaitPass 5) (withCore 5 { seq := { waiting := some ⟨false, 1, 2, 0, 9⟩ }, scr := { sem := [(1,
  2)] } })).getCore 5).scr.sem = [] := by decide
set_option maxRecDepth 20000 in
theorem test_semSignal_saturates : ((after (.semSignal 0) (issues 0 (sigDesc 0) { scr := { sem := [(511, 65531)] } })).getCore 0).scr.sem =
    [(511, 65535)] ∧
    ((after (.semSignal 0) (issues 0 (sigDesc 0) { scr := { sem := [(511, 65531)] } })).getCore 0).ccb.fault = 8 := by decide
theorem test_pendingSignalSend : ((after (.pendingSignalSend 5 0) (withCore 5 { seq := { pend := [⟨sigDesc 1, [0, 0, 0,
  0]⟩] } })).getCore 5).scr.sem =
    [(511, 5)] := by decide
theorem test_signalMessage_reset : (after (.signalMessage 3 0 1 0 false) (sends ⟨5, 3, 0,
  signalBody 3 0 1⟩ twoCores)).core = twoCores.core := by decide
set_option maxRecDepth 20000 in
theorem test_slotPhase : ((after (.slotPhase 0) { issues 0 (phaseDesc 3) {} with rtr := [(0, { active := [(16400, 1)] })] }).getRtr 0).armed =
    some (0, 3) := by decide
set_option maxRecDepth 20000 in
theorem test_notice : ((after (.notice 0) (issues 0 (descOf 8 0xFE [10]) {})).getCore 0).seq.noticeUntil = 16 + 2500 := by decide
set_option maxRecDepth 20000 in
theorem test_mark : ((after (.mark 575) (issues 575 (markDesc 0) { seq := { markPtr := 15 } })).getCore 575).seq.markPtr = 0 ∧
    ((after (.mark 575) (issues 575 (markDesc 0) { seq := { markPtr := 15 } })).getCore 575).seq.markLog.head? =
      some (60, 0xFF123456) := by decide
theorem test_markEntryWrite : ((after (.markEntryWrite 5 0) (withCore 5 { seq := { pend := [⟨markDesc 8, [0, 0, 0, 0]⟩] } })).getCore 5).seq.markPtr
    = 1 := by decide
set_option maxRecDepth 20000 in
theorem test_endDesc : ((after (.endDesc 5) (issues 5 endWords {})).getCore 5).seq.state = .inEnd := by decide
theorem test_endComplete_late : ((after (.endComplete 5) (withCore 5 { seq := { endDesc := some endWords }, late := true })).getCore 5).ccb.fault =
    0x10 := by decide
set_option maxRecDepth 20000 in
theorem test_bad_kind : ((after (.array 5) (issues 5 (descOf 11 0 []) {})).getCore 5).seq.faultInfo = 0x030100B0 := by decide

/-! ### Engine events -/

/-- An ARRAY of M = N = K = 1 into tile 0 that pushes it, and a signal at its completion. -/
def arrDesc (w15 : W32) : List W32 := descOf 2 0x00090020 ([0, 0, 0, 0, 0, 0, 0, 0, 1, 0x00010001] ++ List.replicate 4 0 ++ [w15])

/-- It waits in the queue, and it has issued `p` of two blocks. -/
def arrWaiting : Queued := { desc := arrDesc 0, index := 0, entered := 20, ord := 1, blocks := 1 }
def arrRunning (p : Nat) : Queued := { arrWaiting with started := true, progress := p, blocks := 2, start := 100 }

/-- One core with a queue in its array. -/
def arrayCore (l : List Queued) : State := withCore 575 { arr := { queue := l, issued := l.length } }

theorem witness_ArrayIssueStart :
    let v := ((arrayCore [arrWaiting]).settle 575 5).getCore 575
    (Ords ((arrayCore [arrWaiting]).getCore 575).arr.queue ((arrayCore [arrWaiting]).getCore 575).arr.issued ∧
      v.arr.queue.find? arrayWaits = some arrWaiting ∧ v.loadable arrWaiting = true ∧ heldFor v arrWaiting = false) ∧
    ∀ x, fullSince v arrWaiting x = none := ⟨by unfold Ords; decide, fun _ => rfl⟩

theorem witness_WeightSwap :
    (((arrayCore [arrRunning 1]).getCore 575).arr.queue.find? (fun q => q.started && q.progress < q.blocks) = some (arrRunning 1) ∧
      (arrRunning 1).stallFrom = none) ∧
    ∀ x, fullSince ((arrayCore [arrRunning 1]).getCore 575) (arrRunning 1) x = none := ⟨by decide, fun _ => rfl⟩

/-- The last of its blocks has started; a zero-count ARRAY has no window. -/
def arrClosed (w15 : W32) : Queued := { arrRunning 2 with desc := arrDesc w15, sums := [[Num.zero], [Num.zero]] }
def arrZeroCount : Queued := { desc := descOf 2 0x20 [], index := 0, entered := 0, ord := 1 }

theorem witness_ArrayComplete :
    (((arrayCore [arrClosed 0]).getCore 575).arr.queue = [arrClosed 0] ∧ (arrClosed 0).closed = true ∧
      (arrClosed 0).stallFrom = none ∧ arZero (arrClosed 0).desc = false ∧ pushes (arrClosed 0).desc = 1) ∧
    arrZeroCount.noWindow = true ∧
    (let s := withCore 0 { arr := { queue := [arrClosed 0x81FF0003] }, ve := { ftq := [(1, 0, 0), (1, 0, 0), (1, 0, 0)] } }
     (s.getCore 0).arr.queue = [arrClosed 0x81FF0003] ∧ flag (arrClosed 0x81FF0003).desc 15 31 = true ∧
       flag (arrClosed 0x81FF0003).desc 15 30 = false ∧
       (s.getCore 0).ve.ftq.length + pushes (arrClosed 0x81FF0003).desc ≤ 4) ∧
    flag (arrClosed 0).desc 15 31 = false := by decide

theorem test_arrayIssueStart : ((after (.arrayIssueStart 575) (arrayCore [arrWaiting])).getCore 575).arr.queue.map (·.started) = [true] := by
  decide
theorem test_weightSwap : ((after (.weightSwap 575) (arrayCore [arrRunning 1])).getCore 575).arr.queue.map (·.progress) = [2] := by
  decide
theorem test_arrayComplete : (((after (.arrayComplete 575) (arrayCore [arrClosed 0])).getCore 575).ve.ftq.map (·.1),
    ((after (.arrayComplete 575) (arrayCore [arrClosed 0])).getCore 575).ve.ftq.map (·.2.1)) = ([0], [9]) := by decide
theorem test_arrayComplete_signal : ((after (.arrayComplete 575) (arrayCore [arrClosed 0x81FF0003])).getCore 575).scr.sem = [(511, 3)] := by
  decide

/-- A VE descriptor of one instruction, one row and one column, from the finished-tile queue or a tile buffer. -/
def veDesc (src : Nat) : List W32 := descOf 3 (src * 2 ^ 14) ([0, 0, 1] ++ List.replicate 8 0 ++ [0x00010101])
def veQueued (src : Nat) : Queued := { desc := veDesc src, index := 3, entered := 5, ord := 1 }
def veCore (src : Nat) (q : Queued) : State := withCore 575 { ve := { queue := [q], ftq := if src = 0 then [(2, 0, 9)] else [] } }

/-- An infusion whose first word is not valid. -/
def badProgram : State := veCore 0 { veQueued 0 with prog := [0xFFFFFFFF] }

set_option maxRecDepth 20000 in
theorem witness_VeRows :
    (((veCore 0 (veQueued 0)).getCore 575).ve.queue.find? veWaits = some (veQueued 0) ∧
      ((veCore 0 (veQueued 0)).getCore 575).veStart (veQueued 0) 0 0 = some (17, 17) ∧
      (∀ b ∈ ((veCore 0 (veQueued 0)).getCore 575).ve.queue, b.badProg = false) ∧ flag (veDesc 0) 0 10 = false) ∧
    flag (descOf 3 0xC600 []) 0 10 = true ∧
    ((badProgram.getCore 575).ve.queue.find? veWaits = some { veQueued 0 with prog := [0xFFFFFFFF] } ∧
      (badProgram.getCore 575).ve.queue.find? Queued.badProg = some { veQueued 0 with prog := [0xFFFFFFFF] }) ∧
    (let q := { veQueued 0 with bad := 1 }
     ((veCore 0 q).getCore 575).ve.queue.find? veWaits = some q ∧ ((veCore 0 q).getCore 575).ve.queue.find? Queued.badProg = some q) := by
  decide

theorem witness_VeRelease :
    (let q := { veQueued 0 with started := true }
     ((veCore 0 q).getCore 575).ve.queue.find? veRuns = some q ∧ veSrc q.desc = 0) ∧
    (let q := { veQueued 2 with started := true }
     ((veCore 2 q).getCore 575).ve.queue.find? veRuns = some q ∧ veSrc q.desc ≠ 0) := by
  decide

theorem witness_VeCompletes :
    (let q := { veQueued 0 with desc := descOf 3 0 [] }
     ((veCore 0 q).getCore 575).ve.queue = [q] ∧ veZero q.desc = true) ∧
    (let q := { veQueued 2 with started := true, progress := 1 }
     ((veCore 2 q).getCore 575).ve.queue = [q] ∧ q.started = true ∧ q.progress = veNt q.desc) := by decide

theorem test_veComplete_zero : ((after (.veComplete 575) (veCore 0 { veQueued 0 with desc := descOf 3 0 [] })).getCore 575).ve.done = 1 := by
  decide

/-- A KEEP, a zero-count build, and a build that has started. -/
def strQueued (op : Nat) (on : Bool) : Queued := { desc := descOf 4 (op * 2 ^ 13) [], index := 7, entered := 3, ord := 1, started := on }
def strCore (q : Queued) : State := withCore 575 { str := { queue := [q] } }

theorem witness_StrainerEvents :
    (((strCore (strQueued 3 false)).getCore 575).str.queue = [strQueued 3 false] ∧ stOp (strQueued 3 false).desc = 3) ∧
    (((strCore (strQueued 1 false)).getCore 575).str.queue = [strQueued 1 false] ∧ (strQueued 1 false).started = false ∧
      stOp (strQueued 1 false).desc ≠ 3 ∧ ((strCore (strQueued 1 false)).getCore 575).arr.queue = []) ∧
    (((strCore (strQueued 3 true)).getCore 575).str.queue = [strQueued 3 true] ∧ (strQueued 3 true).started = true) ∧
    (((strCore (strQueued 2 true)).getCore 575).str.queue = [strQueued 2 true] ∧ stOp (strQueued 2 true).desc = 2) := by decide

theorem test_strainerBuildStart : ((after (.strainerBuildStart 575) (strCore (strQueued 1 false))).getCore 575).str.queue.map (·.started) =
    [true] := by decide
theorem test_strainerComplete : ((after (.strainerComplete 575) (strCore (strQueued 1 true))).getCore 575).str.done = 1 := by decide

/-- A GET of one row of 128 bytes through handle 0 to stream 5, a PUT of the same size. -/
def getDesc : List W32 := descOf 1 0 ([5 * 2 ^ 18, 0, 0, 0, 128, 1])
def putDesc : List W32 := descOf 1 0x8000 ([5 * 2 ^ 18, 0, 0, 0, 128, 1])
def putOut (acks : List (Nat × Nat)) : Queued := { anyQueued putDesc with ord := 1, index := 4, started := true, progress := 1, acks := acks }

/-- A PUT of no rows to core 0's scratch, with a remote signal of 3 to semaphore 511. -/
def remoteSig : List W32 := descOf 1 0x8000 ([0, 0, BitVec.ofNat 32 (scratchAddr 0 0), BitVec.ofNat 32 (scratchAddr 0 0 / 2 ^ 32)] ++
  List.replicate 10 0 ++ [0xC1FF0003])
def dataBeat : Nat × Nat × Beat :=
  (0, 5, { data := List.replicate 128 7, poison := 0, head := false, last := true, sig := false, stream := 5 })

/-- The PUT has left, and the acknowledgement or refusal (status `st`) of node 3 is under way. -/
def putSent (acks : List (Nat × Nat)) (st : Nat) : State :=
  sends ⟨6, coreQuad 575, 3, [ackBody st 0 true (coreSlot 575) 0]⟩ (withCore 575 { dmaIssued := 1, dma := [putOut acks], mcast := [(0, 2)] })

theorem witness_DmaEvents :
    (let s := withCore 575 { dma := List.replicate 15 (anyQueued (descOf 1 0x40 [1])) ++ [anyQueued (descOf 1 0 [1])] }
     (s.getCore 575).dma[15]? = some (anyQueued (descOf 1 0 [1])) ∧ dmZero (descOf 1 0 [1]) = true ∧
       (∀ z ∈ (s.getCore 575).dma.take 15, dmStream z.desc ≠ dmStream (descOf 1 0 [1]))) ∧
    (let q := anyQueued remoteSig
     let s := withCore 575 { dma := [q] }
     dmZero remoteSig = true ∧ (∀ z ∈ (s.getCore 575).dma.eraseIdx 0, dmStream z.desc = dmStream remoteSig → (s.getCore 575).allAcked z = false) ∧
       q.poisoned = false ∧ dmPut remoteSig = true ∧ flag remoteSig 15 31 = true ∧ flag remoteSig 15 30 = true ∧
       (s.unitAt (dmAddr remoteSig)).map (·.1) = some (.core 0) ∧ (s.getCore 0).ccb.state ≠ .resetting) ∧
    (let q := { anyQueued getDesc with started := true }
     let s := { withCore 575 { dma := [q] } with mesh := { State.reset.mesh with core := [(575, { rx := [dataBeat] })] } }
     (s.getCore 575).dma[0]? = some q ∧ dmZero q.desc = false ∧ dmPut q.desc = false ∧ (s.getCore 575).getIsNext q = true ∧
       (tget s.mesh.core 575 {}).xfers = [] ∧
       dmBeats q.desc ≤ ((tget s.mesh.core 575 {}).rx.filter (isData (dmRstream q.desc))).length) ∧
    (let s := putSent [] 0
     (s.getCore 575).dma[0]? = some (putOut []) ∧ Ords (s.getCore 575).dma (s.getCore 575).dmaIssued ∧
       (s.getCore 575).allAcked (putOut []) = false ∧ (s.underWay ((s.getCore 575).ackFor 575 0 false)).isSome = true ∧
       dmPut putDesc = true ∧ (putOut []).acks.length + 1 < tget (s.getCore 575).mcast (dmStream putDesc) 1) ∧
    (let s := putSent [(4, 0)] 0
     (s.getCore 575).allAcked (putOut [(4, 0)]) = false ∧ (s.underWay ((s.getCore 575).ackFor 575 0 false)).isSome = true ∧
       tget (s.getCore 575).mcast (dmStream putDesc) 1 ≤ (putOut [(4, 0)]).acks.length + 1) ∧
    (let s := putSent [] 0x0B01
     s.underWay (fun m => (s.getCore 575).ackFor 575 0 true m && (ackFields m).2.2.2.2 = 0x0B01) ≠ none) := by
  unfold Ords; decide

theorem test_dmaComplete_zero : ((after (.dmaComplete 575 0 9) (withCore 575 { dma := [anyQueued (descOf 1 0 [])] })).getCore 575).dmaDone = 1 := by
  decide
theorem test_dmaComplete_remote : ((after (.dmaComplete 575 0 9) (withCore 575 { dma := [anyQueued remoteSig] })).getCore 0).scr.sem = [(511,
  3)] := by
  decide
theorem test_dmaAck : ((after (.dmaAck 575 0 ⟨9, false⟩) (putSent [(4, 0)] 0)).getCore 575).dmaDone = 1 := by decide
theorem test_dmaNak : ((after (.dmaNak 575 0 ⟨0x0B01, false⟩) (putSent [] 0x0B01)).getCore 575).seq.faultInfo = 0x0B010010 ∧
    ((after (.dmaNak 575 0 ⟨0x0B01, false⟩) (putSent [] 0x0B01)).getCore 575).seq.faultIdx = 4 := by decide

/-! ### The control network and mesh destinations -/

theorem witness_ShutterArming : ((withQuad 95 { source := 5 }).getQuad 95).source = 5 ∧
    ((withQuad 95 { source := 0 }).getQuad 95).source ≠ 5 ∧ State.reset.fioFitted 3 = true ∧ State.reset.siteFitted 0 = true ∧
    State.reset.reaches nodePmc 95 = true ∧ (withQuad 0 { cut := 15 }).reaches nodePmc 95 = false ∧
    State.reset.reaches nodePmc (nodeFio 3) = true ∧ State.reset.reaches nodePmc (nodeGate 0) = true ∧
    (let s := { State.reset with sec := { State.reset.sec with f32 := true, h2 := true } }
     s.fioFitted 7 = true ∧ s.siteFitted 1 = true) := by decide

theorem witness_Heartbeats : ((withQuad 95 { fired := true }).getQuad 95).fired = true ∧
    (withQuad 95 { fired := true }).reaches 95 nodePmc = true ∧
    (let s := { State.reset with mesh := { State.reset.mesh with fired := [rowFio 0] } }
     s.fioFitted 0 = true ∧ s.mesh.fired.contains (rowFio 0) = true ∧ s.reaches (nodeFio 0) nodePmc = true) := by decide

theorem witness_TwinWires : controlRow 95 1 = some 6979 ∧ ((withQuad 95 { twin := 2 }).getQuad 95).twin.getLsbD 1 = true ∧
    ((withQuad 95 {}).getQuad 95).twin.getLsbD 1 = false ∧ ctlMate 95 1 ≠ none ∧ controlRow 95 0 = none ∧ controlRow 0 1 = none := by decide

/-- A notice of core 575 under way. -/
def noticed : State := sends ⟨8, 95, 95, [noticeBody (coreSlot 575) (-3) 20]⟩ State.reset

theorem witness_LoadNotices : coreQuad 575 = 95 ∧
  noticed.underWay (fun m => m.type = tyNotice && m.src = 95 && m.body = [noticeBody (coreSlot 575) (-3) 20]) ≠ none ∧
    ((withQuad 95 { rail := 3 }).getQuad 95).failedPh = 0 ∧ ((withQuad 95 { rail := 3 }).getQuad 95).rail = 3 ∧
    ((withQuad 95 { rail := 2 }).getQuad 95).rail ≠ 3 := by decide

/-- A barrier of two in which one has arrived, of this panel or of a hall cell that it is the master of. -/
def halfBarrier (hall : Bool) : Barrier := { newBarrier 5 2 40 hall with arrived := [(1, 40)] }
def barriered (b : Barrier) : State := { State.reset with
  fab := { State.reset.fab with barriers := [b], hallIndex := if b.hall then some 1 else none, hallMembers := [0, 9] } }

theorem witness_BarrierArrivals :
    ((State.reset.getBarrier 5).getD (newBarrier 5 2 40 (State.reset.hallBarrier 5)) = newBarrier 5 2 40 false ∧
      (newBarrier 5 2 40 false).released = false ∧ (newBarrier 5 2 40 false).arrived.length < 2 ∧ State.reset.reaches (coreQuad 2) nodePmc = true) ∧
    (((barriered (halfBarrier false)).getBarrier 5).getD (newBarrier 5 2 50 ((barriered (halfBarrier false)).hallBarrier 5)) =
      halfBarrier false ∧ (halfBarrier false).arrived ≠ [] ∧
      (halfBarrier false).arrived.length + 1 = (halfBarrier false).count) := by decide

/-- A member's BARRIER has come before any arrival of the master's own. -/
theorem witness_BarrierArrivals_first :
    let a : Barrier := { newBarrier 5 0 40 true with panels := [9] }
    (barriered a).getBarrier 5 = some a ∧ a.arrived = [] ∧ a.released = false ∧ { a with count := 2 }.arrived.length < 2 := by decide

/-- Panel 1 of a hall whose master, panel 0, lies west on ring 0. -/
def memberOf : State := { State.reset with
  fab := { State.reset.fab with id := 1, hallIndex := some 7, hallMembers := [0, 1], barriers := [halfBarrier true] }
  ring := [(0, { bypass := false, map := [0, 1] })]
  port := [(0, { mode := .x8 })] }

theorem witness_BarrierArrivals_hall :
    ((barriered (halfBarrier true)).getBarrier 5).getD (newBarrier 5 2 50 ((barriered (halfBarrier true)).hallBarrier 5)) =
      halfBarrier true ∧ (halfBarrier true).released = false ∧ (halfBarrier true).arrived.length < 2 ∧
    (halfBarrier true).arrived.length + 1 = (halfBarrier true).count ∧
    (memberOf.fab.hallMembers.foldl min memberOf.panelId = 0 ∧ memberOf.panelId = 1 ∧ memberOf.route 0 = some (0, true)) :=
  ⟨rfl, by decide⟩

theorem witness_BarrierReleases :
    let b := { halfBarrier false with released := true }
    (barriered b).getBarrier 5 = some b ∧ b.released = true ∧ 1 < 576 ∧ (∃ a ∈ b.arrived, a.1 = 1) ∧
    (barriered b).reaches nodePmc (coreQuad 1) = true ∧ (∃ a ∈ { b with arrived := [(575, 0)] }.arrived, a.1 = 575) ∧
    (withQuad 93 { cut := 15 }).reaches nodePmc (coreQuad 575) = false := by decide

theorem witness_HallBarriers :
    (let s := barriered (halfBarrier true)
     ForPanel s 31 goodFlit (copyOf goodFlit 0x2 (barrierBody s 5 1 40)) ∧ ForPanel s 31 goodFlit (copyOf goodFlit 0x3 (barrierBody s 5 0 40))) ∧
    (goodFlit.dest ≠ memberOf.panelId ∧ memberOf.route goodFlit.dest = some (0, true) ∧ (memberOf.getPort 31).first = []) ∧
    ((barriered (halfBarrier true)).hallMaster = true ∧
      ((barriered (halfBarrier true)).getBarrier 5).getD (newBarrier 5 0 50 true) = halfBarrier true ∧
      (halfBarrier true).hall = true) ∧
    ((barriered (halfBarrier true)).getBarrier 5 = some (halfBarrier true) ∧ (halfBarrier true).released = false) := by
  unfold ForPanel; decide

/-- A staged set of SEQ 3 whose core image, of one packet, has this digest. -/
def staged (c : Core) (hash : List Byte) : State := { withCore 575 c with
  sec := { State.reset.sec with staged := 3, stagedHashes := [[], hash] } }
def wholeFw : CoreFw := { packets := [(0, [1, 2, 3, 4, 5, 6])] }

theorem witness_FirmwareBroadcast :
    (let s := staged { ccb := { state := .ready } } []
     s.fwSeqOk 3 = true ∧ (s.getCore 575).noFw = false ∧ (s.getCore 575).fw.missing 24 = [0] ∧ (s.getCore 575).fw.repairs < 3) ∧
    (let s := staged { ccb := { state := .ready }, fw := { repairs := 3 } } []
     s.fwSeqOk 3 = true ∧ (s.getCore 575).fw.missing 24 ≠ [] ∧ 3 ≤ (s.getCore 575).fw.repairs) ∧
    State.reset.fwSeqOk 3 = false ∧ (State.reset.getCore 575).noFw = true ∧
    ((withCore 575 { fw := { complete := true } }).getCore 575).fw.complete = true := by decide

theorem witness_FirmwareBroadcast_whole :
    let s := staged { ccb := { state := .ready }, fw := wholeFw } (Config.sha384 (wholeFw.image 24))
    s.fwSeqOk 3 = true ∧ (s.getCore 575).noFw = false ∧ (s.getCore 575).fw.missing 24 = [] ∧
      Config.sha384 ((s.getCore 575).fw.image 24) = s.sec.stagedHashes.getD 1 [] :=
  ⟨by decide, by decide, by decide, rfl⟩

theorem witness_FirmwareFlits :
    ((List.range (cdiv (([53] : List W32).getD 0 0).toNat 52)).filter fun i =>
      (tget State.reset.sec.hallPackets i []).length ≠ 13) = [0, 1] ∧
    ((List.range (cdiv (([0] : List W32).getD 0 0).toNat 52)).filter fun i =>
      (tget State.reset.sec.hallPackets i []).length ≠ 13) = [] ∧
    ForPanel State.reset 31 goodFlit ∧ State.reset.sec.hallRepairs < 3 ∧ ¬ (3 < 3) ∧
    (goodFlit.dest ≠ memberOf.panelId ∧ memberOf.route goodFlit.dest = some (0, true)) := by
  unfold ForPanel; decide

theorem test_shutterArm : ((after (.shutterArm (.quad 95) 5 6) (withQuad 95 { source := 0 })).getQuad 95).armFrame = some (5, 6) := by
  decide
theorem test_heartbeat : ((after (.heartbeat (.quad 95) 0) (withQuad 95 { fired := true })).getQuad 95).heard = true := by decide
theorem test_twinSwitch : ((after (.twinSwitch 0 2) State.reset).row 6808).reason = 0x2E := by decide
theorem test_barrierArrival : (after (.barrierArrival 5 2 2 50) (barriered (halfBarrier false))).fab.barriers.map (·.released) =
    [true] := by decide
theorem test_barrierRelease : ((after (.barrierRelease 5 ⟨1, false⟩) (barriered { halfBarrier false with released := true })).getCore 1).released =
    [5] := by decide
theorem test_expressRelease : (after (.expressRelease ⟨31, goodFlit⟩ ⟨5,
  10⟩) (barriered (halfBarrier true))).fab.barriers.map (·.released) = [true] := by
  decide
theorem test_fwData : ((after (.fwData 575 3 0 [1, 2, 3, 4, 5, 6]) (staged { ccb := { state := .ready } } [])).getCore 575).fw.packets =
    [(0, [1, 2, 3, 4, 5, 6])] := by decide
theorem test_fwEnd_nack : (after (.fwEnd 575 3 24) (staged { ccb := { state := .ready } } [])).resp.data = [0x40C00000] := by decide
theorem test_fwNack : tget (after (.fwNack 575 [0, 4]) State.reset).pmc.cnt.now 0x0FA4 0 = 2 := by decide
theorem test_fwAck : ((after (.fwAck 575) (withCore 575 { fw := { complete := true } })).getCore 575).fw.acked = true := by decide
theorem test_fwFlit_nack : (after (.fwFlit ⟨31, goodFlit⟩ 0 ⟨2, 3, 0⟩ [53]) State.reset).resp.data = [0x40C00000, 0x40C00001] := by decide
theorem test_fwFlit_data : (after (.fwFlit ⟨31, goodFlit⟩ 0 ⟨0, 3, 1⟩ [9]) State.reset).sec.hallPackets = [(1, [9])] := by decide

/-! Mesh destinations: a header of a row of 32 bytes at the base of stack 3, with its data beat. -/

/-- A header beat at port 1 of the die: TYPE, address and size of its rows. -/
def headBeat (kind addr rowBytes rows : Nat) : Nat × Nat × Beat :=
  (0, 1, { data := (wordBytes [BitVec.ofNat 32 (kind * 2 ^ 28), BitVec.ofNat 32 addr, BitVec.ofNat 32 (addr / 2 ^ 32),
      BitVec.ofNat 32 rowBytes, BitVec.ofNat 32 rows, 0, 0, 0]), poison := 0, head := true, last := rows = 0, sig := false, stream := 5 })
def rowBeat : Nat × Nat × Beat :=
  (1, 1, { data := List.replicate 32 7, poison := 0, head := false, last := true, sig := false, stream := 5 })
def stack3 : Nat := 3 * stackSize
def openPut : Xfer := (headBeat 1 stack3 32 1).2.2.xfer.open (.res 3) 1
def atStack3 (p : MeshPort) : State := { State.reset with mesh := { State.reset.mesh with res := [(3, p)] } }

set_option maxRecDepth 20000 in
theorem witness_MeshPuts :
    (((atStack3 { rx := [headBeat 1 stack3 32 1] }).meshPort (.res 3)).turn = some 0 ∧
      ((atStack3 { rx := [headBeat 1 stack3 32 1] }).meshPort (.res 3)).rx[0]? = some (headBeat 1 stack3 32 1) ∧
      (headBeat 1 stack3 32 1).2.2.head = true ∧ (headBeat 1 stack3 32 1).2.2.kind = 1) ∧
    (let s := atStack3 { rx := [rowBeat], xfers := [openPut] }
     (s.meshPort (.res 3)).turn = some 0 ∧ (s.meshPort (.res 3)).rx[0]? = some rowBeat ∧ rowBeat.2.2.head = false ∧
       (s.meshPort (.res 3)).xfers.find? (fun z => z.port = rowBeat.2.1 && z.stream = rowBeat.2.2.stream) = some openPut ∧
       openPut.hall = false ∧ openPut.refused = none ∧ openPut.src < 576 ∧
       rowBeat.2.2.last = true ∧ rowBeat.2.2.data.length = 32 ∧ rowBeat.2.2.poison = 0 ∧
       s.unitAt (openPut.at openPut.moved) = some (.res 3, stack3, stackSize) ∧
       s.writeRefused (openPut.at openPut.moved) 32 = none) := by decide

set_option maxRecDepth 20000 in
theorem witness_MeshGets :
    (let s := atStack3 { rx := [headBeat 2 stack3 32 1] }
     (s.meshPort (.res 3)).turn = some 0 ∧ (s.meshPort (.res 3)).rx[0]? = some (headBeat 2 stack3 32 1) ∧
       (headBeat 2 stack3 32 1).2.2.kind = 2 ∧ ((headBeat 2 stack3 32 1).2.2.xfer.open (.res 3) 1).hall = false) ∧
    (let s := { withCcb 0 { state := .resetting } with
       mesh := { State.reset.mesh with core := [(0, { rx := [headBeat 2 (scratchAddr 0 0) 32 1] })] } }
     (s.meshPort (.core 0)).turn = some 0 ∧ (s.getCore 0).ccb.state = .resetting) ∧
    (let s := { withCcb 0 { state := .ready } with
       mesh := { State.reset.mesh with core := [(0, { rx := [headBeat 2 (scratchAddr 0 0) 32 1] })] } }
     (s.meshPort (.core 0)).turn = some 0 ∧ (s.getCore 0).ccb.state ≠ .resetting ∧ (s.getCore 0).scr.writes = []) := by decide

set_option maxRecDepth 20000 in
theorem test_putWrite : (after (.putWrite (.res 3)) (atStack3 { rx := [rowBeat], xfers := [openPut] })).mem.map (·.2) =
    List.replicate 32 7 ∧
    (after (.putWrite (.res 3)) (atStack3 { rx := [rowBeat], xfers := [openPut] })).mesh.net.map (·.type) = [6] := by decide

/-! ### The frame and hall cells -/

/-- Work cell 95 of no quadrant with GO due. -/
def goCell : State := { State.reset with pmc := { State.reset.pmc with work := [(95, { goCount := some 3 })] } }

/-- Of quadrant 0, with its plate's first position at core 0. -/
def goBound (c : Ccb) : State := { withCcb 0 c with
  pmc := { State.reset.pmc with work := [(95, { quads := [0], goCount := some 3, bound := some ⟨0, 0, 0, 0, 0, .running, [0], 1, [0]⟩ })] } }

theorem witness_GoTokens : ((goCell.getWork 95).goCount = some 3 ∧ goCell.head (.work 95) = none) ∧
    (let s := goBound { state := .running, inport := List.replicate 15 0 }
     (s.getWork 95).goCount = some 3 ∧ s.head (.work 95) = some 0 ∧ (s.getCore 0).ccb.state ≠ .resetting ∧
       (s.getCore 0).ccb.inport.length < 16) := by decide

theorem test_goSend : ((after (.goSend 95) (goBound { state := .running })).getCore 0).ccb.inport = [0x10000003] := by decide

/-- A point of the frame. -/
def atPoint (p : Nat) (l : List (Nat × Core)) : State := { State.reset with
  core := l
  pmc := { State.reset.pmc with phase := 1, point := p, frame := 7 } }

/-- Exposed cores that run: done, issuing, waiting with its count, and waiting in vain. -/
def runners : List (Nat × Core) :=
  let run (q : Seq) : Core := { ccb := { state := .running }, exposed := true, seq := q, scr := { sem := [(1, 2)] } }
  [(0, run { state := .done }), (1, run { state := .issuing }), (2, run { state := .waitSem, waiting := some ⟨false, 1, 2, 0, 0⟩ }),
    (3, run { state := .waitSem, waiting := some ⟨false, 1, 3, 0, 0⟩ }), (4, run { state := .stopped })]

theorem witness_DevelopDeadline : (atPoint 1 runners).pmc.point = 1 ∧ (atPoint 1 runners).classified = [0, 1, 2, 3, 4] ∧
    ((atPoint 1 runners).getCore 0).seq.state = .done ∧ ((atPoint 1 runners).getCore 4).seq.state = .stopped ∧
    ((atPoint 1 runners).getCore 1).seq.waiting = none ∧
    (∃ w, ((atPoint 1 runners).getCore 2).seq.waiting = some w ∧ w.count ≤ tget ((atPoint 1 runners).getCore 2).scr.sem w.sem 0) ∧
    (∃ w, ((atPoint 1 runners).getCore 3).seq.waiting = some w ∧ tget ((atPoint 1 runners).getCore 3).scr.sem w.sem 0 < w.count) ∧
    5 ∉ (atPoint 1 runners).classified := by
  refine ⟨by decide, by decide, by decide, by decide, by decide, ⟨_, rfl, by decide⟩, ⟨_, rfl, by decide⟩, by decide⟩

theorem test_developDeadline : ((after .developDeadline (atPoint 1 runners)).core.map fun e => (e.2.late, e.2.ccb.fault)) =
    [(false, 0), (true, 0), (true, 0), (false, 4), (false, 0)] := by decide

/-- A late core. -/
def lateCore : List (Nat × Core) := [(575, { ccb := { state := .running }, late := true, seq := { state := .issuing } })]

theorem witness_ExtensionLimit : (atPoint 2 lateCore).pmc.point = 2 ∧ (∃ e ∈ (atPoint 2 lateCore).core, e.2.stillLate = true) ∧
    (∀ e ∈ (atPoint 2 lateCore).core, e.1 = 0 → e.2.stillLate = false) := by decide

theorem test_extensionLimit : ((after .extensionLimit (atPoint 2 lateCore)).getCore 575).ccb.fault = 0x10 ∧
    ((after .extensionLimit (atPoint 2 lateCore)).getCore 575).ccb.state = .faulted := by decide

theorem witness_StopBath : ((atPoint 2 []).pmc.point = 2 ∧ ∀ e ∈ (atPoint 2 []).core, e.2.stillLate = false) ∧
    ((atPoint 3 [(0, {})]).pmc.point = 3 ∧ ∀ e ∈ (atPoint 3 [(0, {})]).core, e.2.stillLate = false) ∧
    (let s := { atPoint 2 [] with pmc := { (atPoint 2 []).pmc with extended := true }, rtr := [(0, { armed := some (1, 2) })] }
     s.pmc.extended = true ∧ (s.getRtr 0).armed.isNone = false) := by decide

theorem witness_DrainClose : (atPoint 4 []).pmc.point = 4 := by decide

/-- Drain is closed; quadrant 95 is armed for frame 8. -/
def armed (r : Router) : State := { atPoint 5 [] with quad := [(95, { armFrame := some (8, 0), gated := 0, tested := 7 })], rtr := [(575, r)] }

theorem witness_ShutterFires : (armed {}).pmc.point = 5 ∧ ((armed {}).getQuad 95).armFrame = some ((armed {}).pmc.frame + 1, 0) ∧
    (armed {}).pmc.frame = 7 ∧ (7 : W64) + 1 = 8 ∧
    ∀ k, ((armed {}).getQuad 94).armFrame ≠ some ((armed {}).pmc.frame + 1, k) :=
  ⟨by decide, by decide, by decide, by decide, fun _ h => by cases h⟩

theorem witness_ShutterLatches : coreQuad 575 = 95 ∧ ((armed {}).getQuad (coreQuad 575)).gated.getLsbD (coreDie 575 % 3) = false ∧
    ((armed {}).getQuad (coreQuad 575)).tested.getLsbD (coreDie 575 % 3) = true ∧
    (armed {}).pmc.work = [] ∧ (armed {}).pmc.overrides = [] ∧ tget (armed {}).pmc.corridors 3 [] = [] ∧
    (let r := (armed { arm := true, frame16 := 8, status := 1 }).getRtr 575
     r.arm = true ∧ r.frame16.toNat = ((armed r).pmc.frame + 1).toNat % 65536 ∧ r.status = 1) ∧
    (let r := (armed { arm := true, frame16 := 8, status := 0 }).getRtr 575
     r.arm = true ∧ r.frame16.toNat = ((armed r).pmc.frame + 1).toNat % 65536 ∧ r.status ≠ 1) ∧
    ((armed { frame16 := 8 }).getRtr 575).arm = false := by decide

/-- The heartbeat check is due: core 0 runs in a quadrant that is heard, core 575 in one that is not, and core 1 is off; the second die of
quadrant 0, with core 24 in RESETTING, is gated, and nobody expects it to be. -/
def beating : State := { atPoint 0 [(0, { ccb := { state := .running } }), (24, { ccb := { state := .resetting } }), (575,
  { ccb := { state := .running } })] with
  quad := [(0, { heard := true, gated := 2, tested := 5 })] }

theorem witness_HeartbeatCheck : beating.pmc.point = 0 ∧ beating.pmc.phase = 1 ∧
    ((beating.getQuad (coreQuad 575)).heard = false ∧ beating.live 575 = true) ∧
    ((beating.getQuad (coreQuad 0)).heard = true ∧ (beating.getQuad (coreQuad 0)).gated.getLsbD (coreDie 0 % 3) = false ∧
      (beating.getQuad 0).tested.getLsbD (coreDie 0 % 3) = true) ∧
    (coreDie 24 % 3 = 1 ∧ (beating.getQuad 0).gated.getLsbD 1 = true ∧ (beating.getQuad 0).absent.getLsbD 1 = false ∧
      (beating.getCore 24).ccb.state = .resetting) ∧
    beating.live 1 = false := by decide

theorem witness_MissedShutters :
    (((withQuad 95 { missed := 1 }).getQuad 95).fired = false ∧ ((withQuad 95 { missed := 1 }).getQuad 95).missed = 1) ∧
    (State.reset.fioFitted 0 = true ∧ State.reset.mesh.fired.contains (rowFio 0) = false) ∧
    (((withQuad 95 { missed := 4 }).getQuad 95).fired = false ∧ 4 ≤ ((withQuad 95 { missed := 4 }).getQuad 95).missed) := by decide

set_option maxRecDepth 20000 in
theorem test_shutterArmTimeout : ((after (.shutterArmTimeout (.quad 95)) (withQuad 95 { missed := 1 })).getRtr 575).idle = true := by
  decide
theorem test_quadrantMissLimit : ((after (.quadrantMissLimit 95) (withQuad 95 { missed := 4 })).getRtr 575).idle = true := by decide

/-- A member of a hall cell whose master is panel 0. -/
def member (f : Fabric) : State := { State.reset with fab := { f with id := 9, hallIndex := some 7, hallMembers := [0, 9] } }

/-- A flit for panel 9. -/
def toNine : Flit := ⟨9, true, false⟩

/-- The master, panel 0, at its Shutter; ring 0 leads east to panel 1. -/
def mastering : State := { atPoint 5 [] with
  fab := { State.reset.fab with hallIndex := some 7, hallMembers := [0, 1] }
  ring := [(0, { bypass := false, map := [0, 1] })]
  port := [(1, { mode := .x8 })] }

theorem witness_HallShutters :
    (ForPanel (member {}) 31 toNine (copyOf toNine 0x4 (shutterBody 8 0 200 10)) ∧ (member {}).fab.hallIndex.isSome = true ∧
      (member {}).hallMaster = false) ∧
    (toNine.dest ≠ State.reset.panelId ∧ (State.reset.getPort 31).first ≠ copyOf toNine 0x4 (shutterBody 8 0 200 10)) ∧
    (mastering.pmc.point = 5 ∧ mastering.hallMaster = true ∧ (1 ∈ mastering.fab.hallMembers ∧ 1 ≠ mastering.panelId) ∧
      mastering.fab.hallNext = none ∧ mastering.fab.idNext = none ∧ mastering.pmc.overrides = [] ∧
      (mastering.getRing 0).forming = none ∧ (mastering.getRing 0).leaving = [] ∧ mastering.ringWay 0 1 = some false) ∧
    ((0 - 10 + 200 + 5 + 5 : Int).natAbs ≤ 200 ∧ 16 ≤ (member { closeFrames := 15 }).fab.closeFrames + 1) ∧
    ¬ ((0 - 10 + 200 + 5 + 6 : Int).natAbs ≤ 200) := by unfold ForPanel; decide

theorem test_hallShutter_locks :
    (after (.hallShutter ⟨31, toNine⟩ 8 0 ⟨0, 10⟩ 200 10) (member { closeFrames := 15 })).pmc.hallLock = true ∧
    (after (.hallShutter ⟨31, toNine⟩ 8 0 ⟨0, 10⟩ 200 11) (member { closeFrames := 15 })).pmc.hallLock = false := by decide

theorem witness_HallElections :
    ((member { silentFrames := 16 }).fab.hallIndex.isSome = true ∧ (member { silentFrames := 16 }).hallMaster = false ∧
      (member { silentFrames := 16 }).fab.elected = none ∧ 16 ≤ (member { silentFrames := 16 }).fab.silentFrames) ∧
    ((member { elected := some 16 }).fab.elected = some 16 ∧ 16 ≤ 16) := by decide

theorem test_hallMasterLoss : (after .hallMasterLoss (member { silentFrames := 16 })).fab.hallMembers = [9] := by decide
theorem test_hallFreeRun : (after .hallFreeRun (member { elected := some 16 })).fab.hallIndex = none := by decide

/-! ### The fabric -/

/-- Port 31 up, its ring knows panels 5, 9 and 7; this panel is 9, and port 30 is up too. -/
def ringed9 (q : Port) : State := { State.reset with
  port := [(30, { mode := .x8 }), (31, q)]
  ring := [(15, { bypass := false, map := [5, 9, 7] })]
  fab := { State.reset.fab with id := 9 } }

/-- A train of panel 5 for this panel. -/
def hail : Train := { emptyTrain with dest := 9, src := 5, seq := 65535, ring := 15, xid := 77, len := 4, addr := 0x100000000000 }

def upPort : Port := { mode := .x4hi, seqIn := 65535 }

theorem witness_TrainArrivals : (ringed9 upPort).getPort 31 = upPort ∧ upPort.up = true ∧ (ringed9 upPort).panelId = 9 ∧
    { hail with crcOk := false }.crcOk = false ∧ { hail with seq := 0 }.seq ≠ upPort.seqIn ∧
    hail.seq = upPort.seqIn ∧ hail.crcOk = true ∧ hail.resv = false ∧ 0 < hail.op ∧ hail.op < 7 ∧ upPort.egress = [] ∧
    7 ∈ ((ringed9 upPort).getRing (31 / 2)).map ∧ 8 ∉ ((ringed9 upPort).getRing (31 / 2)).map ∧
    (ringed9 upPort).route 5 = some (15, true) ∧
    (let s := ringed9 { upPort with nakTimes := List.replicate 7 0 }
     let x := { hail with nak := true, ackSeq := 3 }
     (s.getPort 31).up = true ∧ ((s.takeCredit 31 x.credits x.ackSeq x.nak).getPort 31).up = false) ∧
    { hail with resv := true }.op ∈ [1, 2, 4] ∧ { hail with op := 3, resv := true }.op ∉ [1, 2, 4] ∧
    (((ringed9 upPort).took 31 hail).getPort 30).up = true := by decide

/-- A train's HEAD brings a NAK beside the train itself. -/
theorem witness_Arrives : InOrder (ringed9 { upPort with replay := [{ emptyTrain with seq := 4 }] }) 31
    { hail with nak := true, ackSeq := 3, credits := [2] } := by unfold InOrder Arrives; decide

theorem test_fabPut_forward : let t := after (.fabPut 31 { hail with dest := 7 }) (ringed9 upPort)
    ((t.getPort 30).egress.map (·.dest), (t.getPort 31).seqIn, (t.getPort 31).ackSeq) = ([7], 0, 65535) := by decide
theorem test_fabPut_unreachable : let t := after (.fabPut 31 { hail with dest := 8 }) (ringed9 upPort)
    (t.getPort 30).egress.map (fun y => (y.op, y.status, y.dest, y.xid)) = [(6, 0x0B02, 5, 77)] := by decide

/-- The first bytes of the window of reservoir 0, and its stack in a state. -/
def homeOf (k : Stack) : State := { ringed9 upPort with stack := [(0, k)] }

theorem witness_HomeWrites :
    (let s := homeOf {}
     InOrder s 31 hail ∧ ForMe s hail ∧ s.homeRange hail.addr 4 = true ∧ s.writeRefused hail.addr 4 = none) ∧
    (let s := homeOf { win := 1 }
     s.homeRange 0x100000FFFFFC 4 = true ∧ s.homeRange 0x100000FFFFFD 4 = false ∧ s.homeRange 0x100001000000 4 = false) := by
  unfold InOrder Arrives ForMe; decide

theorem witness_HomeWrites_refused :
    (homeOf { state := 4 }).writeRefused 0 4 = some eHbmFailed ∧ (homeOf { state := 4 }).homeRange 0 4 = true ∧
    (homeOf { quiet := true }).writeRefused 0 4 = some eHbmQuiet ∧ (homeOf { quiet := true, state := 3 }).writeRefused 0 4 = none ∧
    homeRuns (stackSize - 1) 4 = [(stackSize - 1, 1), (stackSize, 3)] := by
  decide

theorem test_fabPut : let t := after (.fabPut 31 { hail with data := [1, 2, 3, 4] }) (homeOf {})
    t.bytes 0x100000000000 5 = [1, 2, 3, 4, 0] := by decide
theorem test_getReq : let t := after (.getReq 31 hail) (homeOf {})
    (t.getPort 30).egress.map (fun y => (y.op, y.xid, y.data)) = [(3, 77, [0, 0, 0, 0])] := by decide

/-- It publishes the line until its frame 12. -/
def publisher : State := { homeOf {} with fab := { (homeOf {}).fab with
  pub := [(0, { base := 0x100000000000, len := 256, start := 0, stop := 12 })] } }

theorem witness_HomeReads : InOrder publisher 31 hail ∧ ForMe publisher hail ∧ publisher.homeRange hail.addr 4 = true ∧
    (∃ e ∈ publisher.fab.pub, e.2.start ≤ publisher.hallFrame ∧ publisher.hallFrame ≤ e.2.stop ∧ e.2.base ≤ hail.addr ∧
      hail.addr + hail.len ≤ e.2.base + e.2.len) := by
  unfold InOrder Arrives ForMe; decide

theorem test_fillReq : let t := after (.fillReq 31 hail) publisher
    (t.getPort 30).egress.map (fun y => (y.op, y.pub, y.leaseEnd)) = [(5, true, 12)] := by decide

/-- Outstanding: two parts of a GET, a PUT and a fill. -/
def asking (l : List Remote) : State := { ringed9 upPort with
  fab := { (ringed9 upPort).fab with remotes := l }
  core := [(575, { ccb := { state := .running }, dma := [{ desc := [0x4000, 0], index := 0, entered := 0, started := true }] })] }
def asked (x g op : Nat) : Remote := { xid := x, core := 575, op := op, dest := 5, addr := 0, len := 4, frame := 1, retried := false,
                                       group := g, want := 4 }

theorem witness_RemoteAnswers :
    (let s := asking [asked 77 77 2, asked 78 77 2]
     InOrder s 31 hail ∧ ForMe s hail ∧ s.fab.remotes.find? (fun r => r.xid = hail.xid && r.op ≠ 1) = some (asked 77 77 2) ∧
       ∃ z ∈ s.fab.remotes, z.group = 77 ∧ z.op ≠ 1 ∧ z.xid ≠ hail.xid ∧ z.data = none) ∧
    (let s := asking [asked 77 77 2]
     s.fab.remotes.find? (fun r => r.xid = hail.xid && r.op ≠ 1) = some (asked 77 77 2) ∧
       ¬ ∃ z ∈ s.fab.remotes, z.group = 77 ∧ z.op ≠ 1 ∧ z.xid ≠ hail.xid ∧ z.data = none) ∧
    (let s := asking [asked 77 77 4]
     s.fab.remotes.find? (fun r => r.xid = hail.xid && r.op = 4) = some (asked 77 77 4) ∧ s.hallFrame = 0 ∧
       cacheSets (max (s.getStack (cacheDie 575)).win 4) = 0 ∧ cacheSets 7 ≠ 0) ∧
    inBuffer none { tag := 7, data := [], poison := [], leaseEnd := 3 } = false := by
  unfold InOrder Arrives ForMe; decide

theorem witness_RemoteAnswers_leased : let s := { asking [asked 77 77 4] with stack := [(47, { win := 7 })] }
    cacheDie 575 = 47 ∧ (s.getStack 47).winNext = none ∧ cacheSets (s.getStack 47).win ≠ 0 ∧
      s.hallFrame.setWidth 32 ≤ { hail with pub := true, leaseEnd := 0 }.leaseEnd := by decide

theorem witness_RemoteRefusals :
    (let s := asking [asked 77 77 1]
     InOrder s 31 hail ∧ ForMe s hail ∧ s.fab.remotes.find? (fun r => r.xid = hail.xid) = some (asked 77 77 1)) ∧
    (let s := asking [asked 77 77 2]
     s.fab.remotes.find? (fun r => r.xid = hail.xid) = some (asked 77 77 2) ∧
       unitNode (asked 77 77 2).unit < 1024 ∧ ((s.getCore 575).dma.find? fun q => dmHall q.desc && !dmPut q.desc && q.started &&
         dmRstream q.desc = (asked 77 77 2).rstream).isSome = true) ∧
    (let still (q : Queued) : Bool := dmHall q.desc && dmPut q.desc && q.started && q.index = 0 && dmStream q.desc = 0
     (asking [asked 77 77 1]).getCore 575 ≠ {} ∧ ((asking [asked 77 77 1]).getCore 575).dma.any still = false ∧
       [{ desc := [0xC000, 0], index := 0, entered := 0, started := true : Queued }].any still = true ∧
       { hail with status := 0x0B01 }.status = 0x0B01 ∧ hail.status ≠ 0x0B01) := by
  unfold InOrder Arrives ForMe; decide

theorem test_nakResp : let t := after (.nakResp 31 { hail with status := 0x0A01 }) (asking [asked 77 77 1])
    (t.fab.putNak, (t.getCore 575).ccb.fault, t.fab.remotes) = (0x0A01004D, 0x20, []) := by decide

/-- A port whose send credit is all but spent. -/
def sender : Port := { mode := .x8, seqOut := 65535, egress := [{ emptyTrain with data := List.replicate 257 1 }, emptyTrain],
                       inFlight := [(0, 40)] }

set_option maxRecDepth 20000 in
theorem witness_TrainFlow : let s := ringed9 sender
    let o := s.nextOwner 31 (s.getPort 31) 2048
    ((s.getPort 31).egress.findIdx? (fun t => trainOwner t = o.turn) = some 0 ∧
      (s.getPort 31).egress[0]? = some { emptyTrain with data := List.replicate 257 1 } ∧ (s.getPort 31).up = true ∧
      creditFits (s.getPort 31).inFlight 0 3 = true ∧ ((s.getPort 31).replay.map fun y => 1 + y.ndata).foldl (· + ·) 0 + 3 ≤ 800) ∧
    goodFlit.crcOk = true ∧ goodFlit.resv = false ∧
    (let p := (ringed9 { sender with nakTimes := List.replicate 7 0 }).getPort 31
     ((p.nakTimes.filter fun t => s.nowCycles ≤ t + 2500000) ++ [s.nowCycles]).length = 8) ∧
    (let p := (ringed9 { sender with nakTimes := List.replicate 6 0 }).getPort 31
     ((p.nakTimes.filter fun t => s.nowCycles ≤ t + 2500000) ++ [s.nowCycles]).length = 7) := by decide

set_option maxRecDepth 20000 in
theorem witness_TrainFlow_again :
    ((ringed9 sender).getPort 31).again = [] ∧ sender.egress.findIdx? (·.turned) = none ∧ flitsOf sender.replay + 3 ≤ 800 ∧
    (let e : List Train := [emptyTrain, { emptyTrain with xid := 3, turned := true }]
     e.findIdx? (·.turned) = some 1 ∧ creditFits [] 0 1 = true) ∧
    (let p := (ringed9 { upPort with again := [emptyTrain, hail] }).getPort 31
     p.again = emptyTrain :: [hail] ∧ p.up = true) ∧
    dropAcked [emptyTrain, { emptyTrain with seq := 1 }] 0 = [{ emptyTrain with seq := 1 }] := by decide

theorem test_trainSend_again : let q := (after (.trainSend 31) (ringed9 { upPort with again := [emptyTrain, hail] })).getPort 31
    (q.again, q.replays, tget q.cnt.now 0x14 0) = ([hail], 1, 1) := by decide

set_option maxRecDepth 20000 in
theorem test_trainSend : let q := (after (.trainSend 31) (ringed9 sender)).getPort 31
    (q.seqOut, tget q.inFlight 0 0, q.replay.length, q.egress.length) = (0, 43, 1, 1) := by decide
set_option maxRecDepth 20000 in
theorem test_credit : let q := (after (.credit ⟨31, goodFlit⟩ [41] 65535 true) (ringed9 { sender with nakTimes := List.replicate 7 0 })).getPort 31
    (q.mode, tget q.inFlight 0 0, q.nakTimes.length) = (.training, 0, 8) := by decide

theorem witness_FetchTimeouts :
    ((asking [asked 77 77 2]).fab.remotes.find? (fun r => r.xid = 77 && (r.op = 2 || r.op = 4) && r.data.isNone) =
      some (asked 77 77 2) ∧ (asked 77 77 2).retried = false) ∧
    (let r := { asked 77 77 4 with retried := true }
     (asking [r]).fab.remotes.find? (fun r => r.xid = 77 && (r.op = 2 || r.op = 4) && r.data.isNone) = some r ∧
       r.retried = true) ∧
    (let s := asking [asked 77 77 2]
     s.fab.remotes.find? (fun r => r.xid = 77 && r.op ≠ 0) = some (asked 77 77 2) ∧ ¬ (asked 77 77 2).frame + 2 ≤ s.pmc.frame ∧
       (asked 77 77 2).frame + 2 ≤ (3 : W64)) ∧
    (let s := ringed9 { upPort with egress := [{ hail with xid := 9 }] }
     let other (t : Train) : Bool := t.xid = 9 && !(t.src = s.panelId && (t.op = 1 || t.op = 2 || t.op = 4))
     s.fab.remotes.find? (fun r => r.xid = 9 && r.op ≠ 0) = none ∧
       ((s.getPort 31).egress ++ (s.getPort 31).replay).any other = true) := by decide

theorem test_remoteFetchTimeout : (after (.remoteFetchTimeout 77) (asking [asked 77 77 2])).fab.remotes.map (·.retried) = [true] := by
  decide
theorem test_lateTrainDiscard : let t := after (.lateTrainDiscard 31 9) (ringed9 { sender with egress := [{ emptyTrain with xid := 9 }] })
    ((t.getPort 31).egress, tget (t.getPort 31).cnt.now 0x1C 0) = ([], 1) := by decide

theorem witness_PortTraining :
    ((ringed9 { mode := .training }).getPort 31).mode = .training ∧ ((ringed9 { mode := .down }).getPort 31).mode = .down ∧
    ((ringed9 { mode := .down }).getPort (mate 31)).up = true ∧ ((ringed9 { mode := .down }).getRing 15).released = false ∧
    ((ringed9 {}).getRing 15).bypass = false ∧ ((ringed9 { mode := .training, miswired := true }).getPort 31).miswired = true ∧
    (970 < 971 ∧ ¬ 970 < 970) := by decide

theorem test_portTrained : let t := after (.portTrained 31 .x8 971) (ringed9 { mode := .training })
    ((t.getPort 31).rttLong, (t.getRing 15).forming, (t.row 1031).state) = (true, some [9], 1) := by decide

set_option maxRecDepth 20000 in
theorem witness_PortsThatTurn : (ringed9 sender).getPort 31 = sender ∧ sender.mode ≠ .absent ∧ sender.mode ≠ .down ∧
    sender.up = true := by decide

set_option maxRecDepth 20000 in
theorem test_portDown : let t := after (.portDown 31) (ringed9 { sender with replay := [{ emptyTrain with xid := 1 }] })
    ((t.getPort 30).egress.map (fun x => (x.xid, x.west)), (t.getRing 15).state) = ([(1, true), (0, true), (0, true)], 1) := by decide
set_option maxRecDepth 20000 in
theorem test_portPeriodicRetrain : (after (.portPeriodicRetrain 31) (ringed9 sender)).port.map (·.2.mode) = [.x8, .training] := by
  decide

/-- Port 31 after the cold start's training, with a fault of its span or in loopback. -/
def spanned (q : Port) : State := { ringed9 q with boot := { State.reset.boot with step := 5 } }

theorem witness_LoopbackTests :
    (((spanned { loopback := true }).getPort 31).loopback = true ∧ 5 ≤ (spanned { loopback := true }).boot.step) ∧
    ((spanned { spanFault := true }).getPort 31).mode = .down ∧ ((spanned { spanFault := true }).getPort 31).spanFault = true ∧
    (let s := { spanned { loopback := true } with boot := { State.reset.boot with step := 4 } }
     (s.getPort 31).loopback = true ∧ s.boot.step = 4 ∧ (s.getPort 31).tried = false ∧ (s.getPort (mate 31)).loopback = false ∧
       (s.getPort (mate 31)).localFault = false ∧ (s.getRing (31 / 2)).released = false) ∧
    (let s := { spanned { loopback := true, tried := true } with boot := { State.reset.boot with step := 4 } }
     (s.getPort 31).tried = true ∧ (s.getPort (mate 31)).mode ≠ .absent ∧ (s.getPort (mate 31)).mode ≠ .down) := by
  decide

theorem test_loopbackDone : let t := after (.loopbackDone 31 false) (spanned { loopback := true })
    ((t.row 1031).state, (t.getRing 15).bypass, (t.getRing 15).map) = (4, true, []) := by decide
theorem test_spanRetrainTimer : ((after (.spanRetrainTimer 31) (spanned { spanFault := true })).row 1031).attempts = 1 := by decide

theorem witness_RingMessages : Good 31 goodFlit ∧ ((ringed9 {}).getRing 15).bypass = false ∧
    ((ringed9 {}).setRing 15 { probing := 1 } |>.getRing 15).probing = 1 ∧
    ((ringed9 {}).setRing 15 { probing := 2 } |>.getRing 15).probing = 2 ∧
    (∀ e ∈ (ringed9 {}).fab.known, e.1 = 4 → e.2 = 5) ∧ [9, 5].contains (ringed9 {}).panelId = true ∧
    [5].contains (ringed9 {}).panelId = false ∧
    (let s := (ringed9 {}).setRing 15 { probing := 1 }
     s.lowest 15 = true ∧ (s.setPort 30 { nbrValid := true }).getPort 30 = { nbrValid := true }) ∧
    (let s := (ringed9 { upPort with nbrValid := true }).setRing 15 { probing := 1, bypass := false }
     (s.getPort 30).up = true ∧ (s.getPort 31).up = true ∧ (s.getPort 31).nbrValid = true ∧
       (s.setPort 30 { mode := .down } |>.getPort 30).up = false ∧
       9 ∉ [5, 7] ∧ ([9, 7].head? = some s.panelId ∧ (s.getRing 15).probing ≠ 0) ∧
       ([9, 7].head? = some (ringed9 {}).panelId ∧ ((ringed9 {}).getRing 15).probing = 0)) := by
  unfold Good; decide

theorem witness_BadFlits : BringsFlit 31 ⟨0, false, false⟩ (.credit ⟨31, ⟨0, false, false⟩⟩ [] 0 false) ∧
    BringsFlit 0 ⟨0, true, true⟩ (.leave ⟨0, ⟨0, true, true⟩⟩ 5 9) ∧ 31 < 32 ∧
    (let c : Instr := .expressRelease ⟨31, goodFlit⟩ ⟨5, 40⟩
     BringsFlit 31 goodFlit c ∧ sentTwice State.reset goodFlit c ≠ [] ∧
     ((ringed9 { first := sentTwice State.reset goodFlit c }).getPort 31).first = sentTwice (ringed9 {}) goodFlit c) :=
  ⟨⟨rfl, rfl⟩, ⟨rfl, rfl⟩, by decide, ⟨rfl, rfl⟩, by decide, by decide⟩

theorem test_ident : let q := (after (.ident ⟨31, goodFlit⟩ ⟨5, 4, 3, 14, 0, 1, .x8⟩) (ringed9 {})).getPort 31
    (q.nbrPanel, q.nbrPort, q.nbrHall, q.miswired) = (5, 3, 1, true) := by decide
theorem test_leave : ((after (.leave ⟨31, goodFlit⟩ 7 12) (ringed9 {})).getRing 15).leaving = [(7, 12)] := by decide
theorem test_probe : ((after (.probe 31 [9, 7] goodFlit) ((ringed9 {}).modRing 15 fun g => { g with probing := 1 })).getRing 15).forming =
    some [7, 9] ∧ ((after (.probe 31 [5, 7] goodFlit) (ringed9 {})).getRing 15).fromEast = [5, 7] := by decide
theorem test_probeTimeout : ((after (.probeTimeout 15) ((ringed9 {}).setRing 15 { probing := 2 })).getRing 15).state = 1 := by decide

/-! ### Memory -/

/-- Host Site 0 is up, with stack 47 as its window and a stack 47 in the state given. -/
def hosting (k : Stack) : State := { withSite 0 { state := 2 } with
  pmc := { State.reset.pmc with westTaken := [47, 1] }
  stack := [(47, k)] }

theorem witness_HostMemory : let s := hosting { state := 3 }
    (s.getSite 0).state = 2 ∧ stackSize - 2 + ([1, 2] : List Byte).length ≤ s.winSize 0 ∧
    (stackSize - 2) % stackSize + 2 ≤ stackSize ∧ (s.winStacks 0).getD ((stackSize - 2) / stackSize) 0 = 47 ∧ (s.meshPort (.res 47)).rx = [] ∧
    (((s.catchUp (.res 47)).heldFree 47).getStack 47).state ≠ 4 ∧ ((withSite 0 { state := 3 }).getSite 0).state = 3 ∧
    ((((hosting { state := 4 }).catchUp (.res 47)).heldFree 47).getStack 47).state = 4 := by decide

theorem test_cxlMemAccess : let t := after (.cxlMemAccess 0 true (stackSize - 2) 0 [0xAB, 0xCD]) (hosting { state := 3 })
    (after (.cxlMemAccess 0 false (stackSize - 4) 4 []) t).resp.data = [0xCDAB0000] := by decide
theorem test_cxlMemAccess_failed : let t := after (.cxlMemAccess 0 true 0 0 [0xAB]) (hosting { state := 4 })
    t.mem = State.reset.mem := by decide

theorem witness_RefreshAndTemperature :
    (hosting { state := 3, hot := false, temp := 86 }).getStack 47 = { state := 3, hot := false, temp := 86 } ∧
    ({ state := 3, hot := false, temp := 86 } : Stack).alive = true ∧
    (let x : Stack := { state := 2, hot := false, temp := 85 }
     x.alive = true ∧ ¬ (x.hot = true ∨ 85 < x.temp) ∧ x.scrubSlot = false ∧ x.tempRead = false ∧ x.staleFrames + 1 < 3) ∧
    (let x : Stack := { state := 2, hot := false, scrubSlot := true, staleFrames := 2 }
     ¬ (x.hot = true ∨ 85 < x.temp) ∧ x.scrubSlot = true ∧ 3 ≤ x.staleFrames + 1) ∧
    ((hosting { state := 4 }).getStack 47).tempRead = false := by decide

theorem test_refreshSlot : (after (.refreshSlot 47) (hosting { state := 3, hot := false, temp := 86 })).getStack 47 =
    { state := 3, hot := true, temp := 86 } := by decide
theorem test_hbmTempDeadline : let t := after (.hbmTempDeadline 47) (hosting { state := 3, hot := false, staleFrames := 2 })
    ((t.getStack 47).hot, (t.getStack 47).tempStale, (t.row (rowStack 47)).reason) = (true, true, 0x26) := by decide

theorem witness_Maintenance :
    (let s := hosting { state := 2, repairs := [0], quiet := true }
     let x := s.getStack 47
     x.alive = true ∧ x.stepBusy = false ∧ x.steps < s.stepCount x ∧ x.state ≠ 3 ∧ x.quiet = true ∧ x.work = 16 ∧ x.win ≠ 0 ∧
       Stack.work { x with win := 0 } = 16) ∧
    ((hosting { state := 2 }).declared 47 = [] ∧ ({ state := 2 } : Stack).work ≠ 16) ∧
    (let s := { hosting { state := 3, nextChannel := 16 } with pmc := { (hosting {}).pmc with frame := 86400001, t := 1000 } }
     let x := s.getStack 47
     x.steps < s.stepCount x ∧ x.hostWait = 0 ∧ x.state = 3 ∧ 16 ≤ x.nextChannel ∧
       dayFrames s.pmc.t ≤ (s.pmc.frame - x.passFrame).toNat) ∧
    (let x : Stack := { state := 3, stepBusy := true, stepWork := 16, repairs := [7] }
     x.stepBusy = true ∧ x.repairs = 7 :: [] ∧ x.stepWork = 16 ∧ { x with repairs := [] }.stepWork = 16) ∧
    ({ state := 3, stepBusy := true } : Stack).stepWork = 17 ∧
    (let x : Stack := { state := 3, stepBusy := true, stepWork := 15, stepFails := [(15, 2)] }
     x.stepBusy = true ∧ x.stepWork < 16 ∧ 2 ≤ tget x.stepFails x.stepWork 0) ∧
    (let x : Stack := { state := 3, stepBusy := true, stepWork := 4, stepFails := [(4, 1)] }
     x.stepWork < 16 ∧ tget x.stepFails x.stepWork 0 < 2) := by decide

theorem test_maintenanceStep : let t := after (.maintenanceStep 47) (hosting { state := 3 })
    ((t.getStack 47).hostWait, (t.getStack 47).stepWork, (t.getStack 47).steps, (t.getStack 47).stepBusy) = (10000000, 0, 1, true) := by decide
theorem test_maintenanceStepDone :
    let t := after (.maintenanceStepDone 47 false) (hosting { state := 3, stepBusy := true, stepWork := 0, stepFails := [(0, 2)] })
    ((t.getStack 47).state, (t.row (rowStack 47)).state, (t.row (rowStack 47)).reason) = (4, 4, 0x2C) := by decide

/-- An HBM_COPY that runs, of 2 bytes at offset 4096 of the window of site 0, for mailbox 63. -/
def copying : State := { hosting { state := 3 } with
  pmc := { (hosting {}).pmc with copy := some { site := 0, mb := 63, src := 4096, dst := 0x100000000, len := 2 }, cmds := [(0, 63)] }
  mem := [(47 * stackSize + 4096, 5), (47 * stackSize + 4097, 6)] }

theorem witness_CopyEnd : ∃ k, copying.pmc.copy = some k ∧
    (∀ h ∈ copying.copyStacks k, (copying.getStack h).quiet = false ∧ (copying.getStack h).stepBusy = false) ∧
    copying.pmc.cmds = [(k.site, k.mb)] :=
  ⟨_, rfl, by decide, by decide⟩

theorem test_hbmCopyDone : let t := after .hbmCopyDone copying
    (t.bytes 0x100000000 2, ((t.getSite 0).box 63).owner) = ([5, 6], ownDone) := by decide

/-! ### Supplies, power delivery and clocks -/

/-- MAIN and BACKUP as given. -/
def supplied (p : Power) : State := { State.reset with pwr := p }

theorem witness_Inputs :
    (supplied { backupOk := true, source := 2 }).inputOk .main = false ∧ (supplied {}).inputOk .backup = false ∧
    (supplied { mainOk := true }).inputOk .main = true ∧ (supplied { backupOk := true }).inputOk .backup = true ∧
    (let s := { supplied { mainOk := true, mainHold := true, source := 2 } with pmc := { State.reset.pmc with phase := 3 } }
     s.pmc.phase = 3 ∧ s.pwr.mainOk = true ∧ s.pwr.mainHold = true ∧ s.pwr.source = 2) ∧
    (let s := supplied { mainOc := true }
     s.pwr.mainOk = false ∧ s.pwr.backupOk = false ∧ s.pwr.failed = false ∧ s.pwr.backupOc = false) ∧
    (supplied { backupOc := true }).pwr.mainOc = false := by decide

theorem test_inputValid : let t := after (.inputValid .main) (supplied { backupOk := true, source := 2 })
    (t.pwr.mainOk, t.pwr.mainHold, t.pwr.source) = (true, true, 2) := by decide
theorem test_inputOvercurrent : let t := after (.inputOvercurrent .main) (supplied { mainOk := true, backupOk := true })
    (t.pwr.source, t.pwr.mainOc, (t.row (rowSupply .main)).reason) = (2, true, 0x23) := by decide
theorem test_inputInvalid : (after (.inputInvalid .backup) (supplied { backupOk := true, source := 2 })).pwr.source = 0 := by decide
theorem test_mainReturn : let t := after .mainReturn { supplied { mainOk := true, mainHold := true, backupOk := true, source := 2 } with
      pmc := { State.reset.pmc with phase := 3 } }
    (t.pwr.source, tget t.pmc.cnt.now 0x0220 0) = (1, 1) := by decide

theorem witness_PowerFailure : (supplied {}).pwr.mainOk = false ∧ (supplied {}).pwr.backupOk = false ∧
    (supplied {}).pwr.failed = false := by decide

theorem witness_ConvertersAndPhases :
    (∃ k d, (match d with | Side.w => (State.reset.getTile k).convE | Side.e => (State.reset.getTile k).convW) ≠ 0) ∧
    (let s := { State.reset with tile := [(23, { convW := 0, convE := 0 })] }
     (s.getTile 23).convE = 0 ∧ (s.getTile 23).convW = 0) ∧
    ((withQuad 95 { failedPh := 0x7F }).getQuad 95).failedPh.getLsbD 7 = false ∧
    ((withQuad 95 { sramGood := 2 }).getQuad 95).sramGood.getLsbD (9 - 8) = true :=
  ⟨⟨23, .e, by decide⟩, by decide, by decide, by decide⟩

theorem test_converterFail : let t := after (.converterFail 23 .w) { State.reset with tile := [(23, { convW := 0, convE := 0 })] }
    ((t.getTile 23).convW, (t.getTile 23).tied, (t.row (rowConv 23 0)).state, (t.row (rowConv 23 1)).state) = (1, true, 4, 2) := by
  decide
theorem test_vfabTFeedTrip : let t := after (.vfabTFeedTrip 23 .e) { State.reset with tile := [(23, { feedW := true, feedE := true })] }
    ((t.getTile 23).feedW, (t.getTile 23).feedE) = (true, false) := by decide

theorem witness_Stretches :
    (¬ ((withQuad 95 {}).pmc.phase = 3 ∨ 2000 ≤ (withQuad 95 {}).clk.used) ∧ (withQuad 95 {}).clk.active = false) ∧
    (atPoint 4 []).pmc.phase = 1 ∧ (let s := { State.reset with pmc := { State.reset.pmc with phase := 3 } }
     s.pmc.phase = 3) ∧
    ((withQuad 95 { stretching := true }).getQuad 95).stretching = true ∧
    (let s := { State.reset with clk := { State.reset.clk with active := true, used := 1950 } }
     s.clk.active = true ∧ s.pmc.phase ≠ 3 ∧ (s.clk.crossed = false ∧ { s.clk with crossed := true }.crossed = true) ∧
       ∀ q, q < 96 → (s.getQuad q).stretching = false) := by
  refine ⟨by decide, rfl, rfl, by decide, rfl, by decide, by decide, fun _ _ => rfl⟩

theorem test_vcoreDroop : let t := after (.vcoreDroop 95) (withQuad 95 {})
    ((t.getQuad 95).stretching, t.clk.active, t.clk.firstQd) = (true, true, 95) := by decide
set_option maxRecDepth 20000 in
theorem test_stretchLimit : let t := after .stretchLimit { withQuad 95 { stretching := true } with clk := { active := true } }
    (t.clk.active, t.clk.crossed, (t.getQuad 95).stretching) = (false, false, false) := by decide

/-- Quadrant 93 ramps in the bus of 93 and 95. -/
def ramping (x : Quad) : State := { State.reset with quad := [(93, { rail := 1 }), (95, x)] }

set_option maxRecDepth 20000 in
theorem witness_Ramps :
    (((withQuad 95 { rampDue := true }).getQuad 95).rampDue = true ∧ ((withQuad 95 { rampDue := true }).getQuad 95).rail = 0) ∧
    (let s := withQuad 95 { rail := 1, step := 15 }
     (s.getQuad 95).rail = 1 ∧ (∀ p ∈ s.busQuads 95, 95 ≤ p ∨ (s.getQuad p).ramping = false) ∧
       288000 + s.busReserve 95 [] + 12000 ≤ 300000 ∧ 15 ≤ (s.getQuad 95).step) ∧
    (let s := ramping { rail := 2, pause := 2000 }
     (s.getQuad 95).rail = 2 ∧ ¬ (∀ p ∈ s.busQuads 95, 95 ≤ p ∨ (s.getQuad p).ramping = false) ∧ (s.getQuad 95).pause = 2000) ∧
    (let s := withQuad 95 { rail := 2, pause := 1999 }
     ¬ 288001 + s.busReserve 95 [] + 12000 ≤ 300000 ∧ (s.getQuad 95).pause ≠ 2000) := by decide

theorem test_rampStep : let t := after (.rampStep 95 288001 []) (withQuad 95 { rail := 1, step := 3 })
    t.getQuad 95 = { rail := 2, step := 3, pause := 1 } := by decide

theorem witness_Fuses : ((withQuad 95 { rail := 3 }).getQuad 95).rail = 3 ∧ ((withQuad 95 { rail := 2 }).getQuad 95).rail = 2 ∧
    ((withQuad 95 { probeDue := true }).getQuad 95).probeDue = true ∧ (withQuad 95 {}).thm.state < 2 := by decide

set_option maxRecDepth 20000 in
theorem test_efuseTrip : let t := after (.efuseTrip 95) { withQuad 95 { rail := 3 } with core := [(575, { ccb := { state := .running } })] }
    ((t.getQuad 95).rail, (t.getQuad 95).probeDue, (t.getCore 575).ccb.fault) = (0, true, faultBit fPower) := by decide
theorem test_efuseProbe : let t := after (.efuseProbe 95 false) (withQuad 95 { probeDue := true })
    ((t.getQuad 95).rail, (t.getQuad 95).probeDue) = (4, false) := by decide

theorem witness_SitePower : ((withSite 1 { state := 2 }).getSite 1).state ≠ 5 ∧ ((withSite 1 { state := 2 }).getSite 1).railOff = false ∧
    ((withSite 1 { state := 2 }).getSite 1).state ≠ 4 ∧ ((withSite 1 { state := 4 }).getSite 1).state = 4 := by decide

theorem test_sidebandVidMessage : ((after (.sidebandVidMessage 1 951) (withSite 1 { vid := 700 })).getSite 1).vid = 700 ∧
    ((after (.sidebandVidMessage 1 950) (withSite 1 { vid := 700 })).getSite 1).vid = 950 := by decide
theorem test_hostSiteRailOff : let t := after (.hostSiteRailOff 1) (withSite 1 { state := 2 })
    ((t.getSite 1).state, (t.getSite 1).railOff, (t.row (rowSite 1)).state) = (4, true, 5) := by decide

/-- Both references are there. -/
def clocked (c : Clock) : State := { State.reset with clk := c }

theorem witness_References : (clocked { refA := true, refB := true }).clk.refA = true ∧ (clocked { refB := true }).clk.refB = true := by
  decide

theorem test_referenceLoss : let t := after (.referenceLoss .a) (clocked { refA := true, refB := true })
    (t.clk.refA, t.clk.sel) = (false, 1) ∧ (after (.referenceLoss .b) (clocked { refB := true, sel := 1 })).clk.sel = 2 := by decide

theorem witness_ClockLoss :
    (((withQuad 95 { locked := true, standby := 3 }).getQuad 95).locked = true ∧
      ((withQuad 95 { locked := true, standby := 3 }).getQuad 95).standby ≠ 5) ∧
    ((withQuad 95 { locked := true }).getQuad 95).standby = 5 ∧
    ((withQuad 95 { gated := 3 }).getQuad (287 / 3)).gated.getLsbD (287 % 3) = false ∧
    ((withQuad 95 {}).getQuad 95).locked = false := by decide

set_option maxRecDepth 20000 in
theorem test_lossOfLock : let t := after (.lossOfLock 95) { withQuad 95 { locked := true, gated := 0 } with core := [(575,
  { ccb := { state := .running } })] }
    ((t.getQuad 95).source, (t.getQuad 95).gated, (t.getCore 575).ccb.fault, (t.getRtr 575).idle) = (5, 7, faultBit fClock, true) := by
  decide
theorem test_dieClockLoss : let t := after (.dieClockLoss 287) (withQuad 95 { gated := 0, attempts := 2 })
    ((t.getQuad 95).gated, (t.getQuad 95).dieFwd, (t.getQuad 95).attempts) = (4, 4, 0) := by decide

theorem witness_DieReturn :
    (((withQuad 95 { source := 0 }).getQuad (287 / 3)).gated.getLsbD (287 % 3) = true ∧
      ((withQuad 95 { source := 0 }).getQuad (287 / 3)).source ≠ 5 ∧
      ((withQuad 95 { source := 0 }).getQuad (287 / 3)).dieFwd.getLsbD (287 % 3) = false) ∧
    ((withQuad 95 { source := 0, dieFwd := 4 }).getQuad (287 / 3)).dieFwd.getLsbD (287 % 3) = true ∧
    (let x := (withQuad 95 { gated := 3, attempts := 2 }).getQuad (287 / 3)
     x.gated.getLsbD (287 % 3) = false ∧ x.tested.getLsbD (287 % 3) = false ∧ 2 ≤ x.attempts) ∧
    ((withQuad 95 { gated := 3, attempts := 1 }).getQuad (287 / 3)).attempts < 2 := by decide

theorem test_dieUngate : let t := after (.dieUngate 287) (withQuad 95 { source := 0, tested := 4 })
    ((t.getQuad 95).gated, (t.getQuad 95).tested, (t.row (rowDie 287)).state) = (3, 0, 6) := by decide
theorem test_dieSelfTestDone : let t := after (.dieSelfTestDone 287 false) (withQuad 95 { gated := 3, attempts := 2 })
    ((t.getQuad 95).attempts, (t.getQuad 95).gated, (t.getCore 575).failed, (t.row (rowDie 287)).state) = (3, 7, some 0x0A, 4) := by
  decide

/-! ### Temperatures and cooling -/

/-- Sensor pair 442, the last, as given. -/
def sensed (p : Pair) : State := { State.reset with thm := { State.reset.thm with pairs := [(442, p)] } }

theorem witness_SensorSamples : ((sensed {}).pair 442).state ≠ 2 ∧ (sensorLimits 442).2 = 1760 ∧
    (sensorLimits 442).2 ≤ max (1760 : Int) (-320) ∧ 1 ≤ ((sensed { tripRun := 1 }).pair 442).tripRun ∧
    442 ∉ (sensed { tripRun := 1 }).atTrip ∧ ¬ (sensorLimits 442).2 ≤ max (1759 : Int) 1759 := by decide

theorem test_sensorSample : let t := after (.sensorSample [⟨442, some 1759, some 1500⟩]) (sensed { tripRun := 1 })
    ((t.pair 442).temp, (t.pair 442).diff, (t.pair 442).trip, (t.pair 442).overT, (t.pair 442).tripRun, t.thm.state) =
      (1759, 259, false, true, 0, 0) := by decide

/-- Both fans failed in the hold, or in another state. -/
def fanned (n : Nat) : State := { State.reset with thm := { State.reset.thm with fan0 := true, fan1 := true, state := n } }
def hotInlet (n : Nat) : State := { State.reset with thm := { State.reset.thm with inlet0 := 721, state := n } }

theorem witness_FansAndInlet : State.reset.thm.state = 0 ∧ (fanned 0).thm.fan0 = true ∧ (fanned 0).thm.fan1 = true ∧
    (fanned 0).thm.state ≠ 2 ∧ (fanned 0).thm.state ≠ 3 ∧ (fanned 3).thm.state = 3 ∧ 2 ≤ (fanned 3).thm.state ∧
    720 < (hotInlet 1).thm.inlet ∧ (hotInlet 1).thm.state ≠ 2 ∧ (hotInlet 1).thm.state ≠ 3 ∧ 720 < (hotInlet 2).thm.inlet ∧
    (hotInlet 2).thm.state = 2 := by decide

theorem witness_JunctionReport : let r : Row := { state := 2, reason := 0x26 }
    (({ State.reset with hlt := { State.reset.hlt with live := [(rowSite 1, r)] } }).row (rowSite 1)).reason = 0x26 ∧
      (State.reset.row (rowSite 1)).reason ≠ 0x26 := by decide

theorem test_junctionReport : ((after (.junctionReport 1 1680) (withSite 1 { junctionAge := 4 })).getSite 1).junction = 1680 := by decide
theorem test_fanfailChange : let t := after (.fanfailChange 1 true) State.reset
    (t.thm.fan1, t.thm.state, t.pins.alertN, (t.row (rowFan 1)).state, t.pins.pldm.length) = (true, 1, false, 5, 1) := by decide
theorem test_fanfailHoldTimer : after .fanfailHoldTimer (fanned 3) = fanned 3 := by decide

/-- Tile 23 has summed a second's readings. -/
def tiled (x : Tile) : State := { State.reset with tile := [(23, x)] }

theorem witness_ThermalClocks : ((tiled {}).getTile 23).tN = 0 ∧ ((tiled { tN := 3, tSum := 4806 }).getTile 23).tN ≠ 0 ∧
    (4806 : Int) / 3 = 1602 := by decide

theorem test_thermalFlashWrite : let t := after .thermalFlashWrite (tiled { cyc := [(3, 7)], tmax := 1602 })
    ((t.getTile 23).flashCyc, (t.getTile 23).flashTmax) = ([(3, 7)], 1602) := by decide

theorem witness_HoldExit :
    (let s := { sensed { temp := 1360 } with thm := { (sensed { temp := 1360 }).thm with state := 3, inlet0 := 560 } }
     s.thm.state = 3 ∧ s.mayExit = true ∧ s.manual 3 = false) ∧
    (let s := { State.reset with thm := { State.reset.thm with state := 3 }, pmc := { State.reset.pmc with manual := [3] } }
     s.thm.state = 3 ∧ s.mayExit = true ∧ s.manual 3 = true ∧ (3, s.ccbId .panel, 1) ∉ s.pmc.asked ∧
       (let u := { s with pmc := { s.pmc with asked := [(3, s.ccbId .panel, 1)] } }
        u.mayExit = true ∧ (3, u.ccbId .panel, 1) ∈ u.pmc.asked)) := by decide

set_option maxRecDepth 20000 in
theorem test_holdExit : let s := { State.reset with thm := { State.reset.thm with state := 3, darkAtEntry := [95] } }
    let t := after .holdExit s
    (t.thm.state, (t.getQuad 95).rampDue, (t.getQuad 0).rampDue) = (4, false, true) := by decide

/-! ### Health -/

theorem witness_WarmRecovery : ((withCcb 575 { state := .resetting }).getCore 575).ccb.state = .resetting ∧
    ((withCcb 575 { state := .resetting }).getCore 575).rejoin = false := by decide

theorem test_warmSelfTestDone : let t := after (.warmSelfTestDone 575 false) (withCcb 575 { state := .resetting })
    ((t.getCore 575).failed, (t.getCore 575).ccb.fault, (t.row 575).attempts) = (some 0x0A, faultBit fSelfTest, 1) ∧
      ((after (.warmSelfTestDone 575 true) (withCcb 575 { state := .resetting })).getCore 575).rejoin = true := by decide

/-- Mailboxes 0 of the site and 63 hold commands. -/
def busy : State := { withSite 1 {} with
  boot := { State.reset.boot with step := 2 }
  pmc := { State.reset.pmc with cmds := [(1, 0), (1, 63)], frame := 9 } }

theorem witness_PmcRestarts : 2 ≤ busy.boot.step ∧ busy.pmc.cmds ≠ [] ∧ busy.pmc.restarting = false ∧
    (busy.recentRestarts ++ [busy.pmc.frame]).length % 3 ≠ 0 ∧
    (let s := { State.reset with pmc := { State.reset.pmc with restarting := true } }
     s.pmc.restarting = true ∧ s.pmc.cmds = []) := by decide

theorem test_lockstepMismatch : let t := after .lockstepMismatch busy
    (t.pmc.restarting, t.pmc.cmds, ((t.getSite 1).box 63).word 4, tget t.pmc.cnt.now 0x051C 0) = (true, [], 0x1002, 1) := by decide
theorem test_commandDeadlineExpiry : ((after .commandDeadlineExpiry busy).getSite 1 |>.box 0).owner = ownDone := by decide

/-- Quadrant 95 with core 575 in reserve. -/
def usable95 (x : Quad) : State := { withQuad 95 x with hlt := { State.reset.hlt with live := [(575, { state := rowSpare })] } }

theorem witness_AgeingAndMargins : ((withQuad 95 { ageN := 2, slackSum := 5 }).getQuad 95).ageN ≠ 0 ∧
    ((withQuad 95 {}).getQuad 95).ageN = 0 ∧ (usable95 {}).usableIn 95 ≠ [] ∧ (withQuad 95 {}).usableIn 95 = [] ∧
    (usable95 {}).replanDue 95 1 = true ∧ (withQuad 95 { brkDays := [0x0E000000] }).replanDue 95 2 = true ∧
    (withQuad 95 {}).manual 2 = false ∧
    (let s := { State.reset with pmc := { State.reset.pmc with manual := [2] } }
     s.manual 2 = true ∧ (2, s.ccbId (.quad 95), 0) ∉ s.pmc.asked) := by decide

set_option maxRecDepth 20000 in
theorem test_ageingStore : let t := after .ageingStore (withQuad 95 { ageN := 2, slackSum := 5, roSum := 8 })
    ((t.getQuad 95).slackMean, (t.getQuad 95).roMean, (t.getQuad 95).ageN) = (2, 4, 0) := by decide
theorem test_bracketing : ((after (.bracketing 95 1 2 3 false) (usable95 {})).getQuad 95).brk = 0x01020300 := by decide
theorem test_marginReplan : let t := after (.marginReplan 95 1 18) (usable95 { margin := 20 })
    (t.pmc.overrides, t.hlt.mlogPtr, tget t.hlt.mlog 0 0) = ([(.margin 95 30 false, 1)], 1, 0x105F141E) := by decide

/-- A Stop Bath; one link of tile 17 as given. -/
def laned (l : Link) : State := { State.reset with
  pmc := { State.reset.pmc with point := 4 }
  tile := [(17, { links := [(19, l)] })] }

theorem witness_LaneRetraining : linkFitted 17 9 = true ∧ linkFitted 23 5 = false ∧ linkFitted 22 5 = true ∧
    (let s := laned { good := 0x5FE, due := [10], trained := true }
     4 ≤ s.pmc.point ∧ (s.getLink 17 9 1).trained = true ∧ (s.getLink 17 9 1).retraining = false ∧ (s.getLink 17 9 1).passed = none ∧
       s.retrainDue (s.getLink 17 9 1) 10 = true ∧ (s.getLink 17 9 1).good.getLsbD 0 = false ∧ (s.getLink 17 9 1).goodCount = 9) ∧
    (let x := (laned { good := 0x07F, retraining := true, group := 10, trained := true }).getLink 17 9 1
     x.goodCount = 7 ∧ x.retiring = false ∧ x.mode ≠ 2) ∧
    (let s := { State.reset with tile := [(17, { links := [(19, { retraining := true, group := 10, good := 0x7FF })] })] }
     (s.getLink 17 9 1).retraining = true) ∧
    (let s := { State.reset with tile := [(17, { links := [(19, { good := 0x4FE })] })] }
     (s.getLink 17 9 1).good.getLsbD 10 = true ∧ (s.getLink 17 9 1).goodCount = 8) ∧
    (let s := { State.reset with tile := [(17, { links := [(19, { good := 0x5FE })] })] }
     (s.getLink 17 9 1).goodCount = 9) := by decide

theorem test_linkRetrain : let t := after (.linkRetrain 17 9 1 10) (laned { good := 0x5FE, due := [10], trained := true })
    ((t.getLink 17 9 1).retraining, (t.row (rowLane 17 9 1 10)).state) = (true, 6) := by decide
theorem test_linkRetrainDone :
    let t := after (.linkRetrainDone 17 9 1 false) { State.reset with
      tile := [(17, { links := [(19, { retraining := true, group := 10, good := 0x7FF })] })] }
    ((t.getLink 17 9 1).good, (t.row (rowLane 17 9 1 10)).state, (t.row (rowLane 17 9 1 10)).reason) = (0x3FF, 4, 0x21) := by decide

theorem witness_Detours : let s := { State.reset with pmc := { State.reset.pmc with detours := [(0, 1)] } }
    s.pmc.detours ≠ [] ∧ s.pmc.restarting = false ∧ (linkList.any fun e => (s.getLink e.1 e.2.1 e.2.2).retiring) = false :=
  ⟨by decide, rfl, List.any_eq_false.mpr fun _ _ => Bool.false_ne_true⟩

theorem witness_DetourWaits : let l := (laned { retiring := true }).getLink 17 9 1
    (17, 9, 1) ∈ linkList ∧ l.retiring = true ∧ l.retireAt = none :=
  ⟨List.mem_flatMap.mpr ⟨17, by decide, List.mem_flatMap.mpr ⟨9, by decide, by decide⟩⟩, rfl, rfl⟩

/-- Site 1 of an H2 part, after the cold start. -/
def secondSite (x : Site) : State := { withSite 1 x with
  sec := { State.reset.sec with h2 := true }
  boot := { State.reset.boot with step := 6 } }

theorem witness_SiteModules : (secondSite {}).siteFitted 1 = true ∧ ((secondSite {}).getSite 1).railOff = false ∧
    (secondSite {}).boot.step = 6 ∧ ((secondSite { state := 4 }).getSite 1).state = 4 ∧
    4 ≤ ((secondSite { modules := [(0, .x64), (1, .x64), (2, .x32), (7, .x64)] }).getSite 1).trained := by decide

theorem test_moduleTrained : let t := after (.moduleTrained 1 7 .x64) (secondSite { modules := [(0, .x64), (1, .x64), (2, .x32)] })
    ((t.getSite 1).state, (t.row (rowModule 1 7)).state) = (3, 1) := by decide
theorem test_siteRetrain : let t := after (.siteRetrain 1) (secondSite { state := 4, modules := [(0, .x32)] })
    (tget (t.getSite 1).modules 0 .down, tget (t.getSite 1).modules 7 .down, (t.row (rowSite 1)).attempts) = (.x32, .training, 1) := by
  decide

/-- Work cell 95 with a binding. -/
def due2 (b : Binding) (n : Bool) : State := { State.reset with
  pmc := { State.reset.pmc with frame := 7, work := [(95, if n then { next := some b } else { bound := some b })] } }

theorem witness_BindDeadlines :
    (let b : Binding := ⟨0, 9, 0, 0, 0, .accepted, [], 1, []⟩
     ((due2 b true).getWork 95).next = some b ∧ b.frame = (due2 b true).pmc.frame + 2) ∧
    (let b : Binding := ⟨0, 9, 2, 1, 2, .setup, [0], 1, []⟩
     ((due2 b false).getWork 95).bound = some b ∧ b.stage = .setup ∧ 0 < b.place.length ∧ b.fails < 3) ∧
    (let b : Binding := ⟨0, 9, 2, 1, 3, .setup, [0], 1, []⟩
     ((due2 b false).getWork 95).bound = some b ∧ 3 ≤ b.fails ∧ (due2 b false).boundPlate 95 ≠ none) := by decide

theorem test_residentLoadFail : ((after (.residentLoadFail 95 0) (due2 ⟨0, 9, 2, 1, 2, .setup, [0], 1, []⟩ false)).getWork 95).bound =
    some ⟨0, 9, 2, 2, 3, .setup, [0], 1, []⟩ := by decide

/-! ### Bring-up -/

/-- The last ramp of the cold start. -/
def lastRamp : State := { withQuad 95 { rail := 1, step := 15 } with boot := { State.reset.boot with step := 2 } }

theorem witness_ColdStart_ramps : lastRamp.boot.step = 2 ∧ (lastRamp.getQuad 95).rail = 1 ∧ (lastRamp.getQuad 95).rampDue = false ∧
    15 ≤ (lastRamp.getQuad 95).step ∧ 288000 + lastRamp.busReserve 95 [] + 12000 ≤ 300000 ∧
    ∀ p, p < 96 → p ≠ 95 → (lastRamp.getQuad p).rampDue = false ∧ (lastRamp.getQuad p).ramping = false := by
  refine ⟨rfl, by decide, by decide, by decide, by decide, fun p _ hp => ?_⟩
  have h : lastRamp.getQuad p = {} := if_neg (fun h : 95 = p => hp h.symm)
  rw [h]
  exact ⟨rfl, rfl⟩

theorem witness_ColdStart : (supplied { mainOk := true }).pwr.mainOk = true ∧ (supplied { mainOk := true }).boot.step = 0 ∧
    (supplied { backupOk := true, failed := true }).pwr.backupOk = true ∧ (supplied { backupOk := true, failed := true }).pwr.failed = true ∧
    ((supplied { mainOk := true }).coldKeep.alert.selectBank (supplied { mainOk := true }).coldKeep.boot.candidates).1 = none := by
  decide

set_option maxRecDepth 20000 in
theorem test_coldStart : let t := after (.coldStart (some 17)) (supplied { mainOk := true })
    (t.boot.step, t.boot.err, t.pmc.frame) = (7, 0x11010011, 0) := by decide
set_option maxRecDepth 20000 in
theorem test_coldStart_noBank : let t := after (.coldStart none) (supplied { mainOk := true })
    (t.boot.step, t.boot.err) = (7, 0x11021000) := by decide

/-- The cold start at step 3 or 5. -/
def starting (n : Nat) : State := { State.reset with
  boot := { State.reset.boot with step := n }
  pmc := { State.reset.pmc with westNext := 2 } }

theorem witness_MemoryTest : (starting 3).boot.step = 3 ∧ (starting 3).thm.state < 3 ∧
    (let r : StackTest := ⟨12, true, 0, 0, 0, 0⟩
     r.stack < 48 ∧ r.failed = true ∧ ∀ x ∈ [r], x.stack = r.stack → x = r) := by decide

set_option maxRecDepth 20000 in
theorem test_takeStacks : let t := (starting 3).stackTested ⟨12, true, 0, 0, 0, 0⟩
    (t.takeStacks [12, 24, 13, 25] 2, (t.getStack 12).state, (t.row (rowStack 12)).reason) = ([24, 13], 4, 0x2C) := by decide
theorem test_trainLink : let t := (starting 3).trainLink [⟨17, 9, 1, 10⟩] (17, 9, 1)
    ((t.getLink 17 9 1).good, (t.getLink 17 9 1).trained, (t.row (rowLane 17 9 1 10)).state) = (0x3FF, true, 4) := by decide

theorem witness_CoreTest : (starting 5).boot.step = 5 ∧ (starting 5).thm.state < 3 := by decide

/-- An up panel. -/
def running6 : State := { State.reset with boot := { State.reset.boot with step := 6 } }

theorem witness_ResetRequests :
    (100 ≤ 100 ∧ running6.boot.step = 6 ∧ running6.thm.state < 2 ∧ ∃ q, q < 96 ∧ (running6.getQuad q).resetPending = false) ∧
    ¬ (100 ≤ 99) ∧ State.reset.boot.step ≠ 6 :=
  ⟨⟨by decide, rfl, by decide, 0, by decide, rfl⟩, by decide, by decide⟩

theorem test_resetReq_short : after (.resetReq 99) running6 = running6 := by decide

/-- A boot record of an ACTIVE image of SEQ 5, with its CRC-32C. -/
def bootRecord : List Byte := [66, 79, 79, 84, 5, 0, 0, 0, 0, 0, 0, 16, 0, 0, 16, 0, 0, 16, 0, 0, 0, 0, 0, 0] ++ List.replicate 36 0 ++
  [178, 150, 31, 35]

/-- The boot ROM halts for want of a bank. -/
def halted : State := { State.reset with boot := { State.reset.boot with step := 7, err := 0x11021000 } }

set_option maxRecDepth 40000 in
theorem witness_RecoveryService : halted.boot.step = 7 ∧ bits halted.boot.err.toNat 16 16 = 0x1102 ∧
    (parseRec [] 0).or (parseRec [] 0x8000) = none ∧
    (((parseRec bootRecord 0).or (parseRec bootRecord 0x8000)).map (·.seq)) = some 5 := by decide

theorem test_recoveryImage : after (.recoveryImage 0 []) halted = { halted with resp := { status := 0x1204 } } := by decide

/-! ### Attestation, the management endpoint and metering -/

/-- Site 1 takes requests; its connection as given. -/
def asked1 (x : Site) : State := withSite 1 { x with state := 2 }

theorem witness_SpdmConnections : ((asked1 {}).getSite 1).open = true ∧ ((asked1 {}).getSite 1).spdmVersion = false ∧
    ((asked1 { spdmVersion := true }).getSite 1).spdmVersion = true ∧ ((asked1 { spdmCaps := true }).getSite 1).spdmCaps = true ∧
    ((asked1 {}).getSite 1).spdmCaps = false := by decide

theorem test_getCapabilities : (after (.getCapabilities 1) (asked1 {})).resp.status = 4 ∧
    ((after (.getCapabilities 1) (asked1 { spdmVersion := true })).getSite 1).spdmCaps = true := by decide
theorem test_negotiateAlgorithms : let t := after (.negotiateAlgorithms 1 0x90 0x3 0x6) (asked1 { spdmCaps := true })
    (t.resp.data, (t.getSite 1).spdmAlgs) = ([0x80, 0x2, 0x4], true) := by decide

theorem witness_SpdmAnswers : ((asked1 { spdmAlgs := true }).getSite 1).open = true ∧
    ((asked1 { spdmAlgs := true }).getSite 1).spdmAlgs = true ∧ ((asked1 {}).getSite 1).spdmAlgs = false := by decide

theorem test_getMeasurements_index : (after (.getMeasurements 1 9 false []) (asked1 { spdmAlgs := true })).resp.status = 1 := by decide

theorem witness_LmsCompanion : ((asked1 {}).getSite 1).open = true ∧ bits (0x01000000 : W32).toNat 24 8 ≠ 2 ∧
    ((asked1 {}).getSite 1).signed = none ∧ ((asked1 { signed := some [] }).getSite 1).signed = some [] ∧
    bits (0x01000001 : W32).toNat 0 24 ≠ 0 ∧ bits (0x03000000 : W32).toNat 24 8 ≠ 1 ∧ bits (0x02000000 : W32).toNat 24 8 = 2 := by
  decide

theorem test_signTranscript_reserved : (after (.signTranscript 1 0x01000001) (asked1 { signed := some [] })).resp.data = [0x01000002] := by
  decide
theorem test_signTranscript_none : (after (.signTranscript 1 0x01000000) (asked1 {})).resp.data = [lmsWord 1 eSecNoTranscript] := by decide

theorem test_getSensorReading : (after (.getSensorReading 9) State.reset).resp.status = 0x80 ∧
    (after (.getSensorReading 4) { State.reset with pwr := { State.reset.pwr with pLf := 40 } }).resp.data = [40] := by decide
theorem test_getStateSensorReadings : (after (.getStateSensorReadings 10) (fanned 1)).resp.data = [1] := by decide
theorem test_getPdr : (after (.getPdr 14) State.reset).resp = { status := 0x82 } := by decide

/-- The cartridge as given, in its bay. -/
def cartridge (m : Meter) : State := { State.reset with mtr := m }
def openCart : Meter := { powered := true, intOpen := true, start := 60, seq := 4, records := [(4, [])], eMain := 100 }

/-- A snapshot: its TYPE, and its last word. -/
def snap (x : W32) : List W32 := 0x01000000 :: List.replicate 222 0 ++ [x]

theorem witness_MeterIntervals : (cartridge openCart).mtr.present = true ∧ (cartridge openCart).mtr.powered = true ∧
    (cartridge openCart).mtr.intOpen = true ∧ (cartridge openCart).cartRuns = true ∧ (cartridge openCart).mtr.start ≤ 60 ∧
    (cartridge openCart).mtr.metering = true ∧ (cartridge { openCart with metering := false }).mtr.metering = false ∧
    snapOk [] = false := by decide

theorem witness_MeterIntervals_snapshot : ∃ x, snapOk (snap x) = true := by
  have h (x : W32) : (snap x).take 223 = 0x01000000 :: List.replicate 222 0 := rfl
  have g (x : W32) : (snap x).getD 223 0 = x := rfl
  have l (x : W32) : (snap x).length = 224 ∧ (snap x).getD 0 0 = 0x01000000 := ⟨rfl, rfl⟩
  refine ⟨crc32c (wordBytes (0x01000000 :: List.replicate 222 0)), ?_⟩
  unfold snapOk
  rw [h, g, (l _).1, (l _).2]
  simp
  decide

theorem test_snapshot : after (.snapshot []) (cartridge openCart) = cartridge openCart := by decide

theorem witness_LeverAndCartridge :
    (cartridge openCart).mtr.metering = true ∧
    (let m := (cartridge { metering := false }).mtr
     m.metering = false ∧ m.present = true) ∧
    (let m := (cartridge { metering := false, present := false, cartSerial := 8, bay := [8] }).mtr
     m.metering = false ∧ m.present = false ∧ m.cartSerial = 8 ∧ (8 : W64) ∈ m.bay ∧ m.cartSerial ≠ 9) ∧
    (cartridge openCart).cartRuns = true ∧ (cartridge {}).cartRuns = false ∧
    ((cartridge { openCart with noLms := true }).mtr.noLms = true ∧ (cartridge openCart).mtr.noLms = false) ∧
    (let m := (cartridge {}).mtr
     m.present = true ∧ m.powered = false) := by decide

theorem test_cartridgeSwap : let m := (after (.cartridgeSwap (some 9)) (cartridge { openCart with
      metering := false, present := false, cartSerial := 8 })).mtr
    (m.present, m.cartSerial, m.seq, m.records.length, m.eMain) = (true, 9, 0, 0, 0) := by decide
theorem test_cartridgePowerUp : let m := (after (.cartridgePowerUp 90) (cartridge { openCart with powered := false, next := 7 })).mtr
    (m.powered, m.use, m.start, m.seq) = (true, 7, 90, 4) := by decide

/-- The PMC's copy holds SEQ 4. -/
def copied : State := cartridge { openCart with copyRecs := [(4, [1, 0, 4])], copySeq := 4 }

theorem witness_RecordLink : (∃ e ∈ copied.mtr.copyRecs, e.1 = (([1, 0, 4] : List W32).getD 2 0).toNat) ∧
    (∀ e ∈ copied.mtr.copyRecs, e.1 ≠ (([1, 0, 5] : List W32).getD 2 0).toNat) ∧ copied.mtr.metering = true ∧
    (cartridge { metering := false }).mtr.metering = false := by decide

theorem test_statusFrame : let m := (after (.statusFrame true 17 5 300) (cartridge openCart)).mtr
    (m.linkOk, m.total, m.state) = (true, 300, 1) := by decide
theorem test_legalFrame : let t := after (.legalFrame true [1, 0, 5]) copied
    (tget t.mtr.copyRecs 5 [], t.mtr.copySeq, tget t.pmc.cnt.now 0x0724 0) = ([1, 0, 5], 5, 1) := by decide
theorem test_linesFrame : tget (after (.linesFrame true 4 [[7], [9]]) copied).mtr.copyLines 4 [] = [[7], [9]] := by decide
theorem test_statusTimeout : let t := after .statusTimeout (cartridge { openCart with linkOk := true })
    (t.mtr.linkOk, (t.row rowCart).state, tget t.pmc.cnt.now 0x072C 0) = (false, 2, 1) := by decide

/-! ### The whole machine -/

/-- The Shutter is due. -/
def shutterDue : State := { State.reset with pmc := { State.reset.pmc with point := 5 }, pending := [.shutter] }

theorem witness_invariants : shutterDue.MemInv ∧ shutterDue.BoundsInv ∧ ∃ t, step shutterDue = .next t := by
  refine ⟨rfl, ?_, _, rfl⟩
  intro e h
  cases h

theorem witness_FrameCounter : goes .shutter shutterDue = true := by decide

/-- On an empty queue one tick of the timebase passes. -/
theorem test_step_tick : step State.reset = .next State.reset.tick ∧ State.reset.tick.pmc.timebase = 1 :=
  ⟨rfl, congrArg Pmc.timebase (State.plant_pmc _)⟩

/-! ### Completion: states that meet each clause's conditions together -/

theorem witness_RegistersComplete :
    (((withRtr 575 { arm := true }).getRtr 575).arm = true) ∧
    (((withRtr 0 { index := 16400 }).getRtr 0).bankSel = false ∧ ((withRtr 0 { index := 16400 }).getRtr 0).index ≤ 16400) ∧
    (((withCcb 575 { state := .ready }).getCore 575).ccb.state ≠ .resetting ∧ (0x4000 : W32).toNat % 32768 ≤ 16384) := by decide

theorem witness_VilsalOverridesComplete :
    (let s := sent 0x41 [575, 1, 2, 0] State.reset
     Accepted .cellForceRelease s (cmd s) ∧ s.configured (.core 575) = true ∧ s.inTime ((cmd s).frame 2)) ∧
    (let s := sent 0x43 [10 * 512, 0, 2, 0] (manual [1])
     Accepted .linkForceRetire s (cmd s) ∧ bits ((cmd s).w 0) 13 2 ≠ 3 ∧
       linkFitted ((cmd s).w 1) (bits ((cmd s).w 0) 4 4) = true ∧ s.manual 1 = true ∧ s.inTime ((cmd s).frame 2)) ∧
    (let s := sent 0x43 [0x4000, 0, 2, 0] (manual [1])
     Accepted .linkForceReturn s (cmd s) ∧ linkFitted ((cmd s).w 1) (bits ((cmd s).w 0) 4 4) = true ∧
       bits ((cmd s).w 0) 9 4 ≤ 10 ∧ s.manual 1 = true ∧ s.inTime ((cmd s).frame 2)) ∧
    (let s := sent 0x34 [0x007, 2, 0] State.reset
     Accepted .ringRejoin s (cmd s) ∧ s.ringFitted (bits ((cmd s).w 0) 0 4) = true ∧ s.inTime ((cmd s).frame 1)) := by
  unfold State.inTime
  exact ⟨⟨accepted_of (by decide), by decide⟩, ⟨accepted_of (by decide), by decide⟩,
    ⟨accepted_of (by decide), by decide⟩, ⟨accepted_of (by decide), by decide⟩⟩

/-- A plate of no positions, for a frame of the parameters at reset. -/
def tinyPlate : List Byte := wordBytes ([0, 0, 0, 0, 0, 0, 0, 0, 0x000803E8, 0x01100000] ++ List.replicate 6 0)

/-- Work cell 95 may take it. -/
def bindable : State := { State.reset with pmc := { State.reset.pmc with
  work := [(95, { quads := [0] })], store := [(0, { image := tinyPlate, keySlot := 0 })] } }

set_option maxRecDepth 20000 in
theorem witness_PlateBindCompletes :
    let s := sent 0x21 [95, 3, 0] bindable
    Accepted .plateBind s (cmd s) ∧ bits ((cmd s).w 0) 0 7 < 96 ∧ (∃ e ∈ s.pmc.store, e.1 = bits ((cmd s).w 0) 8 4) ∧
      (s.getWork 95).quadsAt ((cmd s).frame 1) ≠ [] ∧ (s.getWork 95).next = none ∧ (s.getWork 95).unbindAt = none ∧
      s.pmc.frame.toNat + s.bindLead 95 ≤ ((cmd s).frame 1).toNat ∧
      s.bindChecks 95 ((cmd s).frame 1) ((s.getWork 95).quadsAt ((cmd s).frame 1)) (s.plate (bits ((cmd s).w 0) 8 4)) = none :=
  ⟨accepted_of (by decide), by decide, by decide, by decide, by decide, by decide, by decide, by decide⟩

theorem witness_VilsalPlatesComplete :
    (let s := sent 0x20 [4096, 0, 64, 0] State.reset
     Accepted .plateLoad s (cmd s) ∧ (cmd s).w64 0 % 4096 = 0 ∧ (cmd s).w64 0 + (cmd s).w64 2 ≤ s.winSize 0 ∧ (cmd s).w64 2 ≠ 0 ∧
       s.pmc.store = []) ∧
    (let s := sent 0x35 [0, 0, 0, 0, 0, 0] State.reset
     Accepted .hbmCopy s (cmd s) ∧ (cmd s).w64 0 + (cmd s).w64 4 ≤ s.winSize 0 ∧ (cmd s).w64 4 = 0) :=
  ⟨⟨accepted_of (by decide), by decide⟩, ⟨accepted_of (by decide), by decide⟩⟩

set_option maxRecDepth 20000 in
theorem witness_DescriptorsComplete :
    (let s := issues 575 zeroDma { dma := List.replicate 15 (anyQueued zeroDma) }
     Streams s 575 zeroDma 0 ∧ (s.getCore 575).dma.length < 16 ∧ dmCheck s 575 zeroDma = none ∧ flag zeroDma 0 15 = false) ∧
    (let s := issues 0 (descOf 2 0 []) { arr := { queue := List.replicate 3 (anyQueued (descOf 2 0 [1])) } }
     Streams s 0 (descOf 2 0 []) 0 ∧ dKind (descOf 2 0 []) = 2) ∧
    (let s := issues 0 (descOf 3 0 []) {}
     Streams s 0 (descOf 3 0 []) 0 ∧ dKind (descOf 3 0 []) = 3 ∧ (s.getCore 0).vqFill < 4 ∧
       veCheck (s.getCore 0) (descOf 3 0 []) = none) := by
  simp only [Streams]
  and_intros <;> decide

theorem witness_MessagesComplete :
    (State.reset.reaches nodePmc 95 = true ∧ ((withQuad 95 { source := 0 }).getQuad 95).source ≠ 5 ∧
      (withQuad 95 { source := 0 }).reaches nodePmc 95 = true) ∧
    (let s := tokened 4
     s.mesh.net.findIdx? (fun x => x.type = 7 && x.src = coreQuad 4 && x.body = [s.ccbId (.core 4), 0x10000001]) = some 0 ∧
       (s.getCore 4).ccb.state ≠ .resetting ∧ (s.getCore 4).ccb.inport.length < 16) ∧
    (let s := sends ⟨5, 4, 0, signalBody 4 511 1⟩ twoCores
     s.underWay (isSignal 4 511 1) ≠ none ∧ (s.getCore 4).ccb.state ≠ .resetting) := by decide

set_option maxRecDepth 20000 in
theorem witness_FramesComplete :
    (let s := atStack3 { rx := [rowBeat], xfers := [openPut] }
     (s.meshPort (.res 3)).turn = some 0 ∧ (s.meshPort (.res 3)).rx[0]? = some rowBeat ∧ rowBeat.2.2.head = false ∧
       openPut.hall = false ∧ rowBeat.2.2.data.length = 32 ∧ rowBeat.2.2.poison = 0 ∧
       (∃ h y z, s.unitAt (openPut.at openPut.moved) = some (.res h, y, z)) ∧
       s.writeRefused (openPut.at openPut.moved) 32 = none) ∧
    (let s := goBound { state := .running }
     (s.getWork 95).goCount = some 3 ∧ s.head (.work 95) = some 0 ∧ (s.getCore 0).ccb.state ≠ .resetting ∧
       (s.getCore 0).ccb.inport.length < 16) :=
  ⟨⟨by decide, by decide, by decide, by decide, by decide, by decide, ⟨3, stack3, stackSize, by decide⟩, by decide⟩, by decide⟩

theorem witness_FabricComplete :
    (let s := { asking [asked 77 77 4] with stack := [(47, { win := 7 })] }
     let x := { hail with pub := true }
     InOrder s 31 x ∧ ForMe s x ∧ s.fab.remotes.find? (fun r => r.xid = x.xid && r.op = 4) = some (asked 77 77 4) ∧
       s.hallFrame.setWidth 32 ≤ x.leaseEnd ∧ (s.getStack (cacheDie 575)).winNext = none ∧
       cacheSets (s.getStack (cacheDie 575)).win ≠ 0) ∧
    (let s := asking [asked 77 77 2]
     InOrder s 31 hail ∧ ForMe s hail ∧ s.fab.remotes.find? (fun r => r.xid = hail.xid && r.op ≠ 1) = some (asked 77 77 2) ∧
       ∀ z ∈ s.fab.remotes, z.group = 77 → z.op = 1 ∨ z.xid = hail.xid ∨ z.data ≠ none) := by
  unfold InOrder Arrives ForMe; decide

theorem witness_HealthComplete :
    (let s := laned { good := 0x5FE, due := [10], trained := true }
     4 ≤ s.pmc.point ∧ (s.getLink 17 9 1).trained = true ∧ (s.getLink 17 9 1).retraining = false ∧
       (s.getLink 17 9 1).passed = none ∧ s.retrainDue (s.getLink 17 9 1) 10 = true ∧
       (s.getLink 17 9 1).good.getLsbD 10 = true ∧ (s.getLink 17 9 1).goodCount ≠ 8) ∧
    (let b : Binding := ⟨0, 9, 0, 0, 0, .accepted, [], 1, []⟩
     b.frame = (due2 b true).pmc.frame + 2 ∧ (footBanks ((due2 b true).plate b.slot) b.quads b.variant).map (·.1) = []) ∧
    (let x : Stack := { state := 3, stepBusy := true }
     x.stepBusy = true ∧ x.work < 16) ∧
    (usable95 {}).replanDue 95 1 = true ∧ (usable95 {}).manual 2 = false := by decide

/-! ### Completion of firmware, mesh accesses and signing -/

theorem witness_FwUpdateCompletes : let s := sent 0x50 [2, 0, 0, 64, 2, 0] State.reset
    Accepted .fwUpdate s (cmd s) ∧ (cmd s).w64 1 % 4096 = 0 ∧ (cmd s).w64 1 + (cmd s).w 3 ≤ s.winSize 0 ∧
      s.inTime ((cmd s).frame 4) ∧ (cmd s).w 3 ≠ 0 ∧ (s.fwTarget ((cmd s).w 0)).phase ≠ 2 ∧ (s.fwTarget ((cmd s).w 0)).phase ≠ 3 ∧
      s.sec.staged = 0 ∧ { s.sec with staged := 7 }.staged ≠ 0 := by
  unfold State.inTime
  exact ⟨accepted_of (by decide), by decide⟩

theorem witness_FwMessagesComplete :
    (let s := staged { ccb := { state := .ready }, fw := { repairs := 2 } } []
     s.fwSeqOk 3 = true ∧ (s.getCore 575).noFw = false ∧ (s.getCore 575).fw.repairs < 3 ∧ (s.getCore 575).fw.missing 24 = [0]) ∧
    ((withCore 575 { fw := { complete := true } }).getCore 575).fw.complete = true ∧
    (ForPanel memberOf 0 { goodFlit with dest := 1 } ∧ memberOf.route 0 = some (0, true)) ∧
    ((List.range (cdiv (([53] : List W32).getD 0 0).toNat 52)).filter fun i =>
      (tget State.reset.sec.hallPackets i []).length ≠ 13) ≠ [] ∧ State.reset.sec.hallRepairs < 3 := by
  unfold ForPanel; decide

set_option maxRecDepth 40000 in
theorem witness_RecoveryAndSigningComplete :
    (halted.boot.step = 7 ∧ bits halted.boot.err.toNat 16 16 = 0x1102 ∧
      ((parseRec bootRecord 0).or (parseRec bootRecord 0x8000)).isSome = true) ∧
    (let s := { asked1 { signed := some [] } with sec := { State.reset.sec with use := 5, next := 6 } }
     (s.getSite 1).open = true ∧ (s.getSite 1).signed = some [] ∧ s.sec.lmsOff = false ∧ s.sec.use < s.sec.next ∧ s.sec.use < 2 ^ 30) := by
  decide

set_option maxRecDepth 20000 in
theorem witness_MeshAccessesComplete :
    (let s := atStack3 { rx := [headBeat 1 stack3 32 1] }
     (s.meshPort (.res 3)).turn = some 0 ∧ (s.meshPort (.res 3)).rx[0]? = some (headBeat 1 stack3 32 1) ∧
       (headBeat 1 stack3 32 1).2.2.head = true ∧ (headBeat 1 stack3 32 1).2.2.kind = 1 ∧ (headBeat 1 stack3 32 1).2.2.xfer.hall = false) ∧
    (let s := atStack3 { rx := [rowBeat], xfers := [openPut] }
     (s.meshPort (.res 3)).rx[0]? = some rowBeat ∧
       (s.meshPort (.res 3)).xfers.find? (fun z => z.port = rowBeat.2.1 && z.stream = rowBeat.2.2.stream) = some openPut ∧
       openPut.hall = false ∧ rowBeat.2.2.data.length = 32 ∧ rowBeat.2.2.poison = 0 ∧ s.writeRefused (openPut.at openPut.moved) 32 = none) ∧
    (let s := { withCcb 0 { state := .ready } with
       mesh := { State.reset.mesh with core := [(0, { rx := [headBeat 2 (scratchAddr 0 0) 32 1] })] } }
     (s.meshPort (.core 0)).turn = some 0 ∧ (s.meshPort (.core 0)).rx[0]? = some (headBeat 2 (scratchAddr 0 0) 32 1) ∧
       (headBeat 2 (scratchAddr 0 0) 32 1).2.2.kind = 2 ∧ ((headBeat 2 (scratchAddr 0 0) 32 1).2.2.xfer.open (.core 0) 1).hall = false ∧
       (s.getCore 0).ccb.state ≠ .resetting ∧ (s.getCore 0).scr.writes = []) := by decide

theorem test_signTranscript : let s := { asked1 { signed := some [] } with sec := { State.reset.sec with use := 5, next := 6 } }
    ((after (.signTranscript 1 0x01000000) s).sec.use, ((after (.signTranscript 1 0x01000000) s).getSite 1).signed) = (6, none) := by decide

end Sys2Proof.Tests
end

section
/-! PROOF. The refusals of mailbox commands (R309, R313), and the accesses to registers (R7, R211, R310). -/

namespace Sys2Proof.Machine

/-! ### Vilsal commands that are refused (R9, R309, R313) -/

theorem vilsal_congr (s : State) (op : Nat) {mine mine' : Cmd → Bool} {len len' : Cmd → Nat} (masks : List Nat)
    (k : Cmd → State → State) (hm : ∀ c, mine c = mine' c) (hl : ∀ c, len c = len' c) :
    s.vilsal op mine len masks k = s.vilsal op mine' len' masks k := by
  rw [funext hm, funext hl]

/-- The meaning of a mailbox command is R313's checks on the form that R316 gives it, and then its own work. -/
theorem exec_mailbox {i : Instr} {form : Nat × (Cmd → Bool) × (Cmd → Nat) × List Nat} (h : mailboxForm i = some form)
    (s : State) : ∃ k, exec i s = s.vilsal form.1 form.2.1 form.2.2.1 form.2.2.2 k := by
  cases i <;> simp only [mailboxForm, reduceCtorEq, Option.some.injEq] at h <;> subst h <;> unfold exec
  case hallForm => exact ⟨_, vilsal_congr _ _ _ _ (fun _ => rfl) fun c => by simp [bits, cdiv]⟩
  case keyEnrol => exact ⟨_, vilsal_congr _ _ _ _ (fun _ => rfl) fun c => by simp⟩
  case ringRelease | ringRejoin | cellForceDark | cellForceRelease | cellForceRetire | meterReadLegal |
      meterReadInformative =>
    simp only [execRingRelease, execRingRejoin, execCellForceDark, execCellForceRelease, execCellForceRetire,
      execMeterReadLegal, execMeterReadInformative, State.ringCommand, State.cellForce, State.meterRead]
    exact ⟨_, vilsal_congr _ _ _ _ (fun c => by simp [bits]) fun _ => rfl⟩
  all_goals
    simp only [execGetInfo, execRingSetup, execEventMask, execContactRead, execStatsRead, execFrameConfig, execCellConfig,
      execClassSet, execClassGet, execHallLeave, execPlateLoad, execPlateBind, execPlateUnbind, execPlateDelete,
      execKeyRevoke, execHostwinSet, execResSplit, execPublish, execFabRebind, execHbmCopy, execPolicySet, execSpareSet,
      execLinkForceRetire, execLinkForceRetrain, execLinkForceReturn, State.linkForce, execClockSet, execMarginSet,
      execPowerLimit, execFwUpdate, execFwStatus, execJobTag, State.command]
    exact ⟨_, rfl⟩

/-- The checks at the head of the queue, in R313's order. -/
theorem vilsal_checks {i : Instr} {s : State} {c : Cmd} {form : Nat × (Cmd → Bool) × (Cmd → Nat) × List Nat}
    (h : Heads i s c) (hf : mailboxForm i = some form) (k : Cmd → State → State) :
    s.vilsal form.1 form.2.1 form.2.2.1 form.2.2.2 k =
      if c.argLen ≠ form.2.2.1 c then .next (s.finish c eMboxLen)
      else if !s.allows c then .next (s.finish c eNotReady)
      else if !c.headOk || !c.argsOk form.2.2.2 then .next (s.finish c eReserved)
      else .next (k c s) := by
  obtain ⟨form', hf', ⟨g, m, rest, hq, rfl⟩, ho, hm, hr, hc⟩ := h
  obtain rfl : form = form' := Option.some.inj (hf.symm.trans hf')
  unfold State.vilsal
  rw [hq]
  simp only [due, ho, hm, hr, hc, decide_true, Option.isNone_none, Bool.not_false, Bool.and_self, if_true]

/-- A command that ends with a status and no result, and does nothing else. -/
theorem finishes_of_finish {i : Instr} {s : State} {c : Cmd} {st : Nat} (h : Heads i s c)
    (hx : exec i s = .next (s.finish c st)) : Finishes i s c st [] s :=
  ends_next hx ⟨reply_finish s s c st [] 0 rfl (heads_known h), mailboxOnly_finish s c st [] 0⟩

/-- Settles O9: each mailbox command is R313's checks on its form, and a check that fails ends it. -/
theorem vilsalRefusals : Obligations.VilsalRefusals := by
  intro i s c form hf hh
  obtain ⟨k, hk⟩ := exec_mailbox hf s
  rw [vilsal_checks hh hf] at hk
  refine ⟨fun hl => ?_, fun hl ha => ?_, fun hl ha hb => ?_⟩
  · rw [if_pos hl] at hk
    exact finishes_of_finish hh hk
  · rw [if_neg (not_not_intro hl), ha] at hk
    exact finishes_of_finish hh hk
  · have hb' : (!c.headOk || !c.argsOk form.2.2.2) = true := by simpa using hb
    rw [if_neg (not_not_intro hl), ha, hb'] at hk
    exact finishes_of_finish hh hk

/-! ### The sequencer's registers keep (R99, R126)

A read of a core's block lets row pairs of its VE descriptor issue first (R126); they leave the sequencer's registers of every
core as they are. -/

/-- Every core's sequencer is as it was. -/
def SeqKept (s t : State) : Prop := ∀ m, (t.getCore m).seq = (s.getCore m).seq

theorem seqKept_refl (s : State) : SeqKept s s := fun _ => rfl

theorem seqKept_trans {s t u : State} (h : SeqKept s t) (h' : SeqKept t u) : SeqKept s u := fun m => (h' m).trans (h m)

theorem seqKept_foldl {α : Type} (f : State → α → State) (h : ∀ s a, SeqKept s (f s a)) (l : List α) (s : State) :
    SeqKept s (l.foldl f s) :=
  foldl_keeps f (fun t a ht => seqKept_trans ht (h t a)) l s (seqKept_refl s)

theorem seqKept_of_only {ps : List Part} {s t : State} (h : Only ps s t) (hp : Part.core ∉ ps) : SeqKept s t := by
  intro m
  unfold State.getCore
  rw [show t.core = s.core from h .core hp]

theorem seqKept_modCore (s : State) (n : Nat) (f : Core → Core) (h : ∀ c, (f c).seq = c.seq) :
    SeqKept s (s.modCore n f) := by
  intro m
  rw [State.getCore_modCore]
  split
  · next hm => rw [h, hm]
  · rfl

theorem seqKept_countCore (s : State) (n off k : Nat) : SeqKept s (s.countCore n off k) :=
  seqKept_modCore _ _ _ fun _ => rfl

theorem seqKept_fault (s : State) (n bit : Nat) : SeqKept s (s.fault n bit) := by
  intro m
  rw [getCore_fault]
  split
  · next hm => rw [hm]
  · rfl

theorem seqKept_uncorrected (s : State) (n : Nat) : SeqKept s (s.uncorrected n) :=
  seqKept_trans (seqKept_modCore _ _ _ (by intro c; rfl)) (seqKept_fault _ _ _)

theorem seqKept_meetScratch (s : State) (n i : Nat) (d : Bool) : SeqKept s (s.meetScratch n i d) := by
  unfold State.meetScratch
  split
  · exact seqKept_trans (seqKept_modCore _ _ _ (by intro c; rfl)) (seqKept_uncorrected _ _)
  · exact seqKept_modCore _ _ _ fun _ => rfl

theorem seqKept_modStack (s : State) (h : Nat) (f : Stack → Stack) : SeqKept s (s.modStack h f) := fun _ => rfl

theorem seqKept_meetWord (s : State) (w : Nat) : SeqKept s (s.meetWord w) := by
  unfold State.meetWord
  extract_lets double single marked a x r n
  split
  · split
    · exact seqKept_modStack _ _ _
    · split
      · exact seqKept_modStack _ _ _
      · split
        · exact seqKept_modStack _ _ _
        · exact seqKept_refl s
  · split
    · split
      · exact seqKept_modStack _ _ _
      · split
        · exact seqKept_modStack _ _ _
        · exact seqKept_refl s
    · split
      · split
        · exact seqKept_meetScratch _ _ _ _
        · split
          · exact seqKept_meetScratch _ _ _ _
          · exact seqKept_refl s
      · exact seqKept_refl s

theorem seqKept_meet (s : State) (ws : List Nat) : SeqKept s (s.meet ws) := by
  unfold State.meet
  split
  · exact seqKept_refl s
  · exact seqKept_foldl _ seqKept_meetWord _ s

theorem seqKept_bankWait (s : State) (n k : Nat) : SeqKept s (s.bankWait n k) := by
  unfold State.bankWait
  split
  · exact seqKept_refl s
  · exact seqKept_countCore _ _ _ _

theorem seqKept_logHazard (s : State) (n : Nat) (r w : Touch) : SeqKept s (s.logHazard n r w) :=
  seqKept_trans (seqKept_countCore _ _ _ _) (seqKept_modCore _ _ _ (by intro c; rfl))

theorem seqKept_noteReads (s : State) (n : Nat) (rs : List Touch) : SeqKept s (s.noteReads n rs) := by
  unfold State.noteReads
  extract_lets c s1
  split
  · exact seqKept_refl s
  · exact seqKept_trans (seqKept_foldl _ (fun s r => seqKept_foldl _ (fun s w => seqKept_logHazard s n r w) _ s) rs s)
      (seqKept_modCore _ _ _ (by intro c; rfl))

theorem seqKept_portReads (s : State) (n t0 t1 : Nat) (l : List (Touch × List Nat)) :
    SeqKept s (s.portReads n t0 t1 l).2.2 := by
  unfold State.portReads
  suffices h : ∀ r : Nat × State × State, SeqKept s r.2.2 → SeqKept s (l.foldl _ r).2.2 from h (0, s, s) (seqKept_refl s)
  intro r hr
  induction l generalizing r with
  | nil => exact hr
  | cons e l ih =>
    refine ih _ (seqKept_trans hr (seqKept_trans ?_ (seqKept_bankWait _ _ _)))
    refine seqKept_trans (seqKept_trans ?_ (seqKept_noteReads _ _ _)) (seqKept_modCore _ _ _ (by intro c; rfl))
    refine seqKept_trans ?_ (seqKept_meet _ _)
    split
    · exact seqKept_refl _
    · exact seqKept_countCore _ _ _ _

theorem seqKept_meetAcc (s : State) (n row : Nat) : SeqKept s (s.meetAcc n row) := by
  unfold State.meetAcc
  extract_lets l ds s1
  split
  · exact seqKept_refl s
  · exact seqKept_trans (seqKept_modCore _ _ _ (by intro c; rfl)) (seqKept_foldl _ (fun s _ => seqKept_uncorrected s n) _ _)

theorem seqKept_meetTb (s : State) (n row : Nat) : SeqKept s (s.meetTb n row) := by
  unfold State.meetTb
  extract_lets l ds s1
  split
  · exact seqKept_refl s
  · exact seqKept_trans (seqKept_modCore _ _ _ (by intro c; rfl)) (seqKept_foldl _ (fun s _ => seqKept_uncorrected s n) _ _)

theorem seqKept_veRowPair (s : State) (n : Nat) (q : Queued) (tile k p : Nat) :
    SeqKept s (s.veRowPair n q tile k p) := by
  unfold State.veRowPair
  extract_lets d c pack r0 ceff t0 rows js accRows tbRows ecc ra rb a b ls ls' x out poison bad val o s1 s2 s3 late s4
  have ha : SeqKept s ra.2.2 := by
    show SeqKept s (if veSrc d = 3 then _ else _ : Nat × State × State).2.2
    split
    · exact seqKept_portReads _ _ _ _ _
    · exact seqKept_refl s
  have hb : SeqKept ra.2.2 rb.2.2 := by
    show SeqKept _ (if veBSrc d = 2 then _ else _ : Nat × State × State).2.2
    split
    · exact seqKept_portReads _ _ _ _ _
    · exact seqKept_refl _
  have h1 : SeqKept rb.2.2 s1 :=
    seqKept_trans (seqKept_foldl _ (fun s r => seqKept_meetAcc s n r) _ _) (seqKept_foldl _ (fun s r => seqKept_meetTb s n r) _ _)
  have h2 : SeqKept s1 s2 := by
    show SeqKept s1 (if veCols d < 128 then _ else s1)
    split
    · exact seqKept_of_only (only_fresh _ _) (by simp)
    · exact seqKept_refl _
  have h3 : SeqKept s2 s3 :=
    seqKept_trans (seqKept_trans (seqKept_countCore _ _ _ _) (seqKept_countCore _ _ _ _)) (seqKept_countCore _ _ _ _)
  have h4 : SeqKept s3 s4 := seqKept_modCore _ _ _ fun _ => rfl
  have h : SeqKept s s4 := seqKept_trans (seqKept_trans ha hb) (seqKept_trans (seqKept_trans h1 h2) (seqKept_trans h3 h4))
  split
  · exact seqKept_trans h (seqKept_fault _ _ _)
  · exact h

theorem seqKept_veRowNext (s : State) (n : Nat) (till : Option Nat) (p : Nat) : SeqKept s (s.veRowNext n till p) := by
  unfold State.veRowNext
  extract_lets c
  split
  · exact seqKept_refl s
  · extract_lets t tile
    split
    · exact seqKept_refl s
    · exact seqKept_veRowPair _ _ _ _ _ _

theorem seqKept_veRowsTo (s : State) (n : Nat) (till : Option Nat) : SeqKept s (s.veRowsTo n till) := by
  unfold State.veRowsTo
  split
  · exact seqKept_refl s
  · exact seqKept_foldl _ (fun s p => seqKept_veRowNext s n till p) _ s

/-! ### The block of a core in the register map (R209, R494) -/

section coreBlock

variable {n off : Nat} (hn : n < 576) (ho : off < 0x10000)

include hn ho

theorem blockOf_core : blockOf (n * 0x10000 + off) = (.core n, off) := by
  have hd : (n * 0x10000 + off) / 0x10000 = n := by omega
  have hm : (n * 0x10000 + off) % 0x10000 = off := by omega
  unfold blockOf
  rw [hd, hm]
  exact if_pos hn

theorem regNode_core : regNode (n * 0x10000 + off) = coreQuad n := by
  have hd : (n * 0x10000 + off) / 0x10000 = n := by omega
  unfold regNode
  rw [if_pos (by omega), hd]

/-- Every register of a core's block lies in the register range. -/
theorem coreAddr_mem : regBase ≤ regBase + n * 0x10000 + off ∧ regBase + n * 0x10000 + off < regBase + 0x8000000 := by
  omega

end coreBlock

theorem coreAddr_sub (n off : Nat) : regBase + n * 0x10000 + off - regBase = n * 0x10000 + off := by omega

theorem coreAddr_aligned (n : Nat) {off : Nat} (h : off % 4 = 0) : (regBase + n * 0x10000 + off) % 4 = 0 := by
  unfold regBase
  omega

/-- No register of a core shows a measured quantity. -/
theorem measure_of_core {o n off : Nat} (h : blockOf o = (.core n, off)) (s : State) : s.measure o = s := by
  unfold State.measure
  rw [h]

theorem regRead_of_core {o n off : Nat} (h : blockOf o = (.core n, off)) (s : State) : s.regRead o = s.coreReg n off := by
  unfold State.regRead
  rw [h]

theorem wordReg_of_seqBase {o n : Nat} (h : blockOf o = (.core n, 0x40)) : wordReg o = .seqBase n := by
  unfold wordReg
  rw [h]
  rfl

theorem wordReg_of_seqLen {o n : Nat} (h : blockOf o = (.core n, 0x44)) : wordReg o = .seqLen n := by
  unfold wordReg
  rw [h]
  rfl

theorem wordReg_of_ccbId {o n : Nat} (h : blockOf o = (.core n, 0)) : wordReg o = .ccb (.core n) 0 := by
  unfold wordReg
  rw [h]
  rfl

/-- CORE_SEQ_LEN reads as the sequencer holds it (R99). -/
theorem coreReg_seqLen (s : State) (n : Nat) : s.coreReg n 0x44 = BitVec.ofNat 32 (s.getCore n).seq.lenReg := by
  have h : s.coreReg n 0x44 = BitVec.ofNat 32 ((s.veRowsTo n (some (s.holdTill n))).getCore n).seq.lenReg := rfl
  rw [h, seqKept_veRowsTo]

/-- CCB_ID reads as the cell's identity, whether the cell is configured or not (R25). -/
theorem coreReg_ccbId (s : State) (n : Nat) : s.coreReg n 0 = s.ccbId (.core n) := by
  have h : s.coreReg n 0 = s.ccbNow (.core n) 0 := by
    unfold State.coreReg
    exact if_pos (by decide)
  rw [h]
  unfold State.ccbNow
  split <;> rfl

/-! ### Register writes (R7, R309, R310, R407) -/

theorem exec_bar2Write {g a : Nat} (hg : g < 2) (ha : regBase ≤ a ∧ a < regBase + 0x8000000) (w : Nat) (v : W32) (s : State) :
    exec (.registerWrite (.bar2 g) a w v) s = .next (if !(s.getSite g).linked then s
      else if w ≠ 4 ∨ a % 4 ≠ 0 then s.done eAlign else s.barWrite g (a - regBase) v) := by
  have h : exec (.registerWrite (.bar2 g) a w v) s = execRegisterWrite (.bar2 g) a w v s := rfl
  rw [h]
  simp [execRegisterWrite, unit, hg, ha.1, ha.2]

theorem exec_mgmtWrite {a : Nat} (ha : regBase ≤ a ∧ a < regBase + 0x8000000) (h4 : a % 4 = 0) (v : W32) (s : State) :
    exec (.registerWrite .mgmt a 4 v) s = .next (s.pmcWrite (a - regBase) v) := by
  have h : exec (.registerWrite .mgmt a 4 v) s = execRegisterWrite .mgmt a 4 v s := rfl
  rw [h]
  simp [execRegisterWrite, unit, h4, ha.1, ha.2]

theorem exec_bar0Write {g a : Nat} (hg : g < 2) (ha : a < 0x40000) (h4 : a % 4 = 0) (v : W32) {s : State}
    (hl : (s.getSite g).linked = true) :
    exec (.registerWrite (.bar0 g) a 4 v) s = .next (s.bar0Write g a v) := by
  have h : exec (.registerWrite (.bar0 g) a 4 v) s = execRegisterWrite (.bar0 g) a 4 v s := rfl
  rw [h]
  simp [execRegisterWrite, unit, h4, hg, ha, hl]

theorem linked_of_open {x : Site} (h : x.open = true) : x.linked = true := by
  simp only [Site.open, Site.linked, Bool.and_eq_true, decide_eq_true_eq] at h ⊢
  omega

/-- CORE_SEQ_BASE is none of the words that R310 names. -/
theorem barWrite_seqBase {o n : Nat} (h : wordReg o = .seqBase n) (g : Nat) (v : W32) (s : State) :
    s.barWrite g o v = (s.modSite g Site.dropWrite).done 0 := by
  unfold State.barWrite
  rw [h]
  split <;> rfl

theorem barWrite_down {g : Nat} {s : State} (h : (s.getSite g).open = false) (o : Nat) (v : W32) :
    s.barWrite g o v = (s.modSite g Site.dropWrite).done 0 := by
  unfold State.barWrite
  rw [h]
  rfl

theorem pmcWrite_seqBase {o n : Nat} (h : wordReg o = .seqBase n) (v : W32) (s : State) :
    s.pmcWrite o v = s.coreWrite n (.seqBase n) v := by
  unfold State.pmcWrite
  rw [h]

theorem pmcWrite_seqLen {o n : Nat} (h : wordReg o = .seqLen n) (v : W32) (s : State) :
    s.pmcWrite o v = s.coreWrite n (.seqLen n) v := by
  unfold State.pmcWrite
  rw [h]

/-- A core that is not in RESETTING takes the write (R407). -/
theorem coreWrite_of_live {s : State} {n : Nat} (h : (s.getCore n).ccb.state ≠ .resetting) (r : Reg) (v : W32) :
    s.coreWrite n r v = (s.setCore n ((s.getCore n).setReg r v)).answer 0 := if_neg h

theorem setReg_seqBase (c : Core) (n : Nat) (v : W32) :
    c.setReg (.seqBase n) v = { c with seq := { c.seq with baseReg := v.toNat % 2 ^ 18 } } := by
  simp [Core.setReg, bits]

/-- CORE_SEQ_LEN takes 0 to 16,384, and ignores a greater value (R99). -/
theorem setReg_seqLen (c : Core) (n : Nat) (v : W32) : c.setReg (.seqLen n) v = { c with seq := { c.seq with
    lenReg := if v.toNat % 32768 ≤ 16384 then v.toNat % 32768 else c.seq.lenReg } } := by
  have hb : bits v.toNat 0 15 = v.toNat % 32768 := by simp [bits]
  simp only [Core.setReg, hb]
  by_cases h : v.toNat % 32768 ≤ 16384
  · rw [if_neg (Nat.not_lt.mpr h), if_pos h]
  · rw [if_pos (Nat.not_le.mp h), if_neg h]

/-- A word of a mailbox lies at its own 4 KiB of BAR0 (R310). -/
theorem bar0Write_box {g m i : Nat} (hm : m < 16) (hi : i < 1024) (v : W32) {s : State} (ho : (s.getSite g).open = true) :
    s.bar0Write g (0x20000 + 4096 * m + 4 * i) v = (s.boxWrite g m i v).done 0 := by
  have h1 : (0x20000 + 4096 * m + 4 * i - 0x20000) / 4096 = m := by omega
  have h2 : (0x20000 + 4096 * m + 4 * i) % 4096 / 4 = i := by omega
  unfold State.bar0Write
  rw [if_neg (by simp; omega), if_neg (by omega), if_neg (by omega), h1, h2, ho]
  rw [if_pos (by simp; omega)]

theorem boxWrite_idle {g m i : Nat} (hi : i ≠ 0) (v : W32) {s : State} (h : ((s.getSite g).box m).owner ≠ 1) :
    s.boxWrite g m i v = s.modBox g m fun b => b.put i v := by
  unfold State.boxWrite
  dsimp only
  rw [if_neg (show ¬ _ = ownRunning from h)]
  simp only [if_neg hi]

/-- A word of an idle mailbox takes what the host writes, and nothing else changes (R312). -/
theorem mailboxWrite_ends {g m i : Nat} {s : State} (hg : g < 2) (hm : m < 16) (hi0 : 0 < i) (hi : i < 1024)
    (ho : (s.getSite g).open = true) (hown : ((s.getSite g).box m).owner ≠ 1) (v : W32) :
    Ends (.registerWrite (.bar0 g) (0x20000 + 4096 * m + 4 * i) 4 v) s fun t =>
      Only [.site, .resp] s t ∧ t.resp.status = 0 ∧ ((t.getSite g).box m).word i = v ∧
      (∀ j, j ≠ i → ((t.getSite g).box m).word j = ((s.getSite g).box m).word j) ∧
      (∀ k, k ≠ m → (t.getSite g).box k = (s.getSite g).box k) ∧ ∀ h, h ≠ g → t.getSite h = s.getSite h := by
  refine ends_next (exec_bar0Write hg (by omega) (by omega) v (linked_of_open ho)) ?_
  rw [bar0Write_box hm hi v ho, boxWrite_idle (by omega) v hown]
  have hbox (k : Nat) : (((s.modBox g m fun b => b.put i v).done 0).getSite g).box k =
      if k = m then ((s.getSite g).box m).put i v else (s.getSite g).box k := by
    simp only [State.done, State.getSite_answer, box_modBox, true_and]
  refine ⟨only_trans (only_mono (only_setSite _ _ _) (by simp)) (only_mono (only_answer _ _ _) (by simp)), rfl, ?_, ?_, ?_,
    fun h hh => State.getSite_setSite_ne s _ hh⟩
  · rw [hbox, if_pos rfl, Mailbox.word_put, if_pos rfl]
  · intro j hj
    rw [hbox, if_pos rfl, Mailbox.word_put, if_neg hj]
  · intro k hk
    rw [hbox, if_neg hk]

/-- A read that is not of one aligned word completes with E_ALIGN and 0 (R7). -/
theorem barRead_misaligned {a w : Nat} (h : w ≠ 4 ∨ a % 4 ≠ 0) (p : Path) (s : State) : s.barRead p a w = (0x0001, 0) := by
  unfold State.barRead
  exact if_pos (by simpa using h)

theorem registerWrites : Claims.RegisterWrites := by
  refine ⟨?_, ?_, ?_, ?_, ?_, ?_, ?_, ?_⟩
  · intro g a w v s hg h1 h2 hu hl
    rw [exec_bar2Write hg ⟨h1, h2⟩, hl, if_neg (by simp), if_pos hu]
    rfl
  · intro g a w v s hg h1 h2 hl
    rw [exec_bar2Write hg ⟨h1, h2⟩, hl]
    rfl
  · intro g a v s hg h1 h2 h4 hs
    have hl : (s.getSite g).linked = true := by simp [Site.linked, hs]
    have ho : (s.getSite g).open = false := by simp [Site.open, hs]
    rw [exec_bar2Write hg ⟨h1, h2⟩, hl, if_neg (by simp), if_neg (by simp [h4]), barWrite_down ho]
    rfl
  · exact fun p a w s hu => barRead_misaligned hu p s
  · intro g n v s hg hn hl
    rw [exec_bar2Write hg (coreAddr_mem hn (by decide)), hl, if_neg (by simp), if_neg (by simp [coreAddr_aligned]),
      coreAddr_sub, barWrite_seqBase (wordReg_of_seqBase (blockOf_core hn (by decide)))]
    rfl
  · intro n v s hn hr
    rw [exec_mgmtWrite (coreAddr_mem hn (by decide)) (coreAddr_aligned n rfl), coreAddr_sub,
      pmcWrite_seqBase (wordReg_of_seqBase (blockOf_core hn (by decide))), coreWrite_of_live hr, setReg_seqBase]
    rfl
  · intro n v s hn hr
    rw [exec_mgmtWrite (coreAddr_mem hn (by decide)) (coreAddr_aligned n rfl), coreAddr_sub,
      pmcWrite_seqBase (wordReg_of_seqBase (blockOf_core hn (by decide)))]
    exact congrArg _ (if_pos hr)
  · exact fun g m i v s hg hm hi0 hi h1 h3 hown => mailboxWrite_ends hg hm hi0 hi (by simp [Site.open, h1, h3]) hown v

/-! ### MGMT messages (R211, R213) -/

/-- No core and no completion bears on the control links. -/
theorem reaches_coreWritten (s : State) (n : Nat) (c : Core) (st : Status) (a b : Nat) :
    ((s.setCore n c).answer st).reaches a b = s.reaches a b := rfl

theorem exec_mgmtMessage {a : Nat} (ha : regBase ≤ a ∧ a < regBase + 0x8000000) (w : Bool) (v : W32) (s : State) :
    exec (.mgmtMessage w a v) s = if s.reaches nodePmc (regNode (a - regBase)) then
      if a % 4 ≠ 0 then .next (s.answer 1 (if w then [] else [0]))
      else if w then .next (s.pmcWrite (a - regBase) v) else .next (s.mgmtRead (a - regBase))
      else .next s := by
  have h : exec (.mgmtMessage w a v) s = execMgmtMessage w a v s := rfl
  rw [h]
  simp only [execMgmtMessage, unit, due, ha.1, ha.2, decide_true, Bool.and_self, if_true]
  rfl

/-- A message to a core that the PMC reaches. -/
theorem exec_coreMessage {n off : Nat} (hn : n < 576) (ho : off < 0x10000) (h4 : off % 4 = 0) {s : State}
    (hr : s.reaches nodePmc (coreQuad n) = true) (w : Bool) (v : W32) :
    exec (.mgmtMessage w (regBase + n * 0x10000 + off) v) s =
      if w then .next (s.pmcWrite (n * 0x10000 + off) v) else .next (s.mgmtRead (n * 0x10000 + off)) := by
  rw [exec_mgmtMessage (coreAddr_mem hn ho), coreAddr_sub, regNode_core hn ho, if_pos hr,
    if_neg (not_not_intro (coreAddr_aligned n h4))]

theorem mgmtRead_seqLen {o n : Nat} (h : blockOf o = (.core n, 0x44)) (s : State) :
    s.mgmtRead o = s.answer 0 [BitVec.ofNat 32 (s.getCore n).seq.lenReg] := by
  unfold State.mgmtRead
  rw [measure_of_core h, wordReg_of_seqLen h]
  dsimp only
  rw [regRead_of_core h, coreReg_seqLen]

theorem mgmtRead_ccbId {o n : Nat} (h : blockOf o = (.core n, 0)) (s : State) :
    s.mgmtRead o = s.answer 0 [s.ccbId (.core n)] := by
  unfold State.mgmtRead
  rw [measure_of_core h, wordReg_of_ccbId h]
  dsimp only
  rw [regRead_of_core h, coreReg_ccbId]

theorem mgmtMessages : Claims.MgmtMessages := by
  refine ⟨?_, ?_, ?_, ?_⟩
  · intro a w v s h1 h2 hr
    rw [exec_mgmtMessage ⟨h1, h2⟩, hr]
    rfl
  · intro a w v s h1 h2 h4 hr
    rw [exec_mgmtMessage ⟨h1, h2⟩, hr, if_pos rfl, if_pos h4]
    rfl
  · intro n v s hn hr hs
    refine ends_next (exec_coreMessage (off := 0x44) hn (by decide) rfl hr true v) ?_
    rw [pmcWrite_seqLen (wordReg_of_seqLen (blockOf_core hn (by decide))), coreWrite_of_live hs, setReg_seqLen]
    refine ⟨only_trans (only_mono (only_setCore _ _ _) (by simp)) (only_mono (only_answer _ _ _) (by simp)),
      fun m hm => State.getCore_setCore_ne s _ hm, State.getCore_setCore_same s _ _, ?_⟩
    refine ends_next (exec_coreMessage (off := 0x44) hn (by decide) rfl ((reaches_coreWritten ..).trans hr) false 0) ?_
    rw [mgmtRead_seqLen (blockOf_core hn (by decide))]
    exact ⟨only_answer _ _ _, rfl⟩
  · intro n s hn hr
    rw [← Nat.add_zero (regBase + n * 0x10000)]
    refine ends_next (exec_coreMessage hn (by decide) rfl hr false 0) ?_
    rw [mgmtRead_ccbId (blockOf_core hn (by decide))]
    exact ⟨only_answer _ _ _, rfl⟩

/-- Settles O6: the rules of register writes and those of MGMT messages. -/
theorem registerAccess : Obligations.RegisterAccess := ⟨registerWrites, mgmtMessages⟩

end Sys2Proof.Machine
end
